-- ==== Sys2Proof/Word.lean ====
section
/-! DEFINITION. The word types of the KM1040 (rule R4: bit 0 is the least significant bit; multi-byte values are
little-endian) and the one sparse-table type that every repeated unit, register bank and memory of the State uses. -/

namespace Sys2Proof

/-- One byte. -/
abbrev Byte := BitVec 8
/-- A register, descriptor or ring word (00_scope.md: registers are 32 bits wide). -/
abbrev W32 := BitVec 32
/-- A 64-bit quantity: accession times, SRAM words, operand slots. -/
abbrev W64 := BitVec 64

/-- A sparse table: pairs of a key and a value, keys strictly rising, no pair that holds the default value. The default is
the reset value of the thing tabled, and is named at each use. -/
abbrev Tab (α : Type) := List (Nat × α)

end Sys2Proof
end

