-- ==== Sys2Proof/Syntax.lean ====
section
/-! DEFINITION. The commands: one constructor of Instr per row of spec/opcode_table.json, with the operands its rule gives it,
and the operand types. -/

namespace Sys2Proof

/-- A tile: its device queue index, its round number and its tile index (Table 5.10: QUEUE, ROUND, TILE). -/
structure TileId where
  q : Nat
  rnd : W32
  idx : Nat
  deriving DecidableEq, Repr

/-- The four partitions of a Carrel bank (Table 5.6). -/
inductive Part where | wt | act | aux | inp
  deriving DecidableEq, Repr

/-- The station kinds of Table 5.2. -/
inductive StKind where | array | glossary | ledger | returns | loan
  deriving DecidableEq, Repr

/-- A station of a Wing: for ARRAY the unit is the physical array 0–32, for LOAN it is 0, otherwise 0 or 1. -/
structure StRef where
  kind : StKind
  wing : Fin 32
  unit : Nat
  deriving DecidableEq, Repr

/-- A word of memory that the check code of a read finds damaged: its device address, and whether it is uncorrectable
(rules R199, R200, R368). Damage comes from outside (notes/assumptions/8). -/
structure EccHit where
  addr : Nat
  uncorrectable : Bool
  deriving DecidableEq, Repr

/-- What finds an in-flight array fault (rule R104; the codes of event 0x0012 in Table 15.5). -/
inductive ChkFault where | residue | parity | store
  deriving DecidableEq, Repr

/-- The clock domains of Table 13.4 that have a reference outside AON. -/
inductive ClkDom where | sys | aclk | mem | pcie | serdes
  deriving DecidableEq, Repr

/-- The rails that BOR monitors (Table 14.6); of VCORE, the share of the uncore logic and that of the Wings (rule R363). -/
inductive Rail where | vcoreUncore | vcoreWings | vsram | vser | vhbm | vlpio | vio
  deriving DecidableEq, Repr

/-- How a device read of host memory ends (rules R269, R277, R285, R367). -/
inductive HostRes where
  | data (bytes : List Byte)
  | unsupported | completerAbort | timeout | poisoned
  deriving DecidableEq, Repr

/-- A slip (Table 12.2). -/
structure Slip where
  dest : BitVec 16
  src : BitVec 16
  vc : BitVec 3
  func : BitVec 5
  kind : BitVec 4
  len : BitVec 13
  seq : BitVec 16
  rank : Byte
  status : Byte
  tag : W32
  folio : BitVec 20
  offset : BitVec 25
  countLen : W32
  stamp : W32
  payload : List Byte
  deriving DecidableEq, Repr

/-- A hello message (rule R301). -/
structure Hello where
  serial : W64
  node : BitVec 16
  assigned : Bool
  port : BitVec 4
  candidate : Bool
  time : W64
  deriving DecidableEq, Repr

/-- What a MGMT slip does (rule R303). Its payload layout is not given (notes/assumptions/11), nor what a node answers to an
exploring slip (notes/assumptions/77): explore carries the manager's serial number, the port by which it has come to the node, the
route from the manager and the rest of the route back; identity answers it with what the node's hello on that port says and with its
UP ports; via is a slip that goes on by the ports of its route. -/
inductive MgmtOp where
  | assign (node : BitVec 16)
  | loadRoutes (entries : List (BitVec 16 × W32))
  | setTime (epoch : W64) (n0 : BitVec 48) (period : Nat)
  | setRouted
  | explore (manager : W64) (entry : BitVec 4) (path back : List (BitVec 4))
  | identity (path : List (BitVec 4)) (hello : Hello) (ports : List (BitVec 4))
  | via (path : List (BitVec 4)) (op : MgmtOp)
  deriving DecidableEq, Repr

/-- An option block as its verification leaves it (rules R343, R386, R388, R389; Table 13.6). signer: 0 Ryvas, 1 the owner, none
when no signature verifies. ownerKey: the owner public key that it carries. bytes: the raw 16 KiB. -/
structure OptBlock where
  signer : Option Nat
  svn : BitVec 16
  declared : BitVec 2
  ownerKey : Option (List Byte)
  stretchMs : Nat
  wdogMs : Nat
  pinCfg : W32
  idMap : List (W64 × BitVec 16)
  repair : List W64
  foxing : List Rat
  bytes : List Byte
  deriving DecidableEq, Repr

/-- A firmware or recovery image as its verification leaves it (rules R386, R388; Table 19.5). -/
structure FwImage where
  signedByRyvas : Bool
  svn : BitVec 16
  digest : BitVec 384
  major : BitVec 16
  minor : BitVec 16
  build : W32
  deriving DecidableEq, Repr

/-- What the verification of an area of the configuration flash finds there (rules R386, R432). -/
inductive FlashObj where
  | image (i : FwImage)
  | options (o : OptBlock)
  deriving DecidableEq, Repr

/-- The rates of the management bus (rule R410), in the order of MGT_STAT.SPEED. -/
inductive BusRate where
  | k100 | k400 | m1
  deriving DecidableEq, Repr

/-- How the replay-protected partition answers (rule R387). -/
inductive RpbAnswer where
  | good | noKey | absent | badAuth
  deriving DecidableEq, Repr

/-- One evaluation's measurements (rule R357): package power over 100 µs and 1 ms in W, the readings of die sensors 0 to 68, the
hottest Stack, VCORE current in A, whether the step-up conditions held for the last 1 ms, and the operating point in MHz
that firmware predicts will meet the limits. -/
structure PowerSample where
  p100 : Nat
  p1ms : Nat
  temps : List Nat
  hbm : Nat
  amps : Nat
  calm : Bool
  predicted : Nat
  deriving DecidableEq, Repr

/-- What the host writes to a function's configuration space and MSI-X table (Table 17.1, rules R403, R406, R407): Bus Master Enable,
Memory Space Enable, D3hot, the Completion Timeout Value, the vector's mask, its address and data, Max_Payload_Size and
Max_Read_Request_Size by their PCIe codes, and 10-Bit Tag Requester Enable. -/
inductive CfgWrite where
  | busMaster (on : Bool) | memSpace (on : Bool) | d3hot (on : Bool) | complTimeout (v : BitVec 4) | msixMask (on : Bool)
  | msixEntry (addr : W64) (data : W32) | maxPayload (v : BitVec 3) | maxRead (v : BitVec 3) | tenBitTags (on : Bool)
  deriving DecidableEq, Repr

/-- Rate and width that the PCIe link trains to (Table 17.1). -/
inductive PcieRate where | g64 | g32 | g16
  deriving DecidableEq, Repr
inductive PcieWidth where | x16 | x8 | x4
  deriving DecidableEq, Repr

/-- An MCTP packet over the SMBus binding (rule R414). -/
structure MctpPkt where
  src : Byte
  msgTag : BitVec 3
  som : Bool
  eom : Bool
  msgType : Byte
  body : List Byte
  pecOk : Bool
  deriving DecidableEq, Repr

/-- What CORE_CTL asks of a control core (Table 17.5). -/
inductive CoreOp where | halt | step | resume
  deriving DecidableEq, Repr

/-- The commands (spec/opcode_table.json). f: function 0–31; k: mailbox 0–7; w: Wing; r: Runner; a: physical array; u: unit;
q: device queue index; p: port; ecc: damage that the reads of the step meet. An operand with a default may be left out: no damage,
no write of port A, the first rail of Table 14.6 at 0 mV. -/
inductive Instr where
  -- mailbox commands (Table 11.4): the Desk takes up the request in mailbox k of function f
  | getVersion (f : Fin 32) (k : Fin 8)
  | getInfo (f : Fin 32) (k : Fin 8)
  | queueCreate (f : Fin 32) (k : Fin 8)
  | queueDestroy (f : Fin 32) (k : Fin 8)
  | queueResume (f : Fin 32) (k : Fin 8)
  | queueSetAttr (f : Fin 32) (k : Fin 8)
  | queueQuery (f : Fin 32) (k : Fin 8)
  | c0Reserve (f : Fin 32) (k : Fin 8)
  | c0Release (f : Fin 32) (k : Fin 8)
  | folioAlloc (f : Fin 32) (k : Fin 8)
  | folioFree (f : Fin 32) (k : Fin 8)
  | folioPin (f : Fin 32) (k : Fin 8)
  | folioUnpin (f : Fin 32) (k : Fin 8)
  | folioQuery (f : Fin 32) (k : Fin 8)
  | folioWrite (f : Fin 32) (k : Fin 8)
  | folioRead (f : Fin 32) (k : Fin 8) (ecc : List EccHit)
  | setTierLimits (f : Fin 32) (k : Fin 8)
  | setCurator (f : Fin 32) (k : Fin 8)
  | setTick (f : Fin 32) (k : Fin 8)
  | setInventory (f : Fin 32) (k : Fin 8)
  | setPowerCap (f : Fin 32) (k : Fin 8)
  | memRead (f : Fin 32) (k : Fin 8) (ecc : List EccHit)
  | memWrite (f : Fin 32) (k : Fin 8) (portA : List (Nat × W64))
  -- tile operations (Table 5.3): Runner r of Wing w takes up its next tile
  | matmul (w : Fin 32) (r : Fin 4)
  | accRead (w : Fin 32) (r : Fin 4)
  | accWrite (w : Fin 32) (r : Fin 4)
  | map (w : Fin 32) (r : Fin 4)
  | rowstat (w : Fin 32) (r : Fin 4)
  | copy (w : Fin 32) (r : Fin 4)
  | send (w : Fin 32) (r : Fin 4)
  | recv (w : Fin 32) (r : Fin 4)
  | put (w : Fin 32) (r : Fin 4)
  | get (w : Fin 32) (r : Fin 4)
  | signal (w : Fin 32) (r : Fin 4)
  | allreduce (w : Fin 32) (r : Fin 4)
  | allgather (w : Fin 32) (r : Fin 4)
  | fence (w : Fin 32) (r : Fin 4)
  -- Runners, arrays and stations
  | psplitChange (w : Fin 32) (r : Fin 4)
  | slabArrive (t : TileId) (part : Part) (tagOk : Bool) (ecc : List EccHit)
  | passStart (w : Fin 32) (a : Fin 33) (chk : Option ChkFault) (ecc : List EccHit)
  | drainStart (w : Fin 32) (a : Fin 33) (ecc : List EccHit := [])
  | drainEnd (w : Fin 32) (a : Fin 33)
  | creditReturn (st : StRef) (ecc : List EccHit)
  | stationTakeUp (st : StRef) (ecc : List EccHit)
  | userTableFill (w : Fin 32) (u : Fin 2) (ecc : List EccHit)
  | stationTileFinish (st : StRef) (ecc : List EccHit := [])
  | tileComplete (q : Fin 1024)
  | roundReexecute (w : Fin 32) (a : Fin 33)
  | roundOverrun (q : Fin 1024) (rnd : W32)
  | c0Demotion (q : Fin 1024) (rnd : W32)
  | inputWaitTimeout (t : TileId)
  | lateBurst (slip : Slip)
  | accWindowRead (w : Fin 32) (v : W32)
  | accWindowWrite (w : Fin 32) (v : W32)
  | accWindowTransferEnd (w : Fin 32) (ecc : List EccHit := [])
  -- ticks and queues
  | tickBoundary
  | admissionListClose
  | tickOutFall
  | tickInEdge
  | substituteBoundary
  | producerPoll (q : Fin 1024)
  | flushReadDone (tag : Nat) (res : HostRes)
  | queueDestroyComplete (q : Fin 1024)
  | destroyTimeout (q : Fin 1024)
  -- moves, tests, scrub, log, SRAM windows
  | moveChunkCopied (folio : BitVec 20) (ecc : List EccHit)
  | moveSwitch (folio : BitVec 20)
  | inventoryRegionTest (engine : Fin 33) (fail1 : Bool) (fail2 : List (Fin 4)) (ecc : List EccHit)
  | arrayInventoryTest (w : Fin 32) (a : Fin 33) (good : Bool)
  | repairLogCopy
  | patrolScrub (depository : Bool) (word : Nat) (raced : Bool) (ecc : List EccHit)
  | logRecordWrite (source : Nat)
  | sramWindowRead (off : BitVec 26) (len : Nat) (ecc : List EccHit)
  | sramWindowWrite (off : BitVec 26) (data : List Byte) (portA : List (Nat × W64))
  | setViewWrite (off : BitVec 26) (data : List Byte) (portA : List (Nat × W64))
  | clearViewWrite (off : BitVec 26) (data : List Byte) (portA : List (Nat × W64))
  -- registers
  | registerWrite (f : Fin 32) (off : BitVec 26) (size : Nat) (v : W32)
  | dskAclockLoRead
  | rstTickNumLoRead
  | queLostEventsRead (f : Fin 32) (q : Fin 1024)
  | fnEventEnWrite (f : Fin 32) (v : W32)
  | relPertCtlWrite (v : W32)
  -- reset and bring-up
  | swResetL1 (v : W32)
  | swResetL2 (v : W32)
  | swResetL3 (v : W32)
  | hostGo
  | porAssert
  | porRelease
  | borAssert (rail : Rail := .vcoreUncore) (mv : Nat := 0)
  | borRelease (mvs : List Nat := [])
  | nrstLow
  | nrstHigh
  | clockFailure (d : ClkDom)
  | systemReferenceReturn
  | watchdogExpire
  | lockup (doubleFault : Bool := false)
  | stretchEnd (ratio : Nat)
  | nrstSample (high : Bool)
  | clockQualified (d : ClkDom) (badArrays : List Nat)
  | clockQualifyRetry (d : ClkDom) (good : Bool)
  | optionBlockLoaded (pufOk : Bool) (rpb : RpbAnswer) (a : Option OptBlock) (b : Option OptBlock) (vaultOk : Bool)
      (writeOk : Bool)
  | firmwareVerified (primary : Option FwImage) (recovery : Option FwImage) (fromStacks : Bool) (writeOk : Bool)
  | memoryTrainingDone (modules : List (Option Nat))
  | bringupReady
  | bringupSlow
  -- power, thermal, wear
  | activeRequest (autoWake : Bool)
  | drowseRequest (autoWake : Bool)
  | offRequest (autoWake : Bool)
  | drowseEntryDone
  | wakeComplete
  | dvfsEvaluation (m : PowerSample)
  | avsStepResponse (good : Bool)
  | thermalThrottle (sensor : Nat) (temp : Nat) (hbm : Nat)
  | throttleRelease (die : Nat) (hbm : Nat)
  | thermalTrip (sensor : Nat) (temp : Nat)
  | foxingMeasure (monitors : List (Nat × Rat × Rat)) (lanes : List (Nat × Rat)) (dayEnd : Bool)
  | stackMarginMeasure (channels : List (Nat × Rat))
  -- fabric
  | flitReceive (p : Fin 9) (flit : List Byte) (fecSymbols : Nat)
  | nak (p : Fin 9) (seq : BitVec 12)
  | helloSend
  | helloMessage (p : Fin 9) (h : Hello)
  | helloTimeout (p : Fin 9)
  | laneLockLoss (p : Fin 9) (lane : Fin 4)
  | portTrainingDone (p : Fin 9) (good : Bool) (lanes : BitVec 4)
  | portCongested (p : Fin 9)
  | managerElectionTimeout
  | mgmtSlip (op : MgmtOp)
  | timeSyncExchange (parent : W64) (depth : Nat)
  | timeSyncLost
  | slipForward (slip : Slip)
  | writeSlip (slip : Slip) (ecc : List EccHit)
  | readSlip (slip : Slip) (ecc : List EccHit)
  | readData (slip : Slip)
  | addSlip (slip : Slip) (ecc : List EccHit)
  | rts (slip : Slip)
  | cts (slip : Slip)
  | ack (slip : Slip)
  | slipResendTimeout (dest : BitVec 16) (cls : BitVec 2)
  -- tenants and the host link
  | flr (f : Fin 32)
  | flrTileAbandon (f : Fin 32)
  | tenantScrubEnd (f : Fin 32)
  | vfDisable (numVFs : Fin 32) (enable : Bool)
  | hotReset
  | linkDown
  | perstN
  | poisonedTlp (f : Fin 32)
  | hostCompletion (tag : Nat) (res : HostRes)
  | msixPendingSend (f : Fin 32)
  -- debug authorisation
  | debugLevelApply (v : W32)
  | tokenSubmit
  | tokenVerifyDone
  -- management bus
  | addressCommand (addr : BitVec 7) (data : Byte) (pecOk : Bool) (enumIn : Bool) (rate : BusRate := .k100)
  | alertResponse (lowerWins : Bool)
  | smbusTimeout
  | arbitrationLost
  | mctpPacket (p : MctpPkt) (rate : BusRate := .k100)
  | setEndpointId (eid : Byte)
  | getEndpointId
  | getEndpointUuid
  | getMctpVersionSupport (msgType : Byte)
  | getMessageTypeSupport
  | getVendorDefinedMessageSupport
  | spdmGetVersion
  | spdmGetCapabilities
  | spdmNegotiateAlgorithms
  | spdmGetDigests
  | spdmGetCertificate (slot : Byte) (offset : Nat) (length : Nat)
  | spdmChallenge (slot : Byte) (nonce : List Byte)
  | spdmGetMeasurements (index : Byte) (signed : Bool) (nonce : List Byte)
  | getTid
  | setTid (tid : Byte)
  | getPldmVersion (pldmType : Byte)
  | getPldmTypes
  | getPldmCommands (pldmType : Byte)
  | getSensorReading (id : BitVec 16)
  | getStateSensorReadings (id : BitVec 16)
  | getPdr (handle : Nat)
  | getPdrRepositoryInfo
  | pollForPlatformEventMessage (acknowledge : Bool)
  | queryDeviceIdentifiers
  | getFirmwareParameters
  | requestUpdate
  | passComponentTable (component : BitVec 16)
  | updateComponent (component : BitVec 16) (size : Nat)
  | requestFirmwareData (block : List Byte) (signedOk : Bool) (found : Option FlashObj := none) (copyOk : Bool := true)
  | activateFirmware
  | getStatus
  | cancelUpdate
  | getNonce
  | submitToken (token : List Byte)
  | powerReq (req : BitVec 2)
  | regRead (off : BitVec 26) (ecc : List EccHit := [])
  | regWrite (off : BitVec 26) (v : W32) (portA : List (Nat × W64) := [])
  | vdmMemRead (addr : BitVec 44) (len : Nat) (ecc : List EccHit)
  | vdmMemWrite (addr : BitVec 44) (data : List Byte) (portA : List (Nat × W64))
  | coreCtl (core : Fin 4) (op : CoreOp)
  | reset (l1 : Bool)
  | logRead (first : Nat) (count : Nat) (ecc : List EccHit := [])
  -- the rest of the table
  | rcFieldRead (f : Fin 32) (off : BitVec 26) (ecc : List EccHit := [])
  | tripSensorCooled (temp : Nat)
  | perstNRelease
  | pcieLinkUp (rate : PcieRate := .g64) (width : PcieWidth := .x16)
  | configurationWrite (f : Fin 32) (c : CfgWrite)
  | aislesUnitCrcFail (t : TileId) (retries : Nat)
  deriving DecidableEq, Repr

end Sys2Proof
end

