-- ==== Sys2Proof/Decode.lean ====
section
/-! DEFINITION. The commands that the table's bits spell. No row of spec/opcode_table.json has bits, so no word spells one. -/

namespace Sys2Proof

/-- The command that a word of nbits bits spells: none, because no row of the table gives any bits. -/
def decodeTableWord (_nbits _w : Nat) : Option Instr := none

end Sys2Proof
end

