-- ==== Sys2Proof/Config.lean ====
section
/-! DEFINITION. What one part fixes and the manual does not state: the free values and the uninterpreted functions.
None of these has a body that Lean can evaluate, so no proof can rest on a value of one (notes/assumptions/9, 10). -/

namespace Sys2Proof

/-- The free choices of firmware: which folio ID and which free extent it picks (rules R220, R225), and any other value the
manual leaves open. The model applies it to the counter `freeCtr` of the State, which each use advances. DESIGN CHOICE. -/
opaque Config.free : Nat → Nat

/-- A free 32-bit value, for a result that the manual does not state. DESIGN CHOICE. -/
opaque Config.freeWord : Nat → W32

/-- The n-th nonce of the AON random generator (rule R397). DESIGN CHOICE. -/
opaque Config.nonce : Nat → BitVec 256

/-- DEVICE_ID (rule R385): the digest of this device's public key, 48 bytes, byte 0 in bits 7:0. -/
opaque Config.deviceId : BitVec 384

/-- SHA-384 (rules R385, R391), named by the manual and not defined in it. Byte 0 of the digest in bits 7:0. -/
opaque Config.sha384 : List Byte → BitVec 384

/-- The Ryvas root public key (rule R386). -/
opaque Config.ryvasKey : List Byte

/-- Whether a signature (96 bytes, r then s) over SHA-384 of the message verifies under a public key (rules R386, R397). -/
opaque Config.ecdsaOk : List Byte → List Byte → List Byte → Bool

/-- The signature of the identity key over a message (rule R391). -/
opaque Config.signIdk : List Byte → List Byte

/-- The boot ROM's bytes (rule R443, control space 0x700_1000_0000). -/
opaque Config.bootRom : Nat → Byte

/-- SHA-384 of the boot ROM (Table 16.2 index 1). -/
opaque Config.bootRomDigest : BitVec 384

/-- The platform descriptor records that the PLDM repository holds (rule R416), by record handle. -/
opaque Config.pdr : Nat → List Byte

/-- The number of platform descriptor records. -/
opaque Config.pdrCount : Nat

/-- The sign of a row's maximum or minimum that is a zero, from the signs of the zeros in the row (rule R179 states none). -/
opaque Config.zeroTie : List Bool → Bool

/-- The whole number that stands for an exact figure which is not whole, where the manual states no rounding (DSK_POLL_RATE,
QUE_POLL_EFF: rule R276). DESIGN CHOICE. -/
opaque Config.whole : Rat → Nat

end Sys2Proof
end

