-- ==== Sys2Proof/Machine/State.lean ====
section
/-! DEFINITION. The state of the KM1040 as plain data, its value right after an L0 reset (rule R8: the Reset column of every
field map), and the reasons a step can stop. Every repeated unit is a sparse table (Tab) whose default is the unit's reset
value; the keys are: queue 32·f + q; mailbox 8·f + k; array 33·w + a; slot 8·(33·w + a) + s; group 4·L + g; Runner 4·w + r;
unit 2·w + u; bank 37·w + k. Fields that the manual does not name are said to be the MODEL'S OWN. -/

namespace Sys2Proof.Machine

/-- What stops the machine. No rule of the manual stops the whole block, and no meaning of the model raises this fault; it is
here because the host's interface asks for a type of faults. Nobody raises it, which is safe. -/
inductive Fault where
  /-- Raised by no meaning: a safe placeholder. -/
  | deviceStop
  deriving DecidableEq, Repr

/-- Why a command has no meaning. -/
inductive Refusal where
  /-- Raised by an arm of exec whose command has no meaning yet, by its mnemonic. Safe: the machine does not go on. -/
  | notModelled (mnemonic : String)
  deriving DecidableEq, Repr

/-- An exact value between stations: NaN, an infinity, or an exact real with the sign of a zero (rules R58, R61 to R63, R163). -/
inductive XV where
  | nan
  | inf (neg : Bool)
  | fin (q : Rat) (negZero : Bool)
  deriving DecidableEq, Repr

/-! ### Outputs -/

/-- The errors that the endpoint reports through AER (Table 17.2), and its severities. -/
inductive AerErr where
  | receiver | badTlp | badDllp | replayTimer | replayRollover | poisoned | complTimeout | unexpected | unsupported | malformed
  | dllProtocol | flowControl
  deriving DecidableEq, Repr

inductive AerClass where | correctable | nonFatal | fatal
  deriving DecidableEq, Repr

/-- The commands that the device gives the flash: 0x13, 0x6C, 0x21, which erases a 4 KiB sector, and 0x12, which programs a page of
256 bytes (rule R431). -/
inductive FlashCmd where
  | read | quadRead | erase | program
  deriving DecidableEq, Repr

/-- What the block puts out, oldest first in `State.out` (MODEL'S OWN record of outputs; notes/assumptions/6). -/
inductive Out where
  /-- Read data returned on the path that read (BAR0, SRAM window). -/
  | readData (f : Nat) (bytes : List Byte)
  /-- A posted write to host memory with the Requester ID of function f. -/
  | hostWrite (f : Nat) (addr : W64) (bytes : List Byte)
  /-- A read of host memory sent, with the tag its completion carries. -/
  | hostRead (f : Nat) (addr : W64) (len : Nat) (tag : Nat)
  /-- The MSI-X message of function f: the address and the data of its vector. -/
  | msix (f : Nat) (addr : W64) (data : W32)
  /-- A slip handed to the fabric for its destination, by the port the route names (none: loopback). -/
  | slip (port : Option Nat) (s : Slip)
  /-- A slip that a port has received whole and hands to this node's router or Loan station. -/
  | received (port : Nat) (s : Slip)
  /-- A flit sent on a port, and the NAK or hello that the flit after it carries. -/
  | flit (port : Nat) (bytes : List Byte)
  | nak (port : Nat) (seq : Nat)
  | hello (port : Nat) (h : Hello)
  /-- A link control message that a port has received. -/
  | control (port : Nat) (type : Nat) (body : List Byte)
  /-- A MGMT slip, for a node or for the end of a route by ports. -/
  | mgmt (node : BitVec 16) (op : MgmtOp)
  /-- A response of the management bus: the command's name, its status and its data. -/
  | reply (name : String) (status : Nat) (data : List Nat)
  /-- A message or acknowledgement dropped or refused on the management bus. -/
  | nack (name : String)
  /-- TICK_OUT driven to a level. -/
  | tickOut (high : Bool)
  /-- An AVSBus write of a VCORE setpoint in mV. -/
  | avs (mv : Nat)
  /-- A command to the configuration flash. -/
  | flash (cmd : FlashCmd) (addr : Nat)
  /-- An AER report of function f (Table 17.2). -/
  | aer (e : AerErr) (f : Nat)
  /-- A completion with status Unsupported Request for a read that no BAR of function f claims (rules R407, R408). -/
  | unsupported (f : Nat)
  deriving DecidableEq, Repr

/-! ### The configuration flash (rules R431, R432) -/

/-- What a command to the flash does to it: an erase of n bytes of sectors, a program of bytes, and the copy of an area of n bytes
from address src, erased and programmed, of which the first len bytes hold the object. -/
inductive FlashOp where
  | erase (addr n : Nat)
  | program (addr : Nat) (bytes : List Byte)
  | copy (src addr n len : Nat)
  deriving DecidableEq, Repr

/-! ### Mailboxes and queues -/

/-- A mailbox (Tables 11.1, 11.2, 11.15, 11.16). state: 0 IDLE, 1 BUSY, 2 DONE. taken: the Desk has taken the request up.
order: the place of its GO among accepted GO writes (rule R265). -/
structure Mbox where
  state : BitVec 2
  seq : BitVec 16
  taken : Bool
  order : Nat
  req : Tab W32
  resp : Tab W32
  deriving DecidableEq, Repr

def Mbox.reset : Mbox := { state := 0, seq := 0, taken := false, order := 0, req := [], resp := [] }

/-- A function's event registers (Tables 11.18, 11.19). -/
structure FnReg where
  cblocked : Bool
  halted : Bool
  mgmt : Bool
  cblockedEn : Bool
  haltedEn : Bool
  mgmtEn : Bool
  deriving DecidableEq, Repr

def FnReg.reset : FnReg :=
  { cblocked := false, halted := false, mgmt := false, cblockedEn := false, haltedEn := false, mgmtEn := false }

/-- The attributes of a queue that a round keeps from its admission (rule R162). -/
structure Attrs where
  compat : Bool
  normEps : W32
  tables : List (BitVec 20 × BitVec 19)
  deriving DecidableEq, Repr

def Attrs.reset : Attrs := { compat := false, normEps := 0x3727C5AC#32, tables := [(0, 0), (0, 0), (0, 0), (0, 0)] }

/-- Where a round stands: waiting for admission, admitted and running, suspended, or ended and waiting for its place in the
queue's order of ends (rules R242, R247, R274, R283). -/
inductive RState where | waiting | running | suspended | ended
  deriving DecidableEq, Repr

/-- A round that is parsed and not ended (rules R242 to R256, R273, R274). -/
structure Round where
  num : W32
  cls : BitVec 2
  rsignal : Bool
  tag : W32
  budget : Nat
  mask : W32
  descFolio : BitVec 20
  descBase : Nat          -- device address of the first descriptor when the entry was parsed
  descOffset : Nat
  descCount : Nat
  progFolio : BitVec 20
  progOffset : Nat
  submitted : W64
  fresh : Bool            -- a new round, not carried over or resumed (rule R241)
  late : Bool             -- parsed after the admission list closed (rule R246)
  returned : Bool         -- returned to waiting by a halt (rule R280)
  state : RState
  order : Nat             -- place in the order of admission (rule R242)
  tick : BitVec 48        -- tick of its admission
  since : Option Nat      -- acyc when it last began to be charged (rule R238)
  charge : Nat            -- charge before `since`, in thousandths of a cycle
  overrun : Bool
  demoted : Bool
  lostGuarantee : Bool    -- an event of Table 10.3 has met it
  attrs : Attrs
  taken : List Nat        -- tile indices that a Runner has taken up
  done : Nat              -- tiles completed, in order
  reexecuted : Bool
  stopping : Bool         -- stops at its next tile boundaries for re-execution (rule R105)
  result : Option (Byte × BitVec 20)   -- status and FAIL_TILE once it has ended or must end
  loanDone : List Nat     -- Loan tiles completed in a first execution (rule R106)
  sigDone : List Nat      -- Loan tiles whose peer signal has gone (rules R106, R135)
  deriving DecidableEq, Repr

/-- A completion record (Table 11.12), without CONSUMED. -/
structure CRec where
  completed : W32
  tag : W32
  status : Byte
  failTile : BitVec 20
  lastFailRound : W32
  lastFailStatus : Byte
  failed : BitVec 24
  stamp : W64
  deriving DecidableEq, Repr

def CRec.reset : CRec :=
  { completed := 0, tag := 0, status := 0, failTile := 0, lastFailRound := 0, lastFailStatus := 0, failed := 0, stamp := 0 }

/-- A completion record that perturbation delays (COMPL_EN, Table 15.9): when it goes out, its queue, the record, the queue's state
after its round; poll: it only shows CONSUMED again. -/
structure LateRec where
  due : W64
  q : Nat
  what : CRec
  qstate : BitVec 3
  poll : Bool
  deriving DecidableEq, Repr

/-- A C0 reservation (rule R240). -/
structure Resv where
  mask : W32
  ra : Nat
  rf : Nat
  releasing : Bool
  deriving DecidableEq, Repr

/-- A queue (Tables 11.5, 11.6, 11.10, 11.14). state and cause as in QUE_STATE. -/
structure Queue where
  state : BitVec 3
  cause : BitVec 3
  cls : BitVec 2
  haltOnError : Bool
  eventMode : BitVec 2
  eventLog2 : BitVec 5
  ringLog2 : BitVec 5
  ringBase : W64
  producerAddr : W64
  statusAddr : W64
  eventBase : W64
  pollUs : Nat
  qtimeoutUs : Nat
  attrs : Attrs
  sigNode : BitVec 16
  sigFolio : BitVec 20
  sigOffset : BitVec 22
  producer : W32
  consumed : W32
  completed : W32
  events : W32
  lostEvents : W32
  last : CRec             -- the last record: TAG, STATUS, FAIL_TILE and the failure fields of the last round to end
  ended : Option Round    -- the last round that ended, for the progress record (rule R256)
  spill : List CRec
  rounds : List Round
  resv : Option Resv      -- in force
  resvNext : Option Resv  -- accepted, in force from the next boundary
  polling : Bool          -- a producer read or entry reads are outstanding
  keptGroups : List W32   -- rounds whose open groups wait for the queue's next command (rule R292)
  destroyP0 : W32         -- COMPLETED at the acceptance of a destroy (rule R291)
  destroyP1 : W32         -- ABANDONED at that moment
  destroyAt : W64         -- and its accession time
  pollFrom : W32          -- CONSUMED when the poll in progress began (rule R282)
  lastQ : BitVec 3        -- QSTATE of the last completion record written
  created : Bool          -- has been created since the last L0, L1 or L2 reset
  deriving DecidableEq, Repr

def Queue.reset : Queue :=
  { state := 0, cause := 0, cls := 0, haltOnError := false, eventMode := 0, eventLog2 := 0, ringLog2 := 0, ringBase := 0,
    producerAddr := 0, statusAddr := 0, eventBase := 0, pollUs := 0, qtimeoutUs := 0, attrs := Attrs.reset, sigNode := 0,
    sigFolio := 0, sigOffset := 0, producer := 0, consumed := 0, completed := 0, events := 0, lostEvents := 0,
    last := CRec.reset, ended := none, spill := [], rounds := [], resv := none, resvNext := none, polling := false, keptGroups := [],
    destroyP0 := 0, destroyP1 := 0, destroyAt := 0, pollFrom := 0, lastQ := 0, created := false }

/-- What an outstanding read of host memory is for. -/
inductive RdWhy where
  | createProducer (f k : Nat)          -- QUEUE_CREATE step 2 (rule R270)
  | createFlush (f k : Nat)             -- QUEUE_CREATE step 3
  | producer (q : Nat)                  -- rule R275
  | entry (q : Nat) (n : W32)           -- ring entry n (rule R274)
  | flush (q : Nat) (rec : CRec)        -- flush read of a completion record (rule R285)
  | spillFlush (f k q : Nat) (done : Nat)  -- flush read of a spill record (rule R289)
  | folioWrite (f k : Nat) (moved : Nat)   -- rule R269
  | folioRead (f k : Nat) (moved : Nat)    -- flush read of a part
  | dead                                -- what it was for is gone
  deriving DecidableEq, Repr

/-- A read of host memory that has not ended (rules R269, R270, R275, R277, R285). -/
structure HostRd where
  tag : Nat
  f : Nat
  addr : W64
  len : Nat
  why : RdWhy
  sent : Bool              -- its requests are on the link (Table 17.1)
  deriving DecidableEq, Repr

/-- Why a mailbox command is still in progress. -/
inductive CmdWhy where
  | hostRead                            -- waits for a host access
  | destroy (q : Nat)                   -- waits for the last engine (rule R291)
  | folioFree (folio : Nat)             -- waits for the earlier tiles (rule R221)
  | folioPin (folio : Nat)              -- waits until the folio settles (rule R230)
  | scrub (f : Nat) (status : Nat)      -- its response waits for the end of a scrub (rule R394)
  deriving DecidableEq, Repr

/-- A mailbox command that the Desk has taken up and not answered. -/
structure Cmd where
  f : Nat
  k : Nat
  why : CmdWhy
  deriving DecidableEq, Repr

/-! ### Tiles, Runners and stations -/

/-- Where a tile stands between its take-up by the Runner and its completion (rules R125, R128, R129, R131). -/
inductive Phase where
  | ahead        -- taken up by the Runner; no station has it
  | held         -- the station of hop `hop` has it
  | aside        -- set aside at hop `hop` for a C0 tile (rule R250)
  | between      -- hop `hop` is its next station
  | drainWait    -- its array work is done; its group's slot waits to drain, or drains
  | fenced       -- a FENCE that has been taken up
  | finished     -- its last station has finished it, or it ended with a status
  deriving DecidableEq, Repr

/-- The progress of a Loan tile (rules R314 to R322). -/
structure LoanSt where
  granted : Bool          -- SEND: the CTS has come; RECV: the RTS has come and the CTS has gone
  ring : List Byte        -- collectives: the ring record
  rtsSeen : Bool          -- collectives: the successor's RTS has come
  step : Nat              -- collectives: steps received
  sentSteps : Nat         -- collectives: steps sent
  got : Nat               -- bytes received
  asked : Nat             -- GET: bytes asked for
  acked : Nat             -- request slips answered
  slips : Nat             -- request slips sent
  rts : BitVec 16         -- SEND: the SEQ of its RTS; RECV: of the RTS that it met
  inq : List Byte         -- collectives: bytes received and not used yet
  chunks : List (Nat × List W32)   -- collectives: words of the chunks or blocks held here
  deriving DecidableEq, Repr

def LoanSt.reset : LoanSt :=
  { granted := false, ring := [], rtsSeen := false, step := 0, sentSteps := 0, got := 0, asked := 0, acked := 0, slips := 0, rts := 0,
    inq := [], chunks := [] }

/-- A tile that a Runner has taken up and that is not complete (rules R125 to R135). -/
structure Tile where
  id : TileId
  d : List W32            -- its 16 descriptor words
  w : Nat                 -- Wing and Runner that took it up
  r : Nat
  a : Nat                 -- physical array of its logical array at take-up
  cls : BitVec 2          -- class it runs in (RAN_CLASS)
  order : Nat             -- its round's place in the order of admission
  phase : Phase
  hop : Nat
  wtGot : Nat             -- passes whose index side is resident or used
  actGot : Nat            -- passes or slabs whose table side or rows are resident or used
  auxGot : Bool           -- preload or ACC_WRITE source resident or used
  fetched : List Nat      -- bytes fetched for operand A, operand B and the preload (rule R223)
  passDone : Nat          -- passes run, or slabs consumed
  tableReady : Bool       -- the Glossary holds the user table it needs
  table : Option (Nat × Nat)   -- that table's place in the unit's Wing-store bank and its bytes
  rows : List (List XV)   -- rows for its next station
  status : Byte
  sat : Bool
  replayed : Bool
  nonfinite : Bool
  maxabs : Nat
  clip : Nat
  startCyc : Option Nat   -- acyc at HOP0's take-up (rule R130)
  charged : Nat           -- in thousandths of a cycle
  stamp : W64
  waitFrom : Option W64   -- when its input-wait timer started (rules R139, R312)
  rerun : Bool            -- its saturation replay runs or has run (rules R71 to R75)
  fifo : Bool             -- its rows stand in the input of its next station (Table 5.9)
  readyFrom : Option Nat  -- acyc at which the delay of its next take-up began (Table 15.9)
  loan : LoanSt
  deriving DecidableEq, Repr

/-- Data held in a partition of a Carrel bank: which tile's, which part, bank offset and length. idx: the index of the pass or slab;
of a line of scales or exponents (rule R450), its byte offset in its folio. blk: the column block of an index side, of a line the
run of a saturation replay that it is for (rule R71), or of rows from the Aisles the Wing that they come from. unit: it takes whole
transfer units for itself (rules R126, R136). tag: the MPF header or SPX directory entries kept in the tag store (rule R146). -/
structure Buf where
  t : TileId
  part : Part
  idx : Nat
  blk : Nat
  off : Nat
  len : Nat
  line : Bool
  unit : Bool
  tag : List Byte
  deriving DecidableEq, Repr

/-- A Runner (Tables 5.14 to 5.17; rule R219). stallWin and stallPart hold the acyc at which a stall began, stallAt the fetch
that waits for its partition. -/
structure Runner where
  window : BitVec 7
  cntWin : W32
  cntPart : W32
  stallWin : Option Nat
  stallPart : Option Nat
  stallAt : Option (TileId × Part)
  cache : List Nat
  readyFrom : Option Nat   -- acyc at which the delay of its next take-up began (Table 15.9)
  deriving DecidableEq, Repr

def Runner.reset : Runner :=
  { window := 0x40, cntWin := 0, cntPart := 0, stallWin := none, stallPart := none, stallAt := none, cache := [],
    readyFrom := none }

/-- A cached user table (rule R176), most recently used first in its unit's list: its tags, its place in the unit's Wing-store bank,
and its bytes there. -/
structure TableEnt where
  tenant : Nat
  folio : BitVec 20
  offset : BitVec 19
  place : Nat
  len : Nat
  deriving DecidableEq, Repr

/-- A Glossary unit (Tables 7.10 to 7.13). -/
structure Glo where
  tile : Option TileId
  aside : Option TileId
  heldBySoftmax : Bool
  compat : Bool
  gfunc : BitVec 4
  limited : W32
  domain : W32
  fetches : W32
  cache : List TableEnt
  deriving DecidableEq, Repr

def Glo.reset : Glo :=
  { tile := none, aside := none, heldBySoftmax := false, compat := false, gfunc := 0, limited := 0, domain := 0, fetches := 0,
    cache := [] }

/-- A Ledger unit (Tables 7.14 to 7.16). -/
structure Led where
  tile : Option TileId
  aside : Option TileId
  lfunc : BitVec 4
  rowsOpen : BitVec 2
  rows : W32
  nonfinite : W32
  deriving DecidableEq, Repr

def Led.reset : Led := { tile := none, aside := none, lfunc := 0, rowsOpen := 0, rows := 0, nonfinite := 0 }

/-- A Returns unit (Tables 3.14, 6.12, 6.13). -/
structure Ret where
  tile : Option TileId
  aside : Option TileId
  clip : W32
  spxSegs : W32
  spxRaw : W32
  deriving DecidableEq, Repr

def Ret.reset : Ret := { tile := none, aside := none, clip := 0, spxSegs := 0, spxRaw := 0 }

/-! ### Lookup Arrays -/

/-- A physical array (Tables 3.9 to 3.13, 4.13, 4.14, 6.9 to 6.11; rules R65, R80, R104, R123). -/
structure Arr where
  satTiles : W32
  satPasses : W32
  replays : W32
  nonfinite : W32
  peak : BitVec 24
  ownFaults : W32
  checkErrs : W32
  wCause : BitVec 4
  aCause : BitVec 4
  wSlip : Bool
  aSlip : Bool
  wSlips : W32
  aSlips : W32
  gen : W32
  active : List Byte
  idle : List Byte
  conc : List (BitVec 10)
  split : BitVec 2
  bufs : List Buf
  used : List (Nat × Nat × Nat)   -- ranges of the Carrel bank, offset and length, with the function whose tile last used them
  tile : Option TileId
  aside : Option TileId
  fault : Option Nat        -- found failed, firmware's remap is still to come: FOUND of Table 15.7
  lastL : Nat               -- logical array of the tile it last finished, for the alternation of rule R109
  deriving DecidableEq, Repr

def Arr.reset : Arr :=
  { satTiles := 0, satPasses := 0, replays := 0, nonfinite := 0, peak := 0, ownFaults := 0, checkErrs := 0, wCause := 0,
    aCause := 0, wSlip := false, aSlip := false, wSlips := 0, aSlips := 0, gen := 0, active := [], idle := [], conc := [],
    split := 0, bufs := [], used := [], tile := none, aside := none, fault := none, lastL := 0 }

/-- The fields of a group that every tile of it must name alike (rule R89). -/
structure Shape where
  mode : BitVec 3
  m : Nat
  c0 : Nat
  n : Nat
  ntot : Nat
  deriving DecidableEq, Repr

/-- An accumulation group (rules R86 to R94). issued: what the operations taken up so far leave (the state Table 4.3 reads);
live: the incarnation that holds a slot. -/
structure Group where
  owner : Option Nat      -- device queue index of the stream that owns it
  ownerRnd : W32          -- round of the latest operation
  issuedOpen : Bool
  shape : Shape
  waiting : Nat           -- operations taken up and not executed
  live : Bool
  liveShape : Shape
  liveRnd : W32
  slot : Nat
  steps : W32
  gen : W32
  deriving DecidableEq, Repr

def Shape.reset : Shape := { mode := 0, m := 0, c0 := 0, n := 0, ntot := 0 }

def Group.reset : Group :=
  { owner := none, ownerRnd := 0, issuedOpen := false, shape := Shape.reset, waiting := 0, live := false,
    liveShape := Shape.reset, liveRnd := 0, slot := 0, steps := 0, gen := 0 }

/-- A slot of an Accumulator store (rules R84, R85): its accumulators, token row after token row. An FP32 or BF16 value
stands in the low bits of its entry, an I48 value fills it. -/
structure Slot where
  held : Bool
  draining : Bool         -- closed, awaiting or in drain
  started : Bool          -- its drain has begun
  closeOrder : Nat
  larray : Nat
  group : Nat
  shape : Shape
  steps : W32
  cols : Nat
  acc : List (BitVec 48)
  sig : List (BitVec 16)  -- BF16/col scales of its columns and row exponents of its tokens, for the values of an I48 drain
  exps : List Byte
  fn : Nat                -- function whose tile opened it, and used it last (rule R393)
  cls : BitVec 2          -- class of that tile (rule R127)
  tile : Option TileId    -- the closing tile, whose operand C the drain writes to
  deriving DecidableEq, Repr

def Slot.reset : Slot :=
  { held := false, draining := false, started := false, closeOrder := 0, larray := 0, group := 0, shape := Shape.reset,
    steps := 0, cols := 0, acc := [], sig := [], exps := [], fn := 0, cls := 0, tile := none }

/-- A Wing's own registers (Tables 4.7 to 4.11, 5.18, 19.9). -/
structure Wing where
  retired : Bool
  hostsFold : Bool
  foldWing : BitVec 5
  spareUsed : Bool
  spareFailed : Bool
  spareFor : BitVec 5
  foldedTo : BitVec 5
  failed : W32
  accRun : Option (Bool × Nat × Nat)   -- a transfer in progress: WRITE, LARRAY and GROUP as they were at GO
  accWrite : Bool
  accGroup : BitVec 2
  accLarray : BitVec 10
  accDone : Bool
  accResult : BitVec 4
  accMode : BitVec 2
  accTokens : BitVec 7
  accSteps : W32
  winBuf : Tab Byte
  lateBursts : W32
  powered : Bool
  inL3 : Bool
  temp : Byte
  storeFail : Option Nat   -- a Wing-store bank has failed and the retirement waits: the array its record names
  deriving DecidableEq, Repr

def Wing.reset : Wing :=
  { retired := false, hostsFold := false, foldWing := 0, spareUsed := false, spareFailed := false, spareFor := 0, foldedTo := 0,
    failed := 0, accRun := none, accWrite := false, accGroup := 0, accLarray := 0, accDone := false, accResult := 0,
    accMode := 0, accTokens := 0, accSteps := 0, winBuf := [], lateBursts := 0, powered := false,
    inL3 := false, temp := 0, storeFail := none }

/-! ### On-chip memory and tiers -/

/-- A bank's registers (Tables 8.5 to 8.8). -/
structure Bank where
  superseded : Bool
  ueSeen : Bool
  ceSeen : Bool
  failed : Bool
  sparesUsed : BitVec 7
  ce : W32
  ue : W32
  super : W32
  deriving DecidableEq, Repr

def Bank.reset : Bank :=
  { superseded := false, ueSeen := false, ceSeen := false, failed := false, sparesUsed := 0, ce := 0, ue := 0, super := 0 }

/-- An access that waits for the fill of a Wing (rule R209), or behind an access of the physical function that does (rule R441): a
read or a write through an SRAM window by its view, a read or a write of a register of BAR0, and the debug messages REG_READ,
REG_WRITE, MEM_READ and MEM_WRITE. -/
inductive SramAcc where
  | read (view off len : Nat) (ecc : List EccHit)
  | write (view off : Nat) (bytes : List Byte) (portA : List (Nat × W64))
  | regRead (off : Nat) (ecc : List EccHit)
  | regWrite (off size : Nat) (v : W32)
  | debugRead (off : Nat) (ecc : List EccHit)
  | debugWrite (off : Nat) (v : W32) (portA : List (Nat × W64))
  | memRead (addr len : Nat) (ecc : List EccHit)
  | memWrite (addr : Nat) (bytes : List Byte) (portA : List (Nat × W64))
  deriving DecidableEq, Repr

/-- The Inventory (Tables 8.9 to 8.13; rules R201, R202, R205 to R208). -/
structure Inv where
  winBase : BitVec 11
  enabled : Bool
  late : Bool
  period : BitVec 12
  pendPeriod : Option Nat  -- a period that waits for its boundary (rule R17)
  sweeps : BitVec 16
  fails : W32
  applied : BitVec 16
  invalid : BitVec 16
  cmCe : BitVec 16
  cmUe : BitVec 16
  began : Tab Nat          -- accession time at which engine e began its coverage
  cursor : Tab Nat         -- next region of engine 0–31 (a Wing), 32 (control memory)
  hold : Tab (List Byte)   -- holding buffer of each engine
  swept : List Nat         -- engines that have finished the coverage in progress
  repairs : List W64       -- spare rows in force, as repair records
  unlogged : List W64      -- field repairs not yet copied to the flash repair log
  notInFlash : Nat         -- repairs kept out of flash since the last L0 reset (rule R208)
  cmRetired : List Nat     -- control-memory rows that firmware no longer uses
  waits : List SramAcc     -- accesses that wait for a fill, oldest first
  deriving DecidableEq, Repr

def Inv.reset : Inv :=
  { winBase := 0, enabled := false, late := false, period := 0x03C, pendPeriod := none, sweeps := 0, fails := 0, applied := 0, invalid := 0,
    cmCe := 0, cmUe := 0, began := [], cursor := [], hold := [], swept := [], repairs := [], unlogged := [], notInFlash := 0,
    cmRetired := [], waits := [] }

/-- A Shelfmark entry (Table 9.2). -/
structure Folio where
  valid : Bool
  pinned : Bool
  pinTier : Bool
  c0Recent : Bool
  state : BitVec 2
  size : BitVec 2
  hint : BitVec 2
  tenant : BitVec 5
  tier : Bool
  base : BitVec 28
  dest : BitVec 28
  heat : BitVec 16
  count : BitVec 16
  deriving DecidableEq, Repr

def Folio.reset : Folio :=
  { valid := false, pinned := false, pinTier := false, c0Recent := false, state := 0, size := 0, hint := 0, tenant := 0,
    tier := false, base := 0, dest := 0, heat := 0, count := 0 }

/-- A folio move in progress (rules R225, R227, R230). -/
structure Move where
  folio : Nat
  toTier : Bool
  next : Nat               -- next 4 KiB chunk to copy
  pin : Bool
  deriving DecidableEq, Repr

/-- A function's tier limits in 64 KiB units (Table 9.3); none: the default, which is the whole tier. -/
structure TierLim where
  nearTier : Option Nat
  depos : Option Nat
  deriving DecidableEq, Repr

def TierLim.reset : TierLim := { nearTier := none, depos := none }

/-- The Curator's limits and work (Table 9.3; rules R222 to R227). -/
structure Curator where
  enable : Bool
  share : Byte
  maxMoves : BitVec 5
  limits : Tab TierLim
  pendLimits : List (Nat × TierLim)
  pendCur : Option (Bool × Byte × BitVec 5)
  moves : List Move
  c0This : List Nat        -- folios that C0 tiles fetched from in the running tick
  c0Prev : List Nat        -- and in the tick before
  deriving DecidableEq, Repr

def Curator.reset : Curator :=
  { enable := true, share := 16, maxMoves := 8, limits := [], pendLimits := [], pendCur := none, moves := [], c0This := [],
    c0Prev := [] }

/-! ### Ticks -/

/-- A change of tick source that waits for its boundary (rule R236). -/
structure TickSet where
  source : BitVec 2
  period : BitVec 15
  epoch : W64
  n0 : BitVec 48
  deriving DecidableEq, Repr

/-- The tick (Tables 10.1, 10.7 to 10.12; rule R427). -/
structure Tick where
  source : BitVec 2
  period : BitVec 15
  num : BitVec 48
  numHi : BitVec 16
  lost : Bool
  early : Bool
  fAdm : BitVec 11
  earlyCnt : W32
  lostCnt : W32
  epoch : W64
  n0 : BitVec 48
  pend : Option TickSet
  last : W64               -- the last boundary on its schedule
  made : W64               -- when the last boundary was made
  closed : Bool
  tickOut : Bool
  subst : Bool
  jitter : Nat             -- ns that the next boundary comes late (rule R382)
  edge : Option W64        -- an accepted TICK_IN edge whose boundary comes late (rule R382)
  lossNext : Bool          -- rounds admitted at the next boundary lose the guarantee (Table 10.3)
  deriving DecidableEq, Repr

def Tick.reset : Tick :=
  { source := 0, period := 0x03E8, num := 0, numHi := 0, lost := false, early := false, fAdm := 0, earlyCnt := 0, lostCnt := 0,
    epoch := 0, n0 := 0, pend := none, last := 0, made := 0, closed := false, tickOut := true, subst := false, jitter := 0,
    edge := none, lossNext := false }

/-- The admission counters (Tables 10.13 to 10.16) and the next place in the order of admission (rule R242). -/
structure Adm where
  deferred : W32
  overruns : W32
  demoted : W32
  c0Late : W32
  order : Nat
  deriving DecidableEq, Repr

def Adm.reset : Adm := { deferred := 0, overruns := 0, demoted := 0, c0Late := 0, order := 0 }

/-! ### Fabric -/

/-- A slip that a port has still to send: its VC, the queue whose C0 share it uses, and the data of its flits. -/
structure TxSlip where
  vc : BitVec 3
  q : Option Nat
  flits : List (List Byte)
  deriving DecidableEq, Repr

/-- A Brusol port (Tables 12.11, 12.12; rules R294 to R301). state: 0 DOWN, 1 TRAINING, 2 UP. -/
structure Port where
  state : BitVec 2
  width : BitVec 2
  congested : Bool
  peerValid : Bool
  peerNode : BitVec 16
  fec : W32
  crc : W32
  replay : W32
  cong : W32
  choices : W32            -- adaptive route choices that named the port (rule R18)
  txSeq : BitVec 12
  rxSeq : BitVec 12
  discarding : Bool        -- discards flits until the expected one is replayed (rule R296)
  naks : Nat               -- NAKs sent for the expected SEQ
  nakSeq : BitVec 12
  nakGot : Nat             -- NAKs received for one SEQ
  nakGotSeq : BitVec 12
  sent : List (BitVec 12 × List Byte)   -- transmitted flits kept for replay, oldest first, at most 512
  rx : List (List Byte)    -- data of accepted flits of a slip that is not whole yet
  txq : List TxSlip        -- slips that wait for credits, oldest first
  c0Sent : Tab Nat         -- flits of C0 slips sent in the running tick, by queue with a reservation
  usedPriv : List Nat      -- private and shared credits in use by VC0–VC7 (Table 12.3)
  usedShared : List Nat
  owed : List Nat          -- credits of VC0–VC7 that this port has still to return to its peer
  failedTrains : Nat
  lanes : BitVec 4         -- working lanes
  deriving DecidableEq, Repr

def Port.reset : Port :=
  { state := 0, width := 0, congested := false, peerValid := false, peerNode := 0, fec := 0, crc := 0, replay := 0, cong := 0, choices := 0,
    txSeq := 0, rxSeq := 0, discarding := false, naks := 0, nakSeq := 0, nakGot := 0, nakGotSeq := 0, sent := [], rx := [], txq := [],
    c0Sent := [],
    usedPriv := [0, 0, 0, 0, 0, 0, 0, 0], usedShared := [0, 0, 0, 0, 0, 0, 0, 0], owed := [0, 0, 0, 0, 0, 0, 0, 0],
    failedTrains := 0, lanes := 0xF }

/-- A request slip that waits for its response, the tile it belongs to (none: a peer signal), the Wing of the Loan station that
sent it, the queue it was sent for, whether its tile has ended, and whether the burst that its response belongs to has been counted
as late (rule R140). -/
structure SentSlip where
  slip : Slip
  tile : Option TileId
  wing : Nat
  q : Nat
  ended : Bool
  late : Bool
  deriving DecidableEq, Repr

/-- A flow from this node (rules R307, R310, R311). -/
structure TxFlow where
  seq : BitVec 16
  open_ : List SentSlip    -- unanswered request slips, oldest first
  alt : Nat                -- current alternative
  deriving DecidableEq, Repr

def TxFlow.reset : TxFlow := { seq := 0, open_ := [], alt := 0 }

/-- A flow to this node (rules R310, R311): the next SEQ, and the responses that it repeats. -/
structure RxFlow where
  seq : BitVec 16
  answers : List (BitVec 16 × Slip)
  deriving DecidableEq, Repr

def RxFlow.reset : RxFlow := { seq := 0, answers := [] }

/-- Data that is still to come for a RECV, or for a collective (ring), that has ended (rule R140): the sender of a RECV, the
class, function and tag, the Wing of its Loan station, and whether its burst has been counted. -/
structure LateRx where
  ring : Bool
  src : BitVec 16
  cls : Nat
  func : Nat
  tag : W32
  rts : BitVec 16
  wing : Nat
  counted : Bool
  deriving DecidableEq, Repr

/-- A tile of another node whose rows are coming for stations of this node (rules R19, R315): its sender, class and function, and
what has come of its descriptor, attributes and values. -/
structure FarTile where
  src : BitVec 16
  cls : Nat
  func : Nat
  data : List Byte
  deriving DecidableEq, Repr

/-- A node that the manager has found (rule R303): what its hello says, the ports of the route to it and of the route back, and
its UP ports. -/
structure Found where
  hello : Hello
  path : List (BitVec 4)
  back : List (BitVec 4)
  ports : List (BitVec 4)
  deriving DecidableEq, Repr

/-- A link that the manager has found: a port of one node, by its serial number, and of another. -/
structure Link where
  a : W64
  pa : BitVec 4
  b : W64
  pb : BitVec 4
  deriving DecidableEq, Repr

/-- The manager's exploration of the fabric (rule R303): what it has found, in the order of discovery, the routes that it has asked
at the present depth, and the answers that have come. -/
structure Survey where
  found : List Found
  links : List Link
  asked : List (List (BitVec 4))
  answers : List Found
  deriving DecidableEq, Repr

def Survey.reset : Survey := { found := [], links := [], asked := [], answers := [] }

/-- The fabric (Tables 12.8 to 12.12). ports by number; flows by 4·node + class. -/
structure Fab where
  assigned : Bool
  routed : Bool
  manager : Bool
  candidate : Bool
  nodeId : BitVec 16
  alone : Bool             -- runs alone, so that its ID is no manager's (rule R304)
  synced : Bool
  lost : Bool
  depth : Byte
  offset : BitVec 16
  joined : Bool            -- the clock has been set since the last L0 episode (rule R323)
  routeIdx : BitVec 16
  routes : Tab W32
  sigLost : W32
  resends : W32
  noRoute : W32
  ports : Tab Port
  tx : Tab TxFlow
  rx : Tab RxFlow
  fwd : Tab (Option Nat)   -- current alternatives of the flows that this node forwards, by (65536·source + destination)·8 + VC
  rtsWait : List Slip      -- RTS that wait for a RECV or collective member (rules R318, R320)
  heard : List W64         -- serial numbers of the candidates heard of since the last MANAGER_ELECTION_TIMEOUT
  silent : Bool            -- nothing was heard of a candidate or a manager in the 50 ms before that
  survey : Survey
  late : List LateRx
  far : List FarTile
  deriving DecidableEq, Repr

def Fab.reset : Fab :=
  { assigned := false, routed := false, manager := false, candidate := false, nodeId := 0, alone := false, synced := false, lost := false,
    depth := 0, offset := 0, joined := false, routeIdx := 0, routes := [], sigLost := 0, resends := 0, noRoute := 0, ports := [],
    tx := [], rx := [], fwd := [], rtsWait := [], heard := [], silent := false, survey := Survey.reset, late := [], far := [] }

/-! ### Reset, clocks and bring-up -/

/-- The eight reset sources, as the bits of RST_CAUSE (Table 13.11). -/
structure Sources where
  por : Bool
  bor : Bool
  pin : Bool
  clk : Bool
  wdog : Bool
  lockup : Bool
  sw : Bool
  dbg : Bool
  deriving DecidableEq, Repr

def Sources.none : Sources :=
  { por := false, bor := false, pin := false, clk := false, wdog := false, lockup := false, sw := false, dbg := false }

/-- A running episode (rules R331 to R335). level 0 is the widest reach. -/
structure Episode where
  level : BitVec 2
  joined : Sources
  asserted : Sources       -- sources not yet released
  targets : List (BitVec 5 × BitVec 7)   -- L3 targets in order of request
  stretching : Bool        -- every source released; the stretch runs
  driving : Bool           -- the device drives nRST low
  waitHigh : Bool          -- a sample found nRST low: the device does not drive it before it goes high (rule R335)
  clkDomain : BitVec 3
  deriving DecidableEq, Repr

/-- RST_CAUSE (Table 13.11). -/
structure Cause where
  sources : Sources
  level : BitVec 2
  clkDomain : BitVec 3
  multiL3 : Bool
  wing : BitVec 5
  target : BitVec 7
  deriving DecidableEq, Repr

/-- The security record (rule R387). -/
structure SecRec where
  state : BitVec 2
  ownerHash : BitVec 384
  fwSvn : BitVec 16
  optSvn : BitVec 16
  deriving DecidableEq, Repr

/-- Reset, straps, boot (Tables 13.11 to 13.18; rules R329 to R347). bringup: the level of a bring-up that has not reached
READY (rule R332). -/
structure Rst where
  cause : Cause
  stretchMs : BitVec 6
  ratio : Byte
  code : BitVec 4
  qSys : Bool
  qAclk : Bool
  qMem : Bool
  qPcie : Bool
  qSerdes : Bool
  pcieHeld : Bool
  serdesHeld : Bool
  hostGo : Bool
  safe : Bool
  optFail : Bool
  clkHold : Bool
  slow : Bool
  optSrc : BitVec 3
  fwFromStacks : Bool
  step : BitVec 4
  episodes : W32
  backup : Tab W32
  episode : Option Episode
  bringup : Option (BitVec 2)
  repeated : Bool          -- the running episode takes the reach of an unfinished bring-up
  pinLow : Bool            -- nRST is held low from outside
  clkOnly : Nat            -- consecutive episodes caused only by CLK that did not reach READY
  wdogMs : Nat
  armed : Bool
  pinsReleased : Bool
  pinCfg : W32
  opt : Option OptBlock    -- option block in force
  arrMapSet : Bool
  capsSet : Bool           -- firmware has written DSK_CAPS since the episode (rule R444)
  fwCopy : Option (BitVec 384)   -- digest of the firmware copy in the Stacks device reserve (Table 13.7)
  l3Wings : List (BitVec 5 × BitVec 7)   -- targets of an L3 episode in progress of being brought up
  trained : Bool
  l3Pend : List Nat        -- Wings whose capacity returns at the next boundary (rule R345)
  deriving DecidableEq, Repr

def Rst.reset : Rst :=
  { cause := { sources := Sources.none, level := 0, clkDomain := 0, multiL3 := false, wing := 0, target := 0 }, stretchMs := 2,
    ratio := 0, code := 0, qSys := false, qAclk := false, qMem := false, qPcie := false, qSerdes := false, pcieHeld := false,
    serdesHeld := false, hostGo := false, safe := false, optFail := false, clkHold := false, slow := false, optSrc := 0,
    fwFromStacks := false, step := 0, episodes := 0, backup := [], episode := Option.none, bringup := some 0, repeated := false,
    pinLow := false, clkOnly := 0, wdogMs := 100, armed := false, pinsReleased := false, pinCfg := 0, opt := Option.none,
    arrMapSet := false, capsSet := false, fwCopy := Option.none, l3Wings := [], trained := false, l3Pend := [] }

/-! ### Power -/

/-- The power states of Table 14.2 with the two transitions of PWR_STAT.STATE (Table 14.9). -/
inductive PState where | active | idle | drowse | entering | waking | off
  deriving DecidableEq, Repr

/-- A change of VCORE in progress (rules R356, R436): the setpoint to reach, the ACLK that follows a step up, attempts made
for the step in hand, the cause for the Accession log, and the setpoint before the change. -/
structure AvsRun where
  start : Nat
  target : Nat
  aclk : Nat
  up : Bool
  tries : Nat
  cause : Nat
  deriving DecidableEq, Repr

/-- Power and thermal state (Tables 14.8 to 14.14). -/
structure Pwr where
  state : PState
  result : BitVec 2
  throttle : Bool
  pacing : Bool
  capUnmet : Bool
  pace : BitVec 3
  vcoreMv : BitVec 10
  aclkMhz : BitVec 11
  capReq : BitVec 11
  capInForce : BitVec 11
  avg1ms : BitVec 16
  avg100us : BitVec 16
  hbmC : Byte
  sensor : BitVec 7
  dieC : Byte
  tripped : Bool
  tripSensor : Byte
  tripTemp : Byte
  throttles : W32
  autoWake : Bool
  held : List (BitVec 2)
  avs : Option AvsRun
  overs : Nat              -- successive evaluations over the cap at 0.60 GHz
  lastUp : Option W64      -- accession time of the last step up (rule R357)
  wakeFrom : Option W64    -- accession time at which the wake in progress began
  therm : Bool             -- THERMTRIP_N is held low
  hot : Bool               -- sensor 68 has not read below 95 °C since the trip (rule R361)
  tripLog : Bool           -- a trip's Accession log record is owed at the next READY
  offing : Bool            -- the entry in progress is to Off
  boot : Bool              -- the VCORE brown-out thresholds of rule R436 for boot are in force
  deriving DecidableEq, Repr

def Pwr.reset : Pwr :=
  { state := .active, result := 0, throttle := false, pacing := false, capUnmet := false, pace := 0, vcoreMv := 0x2EE,
    aclkMhz := 0x4E2, capReq := 0x578, capInForce := 0x578, avg1ms := 0, avg100us := 0, hbmC := 0, sensor := 0, dieC := 0,
    tripped := false, tripSensor := 0, tripTemp := 0, throttles := 0, autoWake := true, held := [], avs := Option.none, overs := 0,
    lastUp := Option.none, wakeFrom := Option.none, therm := false, hot := false, tripLog := false, offing := false, boot := true }

/-! ### Reliability -/

/-- An Accession log record without SEQ's source bookkeeping (Table 15.3). -/
structure LogRec where
  stamp : W64
  cls : BitVec 5
  unit : BitVec 11
  event : BitVec 16
  seq : W32
  data : List W32
  deriving DecidableEq, Repr

/-- Perturbation registers (Tables 15.16 to 15.21). -/
structure Pert where
  cred : Bool
  compl : Bool
  tick : Bool
  station : Bool
  seed : W32
  stationReg : W32
  jitter : BitVec 16
  complUs : BitVec 14
  credReg : W32
  gen : W32
  deriving DecidableEq, Repr

def Pert.reset : Pert :=
  { cred := false, compl := false, tick := false, station := false, seed := 0, stationReg := 0, jitter := 0, complUs := 0,
    credReg := 0, gen := 0 }

/-- Errors, log, scrub, wear (Tables 15.11 to 15.15; rules R370 to R380). Sources are keyed 2048·class + unit. -/
structure Rel where
  logHead : W32
  logSlot : BitVec 14
  logDrops : W32
  errCe : W32
  errUe : W32
  scrubLate : Bool
  deposPct : Byte
  stacksPct : Byte
  scrubbed : Nat × Nat     -- words scrubbed in the scrub in progress: Stacks, Depository
  scrubFrom : Nat × Nat    -- accession time at which that scrub began
  aged : Bool
  kind : BitVec 2
  limiter : BitVec 13
  days : BitVec 16
  logQ : Tab (List LogRec)
  logSeq : Tab W32
  early : List LogRec      -- records held until the Stacks are trained (rule R375)
  ceTick : Tab Nat         -- corrections by each source in the running tick
  cePrev : Tab Nat         -- and in the tick before
  foxDay : Tab (List Rat)  -- degradation samples of the day in progress, by monitor
  foxMeans : Tab (List (Nat × Rat))   -- daily means by monitor
  laneDays : Tab (List (Nat × Rat))   -- hourly margins by lane, each with its day
  chanDays : Tab (List (Nat × Rat))   -- daily margins by channel
  firstReady : Option W64    -- accession time of the first READY that the Vault records (rule R379)
  lifeSeen : List Nat      -- thresholds of rule R380 already reported
  totalCe : Nat            -- firmware totals (Table 17.3)
  totalUe : Nat
  pert : Pert
  deriving DecidableEq, Repr

def Rel.reset : Rel :=
  { logHead := 0, logSlot := 0, logDrops := 0, errCe := 0, errUe := 0, scrubLate := false, deposPct := 0, stacksPct := 0,
    scrubbed := (0, 0), scrubFrom := (0, 0), aged := false, kind := 0, limiter := 0, days := 0xFFFF, logQ := [], logSeq := [], early := [],
    ceTick := [], cePrev := [], foxDay := [], foxMeans := [], laneDays := [], chanDays := [], firstReady := Option.none, lifeSeen := [],
    totalCe := 0, totalUe := 0, pert := Pert.reset }

/-! ### Security -/

/-- Security state (Tables 16.8 to 16.12; rules R384 to R400). -/
structure Sec where
  state : BitVec 2
  level : BitVec 2
  pufFail : Bool
  rpbFail : Bool
  hostbootDenied : Bool
  rollback : Bool
  submit : Bool
  viaBus : Bool            -- the submission came by debug message
  result : BitVec 4
  optSvn : BitVec 16
  fwSvn : BitVec 16
  scrub : W32
  scrubAt : Tab Nat        -- accession time of the FLR of each function under scrub (rule R393)
  nonceNo : Nat            -- which nonce of the generator is in force
  token : Tab Byte
  busToken : List Byte     -- the token of a SUBMIT_TOKEN message in verification
  keys : Bool
  ownerHash : BitVec 384
  rpb : Option SecRec      -- the record in the replay-protected partition; none: no key programmed
  areas : List (Nat × Option FlashObj)   -- what the areas of the flash hold that the device has read or written; none: no valid object
  fwDigest : BitVec 384
  optDigest : BitVec 384
  vaultFw : Option (BitVec 384)      -- sealed firmware digest in the Vault
  vaultOpt : Option OptBlock         -- sealed option-block copy in the Vault
  halted : BitVec 4
  deriving DecidableEq, Repr

def Sec.reset : Sec :=
  { state := 0, level := 0, pufFail := false, rpbFail := false, hostbootDenied := false, rollback := false, submit := false,
    viaBus := false, result := 0, optSvn := 0, fwSvn := 0, scrub := 0, scrubAt := [], nonceNo := 0, token := [], busToken := [], keys := false,
    ownerHash := 0,
    rpb := Option.none, areas := [], fwDigest := 0, optDigest := 0, vaultFw := Option.none, vaultOpt := Option.none, halted := 0 }

/-! ### Host link and management -/

/-- A function's PCIe configuration (rules R406, R407). -/
structure PcieFn where
  busMaster : Bool
  memSpace : Bool
  d3hot : Bool
  complTimeout : BitVec 4
  masked : Bool
  pending : Bool
  msixAddr : W64           -- address and data of the MSI-X vector
  msixData : W32
  maxPayload : BitVec 3    -- Max_Payload_Size and Max_Read_Request_Size by their PCIe codes; the VFs use the PF's
  maxRead : BitVec 3
  tenBitTags : Bool
  deriving DecidableEq, Repr

def PcieFn.reset : PcieFn :=
  { busMaster := false, memSpace := false, d3hot := false, complTimeout := 0, masked := true, pending := false, msixAddr := 0,
    msixData := 0, maxPayload := 0, maxRead := 2, tenBitTags := false }

/-- The endpoint (rules R393, R403 to R409). -/
structure Pcie where
  linkUp : Bool
  perst : Bool
  fns : Tab PcieFn
  vfEnable : Bool
  numVFs : Nat
  poisoned : Nat           -- Poisoned TLP Received reports
  timeouts : Nat           -- Completion Timeout reports
  unexpected : Nat         -- Unexpected Completion reports
  unsupported : Nat        -- Unsupported Request reports
  rate : PcieRate          -- of the link when it last trained
  width : PcieWidth
  deriving DecidableEq, Repr

def Pcie.reset : Pcie :=
  { linkUp := false, perst := false, fns := [], vfEnable := false, numVFs := 0, poisoned := 0, timeouts := 0, unexpected := 0,
    unsupported := 0, rate := .g64, width := .x16 }

/-- A management event (Table 17.4). -/
structure MEvt where
  code : Byte
  data : W32
  stamp : W64
  deriving DecidableEq, Repr

/-- A message in reassembly (rule R414). -/
structure Reasm where
  src : Byte
  msgTag : BitVec 3
  msgType : Byte
  body : List Byte
  deriving DecidableEq, Repr

/-- A firmware update in progress (rules R419, R420). -/
structure Update where
  component : Option (BitVec 16)
  size : Nat
  got : Nat
  table : List (BitVec 16)
  verified : List (BitVec 16)
  deriving DecidableEq, Repr

/-- The management bus (Tables 17.7 to 17.10; rules R410 to R420). -/
structure Mgt where
  assigned : Bool
  addr : BitVec 7
  eid : Byte
  enumIn : Bool
  enumOut : Bool
  dflt : BitVec 7
  serving : Bool
  recovery : Bool
  speed : BitVec 2
  events : List MEvt
  lost : BitVec 16
  timeouts : Byte
  arbDrops : Byte
  msgDrops : Byte
  pecErrs : Byte
  reasm : List Reasm
  retries : Nat            -- arbitrations lost by the response at place retryOf of out
  retryOf : Nat
  tid : Byte
  update : Option Update
  flashQ : List FlashOp    -- writes of a firmware update that wait for the flash (rule R431)
  deriving DecidableEq, Repr

def Mgt.reset : Mgt :=
  { assigned := false, addr := 0, eid := 0, enumIn := false, enumOut := false, dflt := 0x5C, serving := false,
    recovery := false, speed := 0, events := [], lost := 0, timeouts := 0, arbDrops := 0, msgDrops := 0, pecErrs := 0,
    reasm := [], retries := 0, retryOf := 0, tid := 0, update := Option.none, flashQ := [] }

/-! ### Groups of the state -/

/-- Time (rules R133, R134, R323, R445): the accession clock, its latched high half, ACLK cycles in thousandths (MODEL'S OWN
measure for rules R130 and R238; notes/assumptions/2), the ns by which the clock has still to slew, and the ns since it last
slewed. -/
structure Clk where
  now : W64
  hi : W32
  acyc : Nat
  slew : Int
  slewNs : Nat
  deriving DecidableEq, Repr

def Clk.reset : Clk := { now := 0, hi := 0, acyc := 0, slew := 0, slewNs := 0 }

/-- The Circulation Desk (chapter 11; Tables 19.5, 19.6). -/
structure Desk where
  ready : Bool
  goOrder : Nat
  mbox : Tab Mbox
  fnReg : Tab FnReg
  queues : Tab Queue
  cmds : List Cmd
  reads : List HostRd
  lateRecs : List LateRec    -- completion records that perturbation delays, oldest first (Table 15.9)
  rdTag : Nat
  fwMajor : BitVec 16
  fwMinor : BitVec 16
  fwBuild : W32
  deriving DecidableEq, Repr

def Desk.reset : Desk :=
  { ready := false, goOrder := 0, mbox := [], fnReg := [], queues := [], cmds := [], reads := [], lateRecs := [], rdTag := 0, fwMajor := 0,
    fwMinor := 0, fwBuild := 0 }

/-- The tiles in hand, in the order in which the Runners took them up, and the Runners (chapter 5). -/
structure Work where
  tiles : List Tile
  runners : Tab Runner
  deriving DecidableEq, Repr

def Work.reset : Work := { tiles := [], runners := [] }

/-- The units of the stations beside the arrays (chapters 5, 7). -/
structure Units where
  glo : Tab Glo
  led : Tab Led
  ret : Tab Ret
  deriving DecidableEq, Repr

def Units.reset : Units := { glo := [], led := [], ret := [] }

/-- The Lookup Arrays, their groups and slots (chapters 3, 4). closeCtr: the order of closing (rule R85). -/
structure Arrays where
  arr : Tab Arr
  groups : Tab Group
  slots : Tab Slot
  closeCtr : Nat
  deriving DecidableEq, Repr

def Arrays.reset : Arrays := { arr := [], groups := [], slots := [], closeCtr := 0 }

/-- Words whose check code finds damage at every read until they are rewritten: uncorrectable and single-bit
(rules R199, R200, R368). -/
structure Ecc where
  ue : List Nat
  ce : List Nat
  deriving DecidableEq, Repr

def Ecc.reset : Ecc := { ue := [], ce := [] }

/-- The memory tiers (chapter 9): D in GiB, the Shelfmark table, the Curator. -/
structure Tiers where
  depGib : Nat
  folios : Tab Folio
  cur : Curator
  deriving DecidableEq, Repr

def Tiers.reset : Tiers := { depGib := 0, folios := [], cur := Curator.reset }

/-- One store of the command in hand: bytes at an address, or a range [lo, hi) set to zeros. -/
inductive MemOp where
  | store (addr : Nat) (bytes : List Byte)
  | clear (lo hi : Nat)
  deriving DecidableEq, Repr

/-! ### The state -/

/-- The state of one KM1040. pending: the commands that wait. wr (MODEL'S OWN): the stores that the command in hand has made
so far, newest first; every command ends by putting them into mem, so that wr is empty between commands. freeCtr (MODEL'S
OWN): how many free values have been used (notes/assumptions/9). -/
structure State where
  pending : List Instr
  out : List Out
  wr : List MemOp
  freeCtr : Nat
  clk : Clk
  tick : Tick
  adm : Adm
  desk : Desk
  run : Work
  units : Units
  arrs : Arrays
  wings : Tab Wing
  mem : List Host.Cell
  ecc : Ecc
  banks : Tab Bank
  inv : Inv
  vault : List Host.Cell
  flash : List Host.Cell
  tier : Tiers
  fab : Fab
  rst : Rst
  pwr : Pwr
  rel : Rel
  sec : Sec
  pcie : Pcie
  mgt : Mgt
  deriving DecidableEq, Repr

/-- The machine right after an L0 reset: every field at the value of its Reset column, every memory with nothing listed, no
command waiting. The L0 episode has ended and its bring-up is at its first step (notes/assumptions/5). -/
def State.reset : State :=
  { pending := [], out := [], wr := [], freeCtr := 0, clk := Clk.reset, tick := Tick.reset, adm := Adm.reset,
    desk := Desk.reset, run := Work.reset, units := Units.reset, arrs := Arrays.reset, wings := [], mem := [],
    ecc := Ecc.reset, banks := [], inv := Inv.reset, vault := [], flash := [], tier := Tiers.reset, fab := Fab.reset,
    rst := Rst.reset, pwr := Pwr.reset, rel := Rel.reset, sec := Sec.reset, pcie := Pcie.reset, mgt := Mgt.reset }

end Sys2Proof.Machine
end

