-- ==== Sys2Proof/Machine/Ops.lean ====
section
/-! DEFINITION. The operations every meaning is written over: sparse tables, bytes and fields, memory with the stores of the
command in hand, the one way a command ends, and the named registers and units of the state. -/

namespace Sys2Proof.Machine

/-! ### Sparse tables -/

/-- The value at key i; a key that is not listed holds the default d. -/
def tabGet {α : Type} (d : α) : Tab α → Nat → α
  | [], _ => d
  | (k, v) :: t, i => if k = i then v else tabGet d t i

/-- The table without key i. -/
def tabDel {α : Type} (t : Tab α) (i : Nat) : Tab α := t.filter fun c => c.1 != i

/-- The table with v at key i, keys kept in rising order. -/
def tabIns {α : Type} : Tab α → Nat → α → Tab α
  | [], i, v => [(i, v)]
  | (k, w) :: t, i, v =>
    if k < i then (k, w) :: tabIns t i v
    else if k = i then (i, v) :: t
    else (i, v) :: (k, w) :: t

/-- The table with v at key i; storing the default removes the key, so that equal tables are equal lists. -/
def tabSet {α : Type} [DecidableEq α] (d : α) (t : Tab α) (i : Nat) (v : α) : Tab α :=
  if v = d then tabDel t i else tabIns t i v

/-- The canonical form: keys strictly rising, no entry that holds the default. -/
def tabWf {α : Type} [DecidableEq α] (d : α) (t : Tab α) : Bool :=
  t.all (fun c => c.2 != d) && decide (t.Pairwise fun a b => a.1 < b.1)

/-! ### Bytes, words and bit fields (rule R4) -/

/-- n little-endian bytes of a number. -/
def bytesOf : Nat → Nat → List Byte
  | 0, _ => []
  | n + 1, v => BitVec.ofNat 8 v :: bytesOf n (v / 256)

/-- The number that little-endian bytes spell. -/
def natOf : List Byte → Nat
  | [] => 0
  | b :: t => b.toNat + 256 * natOf t

/-- Bits hi down to lo of a number. -/
def bits (hi lo v : Nat) : Nat := v / 2 ^ lo % 2 ^ (hi + 1 - lo)

/-- Bit i of a number. -/
def bit (i v : Nat) : Bool := v / 2 ^ i % 2 == 1

/-- 1 or 0, to stand in a word. -/
def b2n (b : Bool) : Nat := if b then 1 else 0

/-- The signed value of the low n bits. -/
def signed (n v : Nat) : Int :=
  if v % 2 ^ n < 2 ^ (n - 1) then (v % 2 ^ n : Nat) else (v % 2 ^ n : Nat) - (2 ^ n : Nat)

/-- A counter saturates at its all-ones value (rule R5). -/
def satAdd {n : Nat} (c : BitVec n) (k : Nat) : BitVec n :=
  if c.toNat + k < 2 ^ n then BitVec.ofNat n (c.toNat + k) else BitVec.allOnes n

/-- A list padded with x to length n, or cut to it. -/
def padTo {α : Type} (x : α) (n : Nat) (l : List α) : List α := (l ++ List.replicate (n - l.length) x).take n

/-- The list cut into pieces of n elements (n > 0); fuel bounds the number of pieces. -/
def chunksOf {α : Type} (n : Nat) : Nat → List α → List (List α)
  | 0, _ => []
  | _, [] => []
  | fuel + 1, l => l.take n :: chunksOf n fuel (l.drop n)

/-- 32-bit words of a byte list. -/
def wordsOf (bs : List Byte) : List W32 := (chunksOf 4 bs.length bs).map fun c => BitVec.ofNat 32 (natOf c)

/-- Bytes of 32-bit words. -/
def wordBytes (ws : List W32) : List Byte := ws.flatMap fun w => bytesOf 4 w.toNat

/-- The k-th word of a list of words, 0 past its end. -/
def wordAt (ws : List W32) (k : Nat) : Nat := (ws.getD k 0).toNat

/-- a divided by b, rounded up. -/
def ceilDiv (a b : Nat) : Nat := (a + b - 1) / b

/-- a rounded up to a multiple of b. -/
def roundUp (a b : Nat) : Nat := ceilDiv a b * b

/-! ### Cells of bytes: the canonical form of every memory -/

/-- The cells that hold bytes bs from address a; bytes equal to what an unlisted address reads as (z) need none. -/
def cellsOf (z : Byte) (a : Nat) : List Byte → List Host.Cell
  | [] => []
  | b :: t => if b = z then cellsOf z (a + 1) t else (a, b) :: cellsOf z (a + 1) t

/-- Memory with bytes bs stored from address a. -/
def memPut (z : Byte) (m : List Host.Cell) (a : Nat) (bs : List Byte) : List Host.Cell :=
  m.filter (fun c => c.1 < a) ++ cellsOf z a bs ++ m.filter (fun c => a + bs.length ≤ c.1)

/-- Memory with the range [lo, hi) set to what an unlisted address reads as. -/
def memClear (m : List Host.Cell) (lo hi : Nat) : List Host.Cell := m.filter fun c => c.1 < lo || hi ≤ c.1

/-- n bytes from address a out of cells that lie in the range, in rising order. -/
def fillBytes (z : Byte) : Nat → Nat → List Host.Cell → List Byte
  | 0, _, _ => []
  | n + 1, a, [] => z :: fillBytes z n (a + 1) []
  | n + 1, a, (k, v) :: t => if k = a then v :: fillBytes z n (a + 1) t else z :: fillBytes z n (a + 1) ((k, v) :: t)

/-- n bytes of memory from address a. -/
def memBytes (z : Byte) (m : List Host.Cell) (a n : Nat) : List Byte :=
  fillBytes z n a (m.filter fun c => a ≤ c.1 && c.1 < a + n)

/-- Memory after one store. -/
def memOp (m : List Host.Cell) : MemOp → List Host.Cell
  | .store a bs => memPut 0 m a bs
  | .clear lo hi => memClear m lo hi

/-- Memory after the stores of a command, newest first in the list. -/
def memOps (m : List Host.Cell) (ops : List MemOp) : List Host.Cell := ops.foldr (fun o m => memOp m o) m

/-- The canonical form of the device memory. -/
def Memory.wf (m : List Host.Cell) : Bool := tabWf 0 m

/-- Bytes read from address a as a store leaves them. -/
def patchBytes (a : Nat) (o : MemOp) (bs : List Byte) : List Byte :=
  let (b, n) := match o with
    | .store b cs => (b, cs.length)
    | .clear lo hi => (lo, hi - lo)
  let lo := max a b
  let hi := min (a + bs.length) (b + n)
  if hi ≤ lo then bs
  else
    let mid := match o with
      | .store _ cs => (cs.drop (lo - b)).take (hi - lo)
      | .clear _ _ => List.replicate (hi - lo) 0
    bs.take (lo - a) ++ mid ++ bs.drop (hi - a)

/-! ### One update per part of the state -/

def State.setOut (s : State) (x : List Out) : State := { s with out := x }
def State.setWr (s : State) (x : List MemOp) : State := { s with wr := x }
def State.setFreeCtr (s : State) (x : Nat) : State := { s with freeCtr := x }
def State.setClk (s : State) (x : Clk) : State := { s with clk := x }
def State.setTick (s : State) (x : Tick) : State := { s with tick := x }
def State.setAdm (s : State) (x : Adm) : State := { s with adm := x }
def State.setDesk (s : State) (x : Desk) : State := { s with desk := x }
def State.setRun (s : State) (x : Work) : State := { s with run := x }
def State.setUnits (s : State) (x : Units) : State := { s with units := x }
def State.setArrs (s : State) (x : Arrays) : State := { s with arrs := x }
def State.setWings (s : State) (x : Tab Wing) : State := { s with wings := x }
def State.setEcc (s : State) (x : Ecc) : State := { s with ecc := x }
def State.setBanks (s : State) (x : Tab Bank) : State := { s with banks := x }
def State.setInv (s : State) (x : Inv) : State := { s with inv := x }
def State.setVault (s : State) (x : List Host.Cell) : State := { s with vault := x }
def State.setFlash (s : State) (x : List Host.Cell) : State := { s with flash := x }
def State.setTier (s : State) (x : Tiers) : State := { s with tier := x }
def State.setFab (s : State) (x : Fab) : State := { s with fab := x }
def State.setRst (s : State) (x : Rst) : State := { s with rst := x }
def State.setPwr (s : State) (x : Pwr) : State := { s with pwr := x }
def State.setRel (s : State) (x : Rel) : State := { s with rel := x }
def State.setSec (s : State) (x : Sec) : State := { s with sec := x }
def State.setPcie (s : State) (x : Pcie) : State := { s with pcie := x }
def State.setMgt (s : State) (x : Mgt) : State := { s with mgt := x }

/-! ### How a command ends -/

/-- The end of every command: the stores it made stand in memory, and the queue is as it found it. -/
def finish (s t : State) : State :=
  { t with pending := s.pending, mem := memOps s.mem t.wr, wr := [] }

/-- Puts out one output. -/
def emit (s : State) (o : Out) : State := s.setOut (s.out ++ [o])

/-- A free value of the manual: Config.free applied to the counter, which advances (notes/assumptions/9). -/
def freePick (s : State) : Nat × State := (Config.free s.freeCtr, s.setFreeCtr (s.freeCtr + 1))

/-- A step on each element of a list, in order. -/
def forEach {α : Type} (l : List α) (s : State) (f : State → α → State) : State := l.foldl f s

/-! ### Reading and writing memory -/

/-- n bytes of the device memory from address a, with the stores of the command in hand. -/
def readMem (s : State) (a n : Nat) : List Byte :=
  s.wr.foldr (patchBytes a) (memBytes 0 s.mem a n)

/-- One byte of the device memory. -/
def readByte (s : State) (a : Nat) : Byte := (readMem s a 1).headD 0

/-- Stores bytes in the device memory. -/
def writeMem (s : State) (a : Nat) (bs : List Byte) : State := s.setWr (.store a bs :: s.wr)

/-- Sets a range of the device memory to zeros. -/
def clearMem (s : State) (lo hi : Nat) : State := s.setWr (.clear lo hi :: s.wr)

/-! ### The tabled units -/

def getMb (s : State) (f k : Nat) : Mbox := tabGet Mbox.reset s.desk.mbox (8 * f + k)
def setMb (s : State) (f k : Nat) (m : Mbox) : State :=
  s.setDesk { s.desk with mbox := tabSet Mbox.reset s.desk.mbox (8 * f + k) m }
def getFn (s : State) (f : Nat) : FnReg := tabGet FnReg.reset s.desk.fnReg f
def setFn (s : State) (f : Nat) (x : FnReg) : State :=
  s.setDesk { s.desk with fnReg := tabSet FnReg.reset s.desk.fnReg f x }
def getQ (s : State) (q : Nat) : Queue := tabGet Queue.reset s.desk.queues q
def setQ (s : State) (q : Nat) (x : Queue) : State :=
  s.setDesk { s.desk with queues := tabSet Queue.reset s.desk.queues q x }
def getRun (s : State) (w r : Nat) : Runner := tabGet Runner.reset s.run.runners (4 * w + r)
def putRun (s : State) (w r : Nat) (x : Runner) : State :=
  s.setRun { s.run with runners := tabSet Runner.reset s.run.runners (4 * w + r) x }
def getGlo (s : State) (w u : Nat) : Glo := tabGet Glo.reset s.units.glo (2 * w + u)
def setGlo (s : State) (w u : Nat) (x : Glo) : State :=
  s.setUnits { s.units with glo := tabSet Glo.reset s.units.glo (2 * w + u) x }
def getLed (s : State) (w u : Nat) : Led := tabGet Led.reset s.units.led (2 * w + u)
def setLed (s : State) (w u : Nat) (x : Led) : State :=
  s.setUnits { s.units with led := tabSet Led.reset s.units.led (2 * w + u) x }
def getRet (s : State) (w u : Nat) : Ret := tabGet Ret.reset s.units.ret (2 * w + u)
def setRet (s : State) (w u : Nat) (x : Ret) : State :=
  s.setUnits { s.units with ret := tabSet Ret.reset s.units.ret (2 * w + u) x }
def getArr (s : State) (w a : Nat) : Arr := tabGet Arr.reset s.arrs.arr (33 * w + a)
def setArr (s : State) (w a : Nat) (x : Arr) : State :=
  s.setArrs { s.arrs with arr := tabSet Arr.reset s.arrs.arr (33 * w + a) x }
def getGroup (s : State) (l g : Nat) : Group := tabGet Group.reset s.arrs.groups (4 * l + g)
def setGroup (s : State) (l g : Nat) (x : Group) : State :=
  s.setArrs { s.arrs with groups := tabSet Group.reset s.arrs.groups (4 * l + g) x }
def getSlot (s : State) (w a k : Nat) : Slot := tabGet Slot.reset s.arrs.slots (8 * (33 * w + a) + k)
def setSlot (s : State) (w a k : Nat) (x : Slot) : State :=
  s.setArrs { s.arrs with slots := tabSet Slot.reset s.arrs.slots (8 * (33 * w + a) + k) x }
def getWing (s : State) (w : Nat) : Wing := tabGet Wing.reset s.wings w
def setWing (s : State) (w : Nat) (x : Wing) : State := s.setWings (tabSet Wing.reset s.wings w x)
def getBank (s : State) (w k : Nat) : Bank := tabGet Bank.reset s.banks (37 * w + k)
def setBank (s : State) (w k : Nat) (x : Bank) : State := s.setBanks (tabSet Bank.reset s.banks (37 * w + k) x)
def getFolio (s : State) (f : Nat) : Folio := tabGet Folio.reset s.tier.folios f
def setFolio (s : State) (f : Nat) (x : Folio) : State :=
  s.setTier { s.tier with folios := tabSet Folio.reset s.tier.folios f x }
def getPort (s : State) (p : Nat) : Port := tabGet Port.reset s.fab.ports p
def setPort (s : State) (p : Nat) (x : Port) : State :=
  s.setFab { s.fab with ports := tabSet Port.reset s.fab.ports p x }
def getPcie (s : State) (f : Nat) : PcieFn := tabGet PcieFn.reset s.pcie.fns f
def setPcieFn (s : State) (f : Nat) (x : PcieFn) : State :=
  s.setPcie { s.pcie with fns := tabSet PcieFn.reset s.pcie.fns f x }

def modMb (s : State) (f k : Nat) (g : Mbox → Mbox) : State := setMb s f k (g (getMb s f k))
def modFn (s : State) (f : Nat) (g : FnReg → FnReg) : State := setFn s f (g (getFn s f))
def modQ (s : State) (q : Nat) (g : Queue → Queue) : State := setQ s q (g (getQ s q))
def modRun (s : State) (w r : Nat) (g : Runner → Runner) : State := putRun s w r (g (getRun s w r))
def modGlo (s : State) (w u : Nat) (g : Glo → Glo) : State := setGlo s w u (g (getGlo s w u))
def modLed (s : State) (w u : Nat) (g : Led → Led) : State := setLed s w u (g (getLed s w u))
def modRet (s : State) (w u : Nat) (g : Ret → Ret) : State := setRet s w u (g (getRet s w u))
def modArr (s : State) (w a : Nat) (g : Arr → Arr) : State := setArr s w a (g (getArr s w a))
def modGroup (s : State) (l g : Nat) (h : Group → Group) : State := setGroup s l g (h (getGroup s l g))
def modSlot (s : State) (w a k : Nat) (g : Slot → Slot) : State := setSlot s w a k (g (getSlot s w a k))
def modWing (s : State) (w : Nat) (g : Wing → Wing) : State := setWing s w (g (getWing s w))
def modBank (s : State) (w k : Nat) (g : Bank → Bank) : State := setBank s w k (g (getBank s w k))
def modFolio (s : State) (f : Nat) (g : Folio → Folio) : State := setFolio s f (g (getFolio s f))
def modPort (s : State) (p : Nat) (g : Port → Port) : State := setPort s p (g (getPort s p))
def modPcie (s : State) (f : Nat) (g : PcieFn → PcieFn) : State := setPcieFn s f (g (getPcie s f))

end Sys2Proof.Machine
end

