-- ==== Sys2Proof/Machine/Num.lean ====
section
/-! DEFINITION. Exact values and number formats (chapter 2; rules R27, R28, R31, R40 to R43, R58 to R66): decoding, exact
terms and sums, rounding to nearest, stochastic rounding and requantisation. -/

namespace Sys2Proof.Machine

/-- 2 to an integer power. -/
def pow2 (e : Int) : Rat := if 0 ≤ e then ((2 ^ e.toNat : Nat) : Rat) else 1 / ((2 ^ (-e).toNat : Nat) : Rat)

/-- The magnitude of a rational. -/
def ratAbs (q : Rat) : Rat := if q < 0 then -q else q

/-- The largest e with 2^e ≤ q, for q > 0. -/
def floorLog2 (q : Rat) : Int :=
  let e : Int := (Nat.log2 q.num.natAbs : Int) - (Nat.log2 q.den : Int)
  if pow2 e ≤ q then e else e - 1

/-- The nearest integer to q ≥ 0, ties to even. -/
def rne (q : Rat) : Nat :=
  let n := q.num.natAbs / q.den
  let r := q - (n : Rat)
  if r < 1 / 2 then n else if r = 1 / 2 then n + n % 2 else n + 1

/-- A binary format with eb exponent bits and mb mantissa bits. -/
structure Fmt where
  eb : Nat
  mb : Nat
  deriving DecidableEq, Repr

def fp32 : Fmt := { eb := 8, mb := 23 }
def bf16 : Fmt := { eb := 8, mb := 7 }
def fp16 : Fmt := { eb := 5, mb := 10 }

/-- The exponent of the smallest normal value. -/
def fmtMin (f : Fmt) : Int := 2 - (2 ^ (f.eb - 1) : Nat)
/-- The bits of +∞. -/
def fmtInf (f : Fmt) : Nat := (2 ^ f.eb - 1) * 2 ^ f.mb
/-- The sign bit. -/
def fmtSign (f : Fmt) : Nat := 2 ^ (f.eb + f.mb)
/-- The quiet NaN of rules R40 and R62. -/
def fmtNan (f : Fmt) : Nat := fmtInf f + 2 ^ (f.mb - 1)

/-- The value of a bit pattern, as IEEE 754 decodes it (rule R28). -/
def decodeF (f : Fmt) (v : Nat) : XV :=
  let neg := v / fmtSign f % 2 == 1
  let e := v / 2 ^ f.mb % 2 ^ f.eb
  let m := v % 2 ^ f.mb
  let sg : Rat := if neg then -1 else 1
  if e = 2 ^ f.eb - 1 then (if m = 0 then .inf neg else .nan)
  else if e = 0 then .fin (sg * (m : Rat) * pow2 (fmtMin f - f.mb)) (neg && m == 0)
  else .fin (sg * ((2 ^ f.mb + m : Nat) : Rat) * pow2 (fmtMin f - f.mb + (e - 1 : Nat))) false

/-- Whether an exact value carries a minus sign, a negative zero's included. -/
def xvNeg : XV → Bool
  | .nan => false
  | .inf n => n
  | .fin q nz => decide (q < 0) || (q == 0 && nz)

/-- The magnitude bits of a positive value before rounding: the integer part and the rest in units of its last place, and
the bits that the integer part 0 of its binade has (rule R64). -/
def ulpParts (f : Fmt) (q : Rat) : Nat × Rat :=
  let e := max (floorLog2 q) (fmtMin f)
  (((e - fmtMin f).toNat) * 2 ^ f.mb, q / pow2 (e - f.mb))

/-- Rounding to nearest, ties to even (rules R40, R59). A NaN that goes out as F32 is 0x7FC0_0000, also where no accumulator held it
(DESIGN CHOICE, notes/assumptions/90). -/
def encodeF (f : Fmt) : XV → Nat
  | .nan => fmtNan f
  | .inf n => b2n n * fmtSign f + fmtInf f
  | .fin q nz =>
    if q = 0 then b2n nz * fmtSign f
    else
      let (base, k) := ulpParts f (ratAbs q)
      b2n (decide (q < 0)) * fmtSign f + min (base + rne k) (fmtInf f)

/-- Stochastic rounding with the 32-bit draw r (rule R64). -/
def stochF (f : Fmt) (r : Nat) : XV → Nat
  | .nan => fmtNan f
  | .inf n => b2n n * fmtSign f + fmtInf f
  | .fin q nz =>
    if q = 0 then b2n nz * fmtSign f
    else
      let (base, k) := ulpParts f (ratAbs q)
      let lo := k.num.natAbs / k.den
      let d := ((k - (lo : Rat)) * ((2 ^ 32 : Nat) : Rat))
      let up := if d.num.natAbs / d.den + r < 2 ^ 32 then 0 else 1
      b2n (decide (q < 0)) * fmtSign f + min (base + lo + up) (fmtInf f)

/-- The value of an E4M3 scale byte (rule R27, Table 2.3). -/
def decodeE4M3 (v : Nat) : XV :=
  let neg := v / 128 % 2 == 1
  let e := v / 8 % 16
  let m := v % 8
  let sg : Rat := if neg then -1 else 1
  if e = 15 ∧ m = 7 then .nan
  else if e = 0 then .fin (sg * (m : Rat) * pow2 (-9)) (neg && m == 0)
  else .fin (sg * ((8 + m : Nat) : Rat) * pow2 ((e : Int) - 10)) false

/-- The value of an E8M0 exponent (rule R31); none for NaN. -/
def decodeE8M0 (e : Nat) : Option Rat := if e = 255 then none else some (pow2 ((e : Int) - 127))

/-- P × σ × 2^(e − 127) exactly, with the sign of a zero and the non-finite cases (rules R58, R62). -/
def scaledTerm (p : Int) (sigma : XV) (e : Nat) : XV :=
  match decodeE8M0 e with
  | none => .nan
  | some x =>
    match sigma with
    | .nan => .nan
    | .inf n => if p = 0 then .nan else .inf (n != decide (p < 0))
    | .fin q nz =>
      let v := (p : Rat) * q * x
      .fin v (v == 0 && (decide (p < 0) != (decide (q < 0) || (q == 0 && nz))))

/-- The exact sum of an accumulator and a term (rules R59, R62, R63). -/
def xvAdd : XV → XV → XV
  | .nan, _ => .nan
  | _, .nan => .nan
  | .inf a, .inf b => if a = b then .inf a else .nan
  | .inf a, _ => .inf a
  | _, .inf b => .inf b
  | .fin p np, .fin q nq => .fin (p + q) (p + q == 0 && np && nq && p == 0 && q == 0)

/-- An integer as an exact value. -/
def xvInt (i : Int) : XV := .fin (i : Rat) false

/-- Whether a value is a NaN or an infinity. -/
def xvBad : XV → Bool
  | .fin _ _ => false
  | _ => true

/-- The value with its sign changed. -/
def xvFlip : XV → XV
  | .nan => .nan
  | .inf n => .inf (!n)
  | .fin q nz => .fin (-q) (q == 0 && !nz)

/-- One draw of an array's generator: the new state, which is the value drawn (rule R65). -/
def drawNext (x : W32) : W32 :=
  let x := x ^^^ (x <<< 13)
  let x := x ^^^ (x >>> 17)
  x ^^^ (x <<< 5)

/-- The generator's state at the start of a tile or of a replay run (rule R66). -/
def seedGen (seed : W32) (l : Nat) : W32 :=
  let x := seed ^^^ BitVec.ofNat 32 (0x9E3779B9 * (l + 1))
  if x = 0 then 0x6D2B79F5#32 else x

/-! ### Requantisation (rules R41 to R43) -/

/-- The exponent byte of a block whose largest finite magnitude is amax; q is 127 or 7 (rule R41). -/
def quantExp (amax : Rat) (q : Nat) : Nat :=
  if amax = 0 then 0
  else
    let r := amax / (q : Rat)
    let e := floorLog2 r
    let s := if pow2 e = r then e else e + 1
    if 127 + s < 0 then 0 else if 127 + s > 254 then 254 else (127 + s).toNat

/-- A block of values as integers of w bits with their exponent byte, and the count of clipped elements
(rules R41 to R43). -/
def quantBlock (w : Nat) (xs : List XV) : Nat × List Int × Nat :=
  let bad := (xs.filter xvBad).length
  if bad ≠ 0 then (0xFF, xs.map (fun _ => 0), bad)
  else
    let mags := xs.map fun x => match x with
      | .fin q _ => ratAbs q
      | _ => 0
    let e := quantExp (mags.foldl (fun a b => if a < b then b else a) 0) (2 ^ (w - 1) - 1)
    let u := pow2 ((e : Int) - 127)
    let hi : Int := (2 ^ (w - 1) : Nat) - 1
    let lo : Int := -(2 ^ (w - 1) : Nat)
    let vals := xs.map fun x => match x with
      | .fin q _ => if q < 0 then -(rne (-q / u) : Int) else (rne (q / u) : Int)
      | _ => 0
    (e, vals.map fun v => max lo (min hi v), (vals.filter fun v => v < lo || hi < v).length)

end Sys2Proof.Machine
end

