-- ==== Sys2Proof/Machine/Lookup.lean ====
section
/-! DEFINITION. Lookup arithmetic (chapter 3 and rules R21 to R33): index-side and table-side elements, Concordance tables,
group terms, pass sums, accumulation steps and drained values. -/

namespace Sys2Proof.Machine

/-- Planes b of an index-side format (Table 2.1); 0 for a reserved code. -/
def planesOf (ifmt : Nat) : Nat :=
  if 1 ≤ ifmt ∧ ifmt ≤ 8 then ifmt else if ifmt = 9 then 1 else if ifmt = 10 then 2 else 0

/-- Tokens a cell issues in two cycles (Table 3.3): issue time and rate of a pass. -/
def tokensPerTwo (b : Nat) : Nat := if b = 1 then 8 else if b = 2 then 4 else if b ≤ 4 then 2 else 1

/-- Issue time I of a pass of m tokens (Table 4.1). -/
def issueTime (b m : Nat) : Nat := ceilDiv (2 * m) (tokensPerTwo b)

/-- Load time L of a pass (Table 4.1). -/
def loadTime (b : Nat) (a16 : Bool) : Nat := if a16 then 4 * b else 2 * b

/-- The 64 integers of a token's block (rule R32): 64 bytes of 8-bit or 32 bytes of 4-bit elements. -/
def blockInts (four : Bool) (bs : List Byte) : List Int :=
  if four then (padTo 0 32 bs).flatMap fun b => [signed 4 (b.toNat % 16), signed 4 (b.toNat / 16)]
  else (padTo 0 64 bs).map fun b => signed 8 b.toNat

/-- The Concordance table of a row's four activations (rule R47). -/
def concTable (a : List Int) : List Int :=
  (List.range 16).map fun x => (List.range 4).foldl (fun t i => if bit i x then t + a.getD i 0 else t) 0

/-- The 16 tables of one token for a pass, row by row. -/
def concordance (a : List Int) : List (List Int) := (chunksOf 4 16 a).map concTable

/-- The plane indices of a column of a pass block (rules R23, R24): for each row g, plane 0 first. -/
def columnIdx (b : Nat) (planes : List (List Byte)) (n : Nat) : List (List Nat) :=
  (List.range 16).map fun g =>
    (List.range b).map fun j =>
      let v := ((planes.getD (b - 1 - j) []).getD (8 * n + g / 2) 0).toNat
      if g % 2 = 0 then v % 16 else v / 16

/-- A pass block as plane indices: column by column, row by row, plane 0 first. -/
def blockIdx (b : Nat) (blk : List Byte) : List (List (List Nat)) :=
  let planes := chunksOf 128 b (padTo 0 (128 * b) blk)
  (List.range 16).map (columnIdx b planes)

/-- The two's complement sum of looked-up entries, plane 0 first, the top plane negative (Table 3.1, W2 to W8). -/
def signedPlanes (t : List Int) : List Nat → Int
  | [] => 0
  | [x] => -(t.getD x 0)
  | x :: y :: r => t.getD x 0 + 2 * signedPlanes t (y :: r)

/-- The group term of a cell (rule R50, Table 3.1). -/
def groupTerm (ifmt : Nat) (t : List Int) (xs : List Nat) : Int :=
  if ifmt = 1 then t.getD (xs.getD 0 0) 0
  else if ifmt = 9 then 2 * t.getD (xs.getD 0 0) 0 - t.getD 15 0
  else if ifmt = 10 then t.getD (xs.getD 0 0) 0 - t.getD (xs.getD 1 0) 0
  else signedPlanes t xs

/-- One row of a pass sum: the running sum, whether a clamp changed it, and the largest |s_g| so far (rules R54, R55, R76). -/
def sumStep (a16 : Bool) (st : Int × Bool × Nat) (c : Int) : Int × Bool × Nat :=
  let t := st.1 + c
  let s := if a16 then max (-32767) (min 32767 t) else t
  (s, st.2.1 || s != t, max st.2.2 s.natAbs)

/-- The pass sum of one column: value, saturation, largest |s_g| (rules R54, R55). -/
def passColumn (a16 : Bool) (ifmt : Nat) (tabs : List (List Int)) (col : List (List Nat)) : Int × Bool × Nat :=
  ((tabs.zip col).map fun tc => groupTerm ifmt tc.1 tc.2).foldl (sumStep a16) (0, false, 0)

/-- The real value of the sum of products that a column's group terms stand for, for one token (rule R34's integer part). -/
def elementValue (ifmt : Nat) (x : List Nat) : Int :=
  let bitsI : List Int := x.map Int.ofNat
  if ifmt = 1 then bitsI.getD 0 0
  else if ifmt = 9 then 2 * bitsI.getD 0 0 - 1
  else if ifmt = 10 then bitsI.getD 0 0 - bitsI.getD 1 0
  else signedPlanes [0, 1] x

/-- What a pass adds to a tile's safeguards: saturations counted (one per lane and token), the largest |s_g|. -/
structure PassStat where
  sats : Nat
  maxabs : Nat
  deriving DecidableEq, Repr

/-- Accumulator modes (Table 3.5): 0 A32N, 1 A32S, 2 A16, 3 I48. The format of the running accumulator. -/
def accFmt (mode : Nat) : Fmt := if mode = 2 then bf16 else fp32

/-- One accumulation step: the new accumulator, the generator's state, and whether an I48 accumulator saturated
(rules R59, R60, R64, R67). -/
def accStep (mode : Nat) (acc : BitVec 48) (p : Int) (sigma : XV) (e : Nat) (gen : W32) : BitVec 48 × W32 × Bool :=
  if mode = 3 then
    let t := acc.toInt + p
    let lim : Int := (2 ^ 47 : Nat) - 1
    let c := max (-lim) (min lim t)
    (BitVec.ofInt 48 c, gen, c != t)
  else
    let x := xvAdd (decodeF (accFmt mode) acc.toNat) (scaledTerm p sigma e)
    if mode = 0 then (BitVec.ofNat 48 (encodeF fp32 x), gen, false)
    else
      let g := drawNext gen
      (BitVec.ofNat 48 (stochF (accFmt mode) g.toNat x), g, false)

/-- The drained value of an accumulator (rules R60, R61). -/
def drainVal (mode : Nat) (acc : BitVec 48) (sigma : XV) (e : Nat) : XV :=
  if mode = 3 then scaledTerm acc.toInt sigma e else decodeF (accFmt mode) acc.toNat

/-- One token of a pass: the accumulators of its row, the generator, the lanes that saturated and the largest |s_g| over the
nOut columns that the tile writes (rules R55, R67, R69, R76). cols: the columns of the array; sig: a scale per column. -/
def tokenPass (mode ifmt nOut : Nat) (cols : List (List (List Nat))) (sig : List XV) (a : List Int) (e : Nat)
    (row : List (BitVec 48)) (gen : W32) : List (BitVec 48) × W32 × PassStat :=
  let tabs := concordance a
  let a16 := mode == 2
  let sums := cols.map (passColumn a16 ifmt tabs)
  let written := sums.take nOut
  let lanes := if a16 then [written.take 16, written.drop 16] else [written]
  let laneSats := (lanes.filter fun l => l.any fun x => x.2.1).length
  let st := (row.zip (sums.zip sig)).foldl
    (fun (st : List (BitVec 48) × W32 × List Bool) x =>
      let r := accStep mode x.1 x.2.1.1 x.2.2 e st.2.1
      (r.1 :: st.1, r.2.1, r.2.2 :: st.2.2)) ([], gen, [])
  let i48sat := ((st.2.2.reverse.take nOut).any id)
  (st.1.reverse, st.2.1,
    { sats := laneSats + b2n i48sat, maxabs := written.foldl (fun m x => max m x.2.2) 0 })

/-- A whole pass: every token in ascending order (rules R67, R81, R100). toks: each token's integers and exponent byte. -/
def passRun (mode ifmt nOut : Nat) (cols : List (List (List Nat))) (sig : List XV) :
    List (List Int × Nat) → List (List (BitVec 48)) → W32 → List (List (BitVec 48)) × W32 × PassStat
  | [], rows, gen => (rows, gen, { sats := 0, maxabs := 0 })
  | t :: ts, rows, gen =>
    let r := tokenPass mode ifmt nOut cols sig t.1 t.2 (rows.headD []) gen
    let rest := passRun mode ifmt nOut cols sig ts rows.tail r.2.1
    (r.1 :: rest.1, rest.2.1,
      { sats := r.2.2.sats + rest.2.2.sats, maxabs := max r.2.2.maxabs rest.2.2.maxabs })

/-- A preload or accumulator-write value as an accumulator (rule R87). -/
def preloadVal (mode : Nat) (isBf16 : Bool) (v : Nat) : BitVec 48 :=
  BitVec.ofNat 48 (encodeF (accFmt mode) (decodeF (if isBf16 then bf16 else fp32) v))

end Sys2Proof.Machine
end

