-- ==== Sys2Proof/Machine/Operands.lean ====
section
/-! DEFINITION. Tile descriptors (Tables 5.1 to 5.5): their fields, routes, formats and shapes, the layout of tensors
(rules R23 to R33, R37, R153), and the extents that a tile names (rule R219). -/

namespace Sys2Proof.Machine

/-! ### Descriptor fields (Tables 5.4 and 5.5) -/

def dOp (d : List W32) : Nat := bits 31 26 (wordAt d 0)
def dClass (d : List W32) : Nat := bits 25 24 (wordAt d 0)
def dSplit (d : List W32) : Nat := bits 23 22 (wordAt d 0)
def dMode (d : List W32) : Nat := bits 21 19 (wordAt d 0)
def dGroup (d : List W32) : Nat := bits 18 17 (wordAt d 0)
def dOpen (d : List W32) : Bool := bit 16 (wordAt d 0)
def dClose (d : List W32) : Bool := bit 15 (wordAt d 0)
def dRevK (d : List W32) : Bool := bit 14 (wordAt d 0)
def dReplay (d : List W32) : Bool := bit 13 (wordAt d 0)
def dComp (d : List W32) : Bool := bit 12 (wordAt d 0)
def dLast (d : List W32) : Bool := bit 11 (wordAt d 0)
def dSig (d : List W32) : Bool := bit 10 (wordAt d 0)
def dWexp (d : List W32) : Bool := bit 9 (wordAt d 0)
def dPre (d : List W32) : Bool := bit 8 (wordAt d 0)
def dFunc (d : List W32) : Nat := bits 7 0 (wordAt d 0)
def dLarray (d : List W32) : Nat := bits 31 22 (wordAt d 2)
def dAlt (d : List W32) : Nat := bits 21 17 (wordAt d 2)
def dDest (d : List W32) : Nat := bits 31 16 (wordAt d 3)
def dIfmt (d : List W32) : Nat := bits 15 12 (wordAt d 3)
def dSmode (d : List W32) : Nat := bits 11 10 (wordAt d 3)
def dTfmt (d : List W32) : Nat := bits 9 7 (wordAt d 3)
def dOfmt (d : List W32) : Nat := bits 6 4 (wordAt d 3)
def dPreBf (d : List W32) : Bool := bit 3 (wordAt d 3)
def dPreBcast (d : List W32) : Bool := bit 2 (wordAt d 3)
/-- SEED, or the match tag of SEND, RECV and the collectives (rule R314). -/
def dSeed (d : List W32) : W32 := d.getD 4 0
def dBudget (d : List W32) : Nat := if dOp d = 0x0C then 0 else bits 31 9 (wordAt d 5)
def dM (d : List W32) : Nat := bits 8 0 (wordAt d 5)
def dP (d : List W32) : Nat := bits 31 20 (wordAt d 6)
def dNtot (d : List W32) : Nat := bits 19 8 (wordAt d 6)
def dN (d : List W32) : Nat := bits 5 0 (wordAt d 6)
def dKtot (d : List W32) : Nat := bits 31 20 (wordAt d 7)
def dK0 (d : List W32) : Nat := bits 19 8 (wordAt d 7)
def dM0 (d : List W32) : Nat := bits 31 16 (wordAt d 8)
def dC0 (d : List W32) : Nat := bits 15 4 (wordAt d 8)
def dDsel (d : List W32) : Bool := bit 20 (wordAt d 15)
/-- Preload base in bytes. -/
def dDoff (d : List W32) : Nat := 64 * bits 18 0 (wordAt d 15)
/-- An operand slot as one number: k = 0, 1, 2 for A, B, C. -/
def dSlot (d : List W32) (k : Nat) : Nat := wordAt d (9 + 2 * k) + 2 ^ 32 * wordAt d (10 + 2 * k)
def dFolio (d : List W32) (k : Nat) : Nat := bits 19 0 (dSlot d k)
/-- Tensor base in bytes. -/
def dOff (d : List W32) (k : Nat) : Nat := 64 * bits 38 20 (dSlot d k)
/-- AUX base in bytes. -/
def dAux (d : List W32) (k : Nat) : Nat := 64 * bits 57 39 (dSlot d k)
def dGfunc (d : List W32) : Nat := dFunc d / 16
def dLfunc (d : List W32) : Nat := dFunc d % 16
def dA16 (d : List W32) : Bool := dMode d == 2
/-- Column blocks of an array tile. -/
def dBlocks (d : List W32) : Nat := if dA16 d then 2 else 1

/-- Kinds of operation (Table 5.3). -/
def opArray (op : Nat) : Bool := op == 1 || op == 2 || op == 3
def opRow (op : Nat) : Bool := op == 4 || op == 5 || op == 6
def opLoan (op : Nat) : Bool := decide (8 ≤ op) && decide (op ≤ 0x0E)
def opLoanRow (op : Nat) : Bool := opLoan op && op != 0x0C
def opColl (op : Nat) : Bool := op == 0x0D || op == 0x0E
def opFence (op : Nat) : Bool := op == 0x3F
def opKnown (op : Nat) : Bool := opArray op || opRow op || opLoan op || opFence op

/-! ### Routes (rules R116, R117, R314) -/

/-- A hop (Table 5.1). -/
structure Hop where
  st : Nat
  unit : Nat
  wsel : Nat
  deriving DecidableEq, Repr

/-- The six hop bytes. -/
def dHopBytes (d : List W32) : List Nat :=
  [bits 7 0 (wordAt d 1), bits 15 8 (wordAt d 1), bits 23 16 (wordAt d 1), bits 31 24 (wordAt d 1), bits 7 0 (wordAt d 2),
   bits 15 8 (wordAt d 2)]

def hopOf (b : Nat) : Hop := { st := b / 16, unit := bits 3 3 b, wsel := bits 2 1 b }

/-- The hops before the first END. -/
def dHops (d : List W32) : List Hop := ((dHopBytes d).takeWhile fun b => b / 16 != 0).map hopOf

/-- The Wing of a hop: the Wing of the tile's logical array, or ALT_WING. -/
def hopWing (d : List W32) (h : Hop) : Nat := if h.wsel = 0 then dLarray d / 32 else dAlt d

/-- The node of a hop. -/
def hopNode (d : List W32) (self : Nat) (h : Hop) : Nat := if h.wsel = 2 then dDest d else self

/-- The hops at stations of this node, before the first hop with WSEL 2. -/
def dLocal (d : List W32) : List Hop := (dHops d).takeWhile fun h => h.wsel != 2

/-- The hops at DEST_NODE. -/
def dRemote (d : List W32) : List Hop := (dHops d).dropWhile fun h => h.wsel != 2

/-- Whether the rows of the tile go to a folio of DEST_NODE (rules R315, R449). -/
def dRemoteC (d : List W32) : Bool := dOp d != 0x0B && (dHops d).any fun h => h.wsel == 2

/-- Whether a route is valid on a node (rules R117, R314, Table 5.3). -/
def routeOk (self : Nat) (d : List W32) : Bool :=
  let op := dOp d
  let bytes := dHopBytes d
  let hs := dHops d
  let first := (hs.headD { st := 0, unit := 0, wsel := 0 }).st
  let last := (hs.getLastD { st := 0, unit := 0, wsel := 0 }).st
  let noBad := bytes.all fun b => b % 2 == 0 && bits 2 1 b != 3 && decide (b / 16 ≤ 5)
  let ends := (bytes.drop hs.length).all fun b => b / 16 == 0
  let insts : List (Nat × Nat × Nat × Nat) := hs.map fun h => (h.st, h.unit, hopWing d h, hopNode d self h)
  let far := hs.findIdx? fun h => h.wsel == 2
  let farOk := match far with
    | none => true
    | some 0 => false
    | some (i + 1) =>
      (hs.getD (i + 1) { st := 0, unit := 0, wsel := 0 }).st == 5 && (hs.getD i { st := 0, unit := 0, wsel := 0 }).st == 5 &&
        (hs.drop (i + 1)).all fun h => h.wsel == 2
  noBad && ends &&
  if opFence op then hs.isEmpty
  else
    !hs.isEmpty && (hs.tail.all fun h => h.st != 1) && ((first == 1) == opArray op) &&
    (hs.all fun h => (h.st != 1 || h.wsel == 0) && (h.unit == 0 || (h.st != 1 && h.st != 5))) &&
    (if op = 3 then hs.length == 1 else last == 4 || last == 5) &&
    decide insts.Nodup && farOk &&
    (op != 4 || first == 2) && (op != 5 || first == 3) && (op != 6 || first == 4) &&
    (if op = 8 ∨ op = 0x0A ∨ op = 0x0B ∨ op = 0x0C then hs.length == 2 && hs.all (fun h => h.st == 5) && far == some 1
     else if op = 9 ∨ opColl op then hs.length == 1 && first == 5 else true)

/-! ### Formats and shapes (rules R44, R45, R115, R119 to R122, R155, R161, R172, R177, R179, R237, R314, R321, R322, R449) -/

/-- Bits that an operation may use, word by word (rule R120, Tables 5.3 and 5.4). -/
def useMask (op : Nat) (pre : Bool) : List Nat :=
  let w0 :=
    if op = 1 then 0xFFFFFFFF else if op = 2 then 0xFFFE1CFF else if op = 3 then 0xFFFE0CFF
    else if opRow op then 0xFFC01CFF else if opFence op then 0xFF000CFF else 0xFFC00CFF
  let w3 :=
    if op = 1 then (if pre then 0xFFFFFFFC else 0xFFFFFFF0)
    else if op = 2 then 0xFFFF0070 else if op = 3 then 0xFFFFF000
    else if opRow op || opColl op then 0xFFFFF070 else if opLoanRow op then 0xFFFFF000 else 0xFFFF0000
  let w4 := if opArray op || op == 8 || op == 9 || opColl op then 0xFFFFFFFF else 0
  let w5 := if opFence op then 0xFFFFFE00 else 0xFFFFFFFF
  let w6 := if op = 1 then 0xFFFFFF3F else if opArray op then 0x000FFF3F else 0
  let w7 := if op = 1 then 0xFFFFFF00 else if opRow op || opLoanRow op then 0xFFF00000 else 0
  let w8 := if opArray op then 0xFFFFFFF0 else if opRow op || opLoanRow op then 0xFFFF0000 else 0
  let slot := fun (b : Bool) => if b then [0xFFFFFFFF, 0x03FFFFFF] else ([0, 0] : List Nat)
  let usesA := op == 1 || op == 3 || opRow op || op == 8 || op == 0x0A || op == 0x0B || opColl op
  let usesC := op == 1 || op == 2 || opRow op || op == 9 || op == 0x0A || op == 0x0B || op == 0x0C || opColl op
  [w0, 0xFFFFFFFF, 0xFFFEFFFF, w3, w4, w5, w6, w7, w8] ++ slot usesA ++ slot (op == 1) ++ slot usesC ++
    [if op = 1 ∧ pre then 0x0017FFFF else 0]

/-- Whether every reserved and unused field is 0. -/
def fieldsOk (d : List W32) : Bool :=
  (d.zip (useMask (dOp d) (dPre d))).all fun x => decide (x.1.toNat &&& (0xFFFFFFFF - x.2) = 0)

/-- Whether an output format code names an integer format (Table 2.5). -/
def isInt (f : Nat) : Bool := decide (3 ≤ f) && decide (f ≤ 6)
/-- Whether an integer format has 4-bit elements. -/
def intFour (f : Nat) : Bool := f == 4 || f == 6
/-- Whether an integer format has one exponent per row. -/
def intRowExp (f : Nat) : Bool := f == 5 || f == 6
/-- Size of an element in half bytes (Table 2.5). -/
def halfBytes (f : Nat) : Nat := if f = 0 then 8 else if f ≤ 2 then 4 else if intFour f then 1 else 2
/-- Bytes of n elements. -/
def elBytes (f n : Nat) : Nat := ceilDiv (n * halfBytes f) 2

/-- Table 2.6: the formats that an accumulator mode accepts. -/
def pairingOk (d : List W32) : Bool :=
  let b := planesOf (dIfmt d)
  b != 0 && decide (dTfmt d ≤ 3) && decide (dOfmt d ≤ 6) &&
    if dMode d = 2 then decide (b ≤ 4) else if dMode d = 3 then dSmode d == 3 && decide (2 ≤ dTfmt d) else true

/-- The shape of an array tile (rules R39, R57, R87, R95, R121, R155). -/
def arrayShapeOk (d : List W32) : Bool :=
  let op := dOp d
  decide (dMode d ≤ 3) && decide (1 ≤ dM d) && decide (dM d ≤ 64) && decide (1 ≤ dN d) &&
    decide (dN d ≤ 16 * dBlocks d) && decide (dC0 d + dBlocks d ≤ dNtot d) &&
    if op = 3 then decide (dIfmt d ≤ 1) && dMode d != 3
    else
      decide (dOfmt d ≤ 6) && (!dComp d || isInt (dOfmt d)) &&
        (!isInt (dOfmt d) || (dC0 d == 0 && dN d == 16 * dNtot d)) &&
        if op = 2 then true
        else pairingOk d && decide (1 ≤ dP d) && decide (dK0 d + dP d ≤ dKtot d) && (!dPre d || (dOpen d && dMode d != 3))

/-- Bytes of a row of a row operation's input (rule R122). -/
def rowBytes (d : List W32) : Nat := elBytes (dIfmt d) (16 * dKtot d)

/-- The shape of a row operation (rule R122). -/
def rowShapeOk (d : List W32) : Bool :=
  let op := dOp d
  decide (1 ≤ dM d) && decide (dM d ≤ 256) && decide (dIfmt d ≤ 6) && dKtot d != 0 &&
    (!isInt (dIfmt d) || dKtot d % 4 == 0) && decide (rowBytes d ≤ 8192) && decide (dM d * rowBytes d ≤ 65536) &&
    if opRow op then decide (dOfmt d ≤ 6) && (!dComp d || isInt (dOfmt d))
    else if op = 0x0D then decide (dIfmt d ≤ 1) && decide (dOfmt d ≤ 1)
    else if op = 0x0E then decide (dIfmt d ≤ 2) && dOfmt d == dIfmt d
    else true

/-- Whether a route has a station. -/
def hasSt (d : List W32) (st : Nat) : Bool := (dHops d).any fun h => h.st == st

/-- FUNC under the queue's attributes (rules R119, R161, R172, R177, R179). has: whether compatibility mode has a GFUNC. -/
def funcOk (compatHas : Nat → Bool) (at_ : Attrs) (d : List W32) : Bool :=
  if opFence (dOp d) then decide (dFunc d ≤ 1)
  else
    let g := dGfunc d
    let l := dLfunc d
    (if hasSt d 2 then
      g != 0 && (if 0xC ≤ g then (at_.tables.getD (g - 0xC) (0, 0)).1 != 0 else !at_.compat || compatHas g)
     else g == 0) &&
    (if hasSt d 3 then decide (1 ≤ l) && decide (l ≤ 4) && !(l == 1 && isInt (dOfmt d)) else l == 0)

/-- The Wing mask (rule R237). -/
def wingOk (mask : W32) (d : List W32) : Bool :=
  if mask = 0 then (dHops d).all (fun h => h.st == 5) else bit (dLarray d / 32) mask.toNat

/-- Everything that BAD_FORMAT covers and a descriptor alone shows. cls: the class that the round was submitted in. -/
def formatOk (compatHas : Nat → Bool) (at_ : Attrs) (cls : Nat) (mask : W32) (d : List W32) : Bool :=
  let op := dOp d
  opKnown op && dClass d == cls && fieldsOk d && wingOk mask d && funcOk compatHas at_ d &&
    (if opArray op then arrayShapeOk d
     else if opRow op || opLoanRow op then rowShapeOk d
     else if op = 0x0C then dAux d 2 < 64 * 8 else true) &&
    !(((dHops d).getLastD { st := 0, unit := 0, wsel := 0 }).st == 5 && !opLoan op &&
      (isInt (dOfmt d) || dComp d) && op != 3)

/-! ### Layout of tensors -/

/-- Bytes per token per pass of a table-side format (Table 2.4). -/
def tfBytes (tf : Nat) : Nat := if tf % 2 = 0 then 64 else 32
/-- Whether the exponent covers the whole row of a token. -/
def tfRow (tf : Nat) : Bool := decide (2 ≤ tf)
/-- The table-side format of an integer output format. -/
def tfOf (f : Nat) : Nat := f - 3
/-- Offset of the block of token m for pass p (rule R32). -/
def actOff (tf ktot m p : Nat) : Nat := (m * ktot + p) * tfBytes tf
/-- Offset of its exponent (rule R33). -/
def expOff (tf ktot m p : Nat) : Nat := if tfRow tf then m else m * ktot + p
/-- Offset of pass block (c, p) (rule R25). -/
def idxOff (b ktot c p : Nat) : Nat := (c * ktot + p) * 128 * b
/-- Offset and size of the scale of column n of block c in pass p (rule R29). -/
def scaleOff (smode ktot c n p : Nat) : Nat × Nat :=
  if smode = 3 then ((16 * c + n) * 2, 2)
  else ((c * ceilDiv ktot (2 ^ smode) + p / 2 ^ smode) * 16 + n, 1)
/-- The scale that bytes give (rules R27, R28). -/
def scaleVal (smode : Nat) (bs : List Byte) : XV := if smode = 3 then decodeF bf16 (natOf bs) else decodeE4M3 (natOf bs)

/-- The passes of a tile in their order (Table 4.4). -/
def dPasses (d : List W32) : List Nat :=
  let ps := (List.range (dP d)).map (dK0 d + ·)
  if dRevK d then ps.reverse else ps

/-- Whether a LEDGER hop applies STATS. -/
def hasStats (d : List W32) : Bool := hasSt d 3 && dLfunc d == 1

/-- Columns of a row of the tile's output tensor: NTOT × 16, or W, or 16 after STATS (rules R121, R122, R179). -/
def outWidth (d : List W32) : Nat :=
  if opArray (dOp d) then 16 * dNtot d
  else if opRow (dOp d) && hasStats d then 16 else 16 * dKtot d

/-- First output column and output columns that the tile writes; after STATS a row has 16 elements (rule R179). -/
def outCols (d : List W32) : Nat × Nat :=
  if opArray (dOp d) then (16 * dC0 d, if hasStats d then 16 else dN d) else (0, outWidth d)

/-! ### Extents (rules R87, R143, R148, R219, R317, R449) -/

/-- What a tile names of one folio: the hints it accepts and the ends of its ranges in bytes from the folio's start. -/
structure ShelfUse where
  folio : Nat
  hints : List Nat
  ends : List Nat
  deriving DecidableEq, Repr

/-- The A and B operands and the preload of a MATMUL. hint: the hint of a folio. -/
def matmulUses (hint : Nat → Nat) (d : List W32) : List ShelfUse :=
  let tf := dTfmt d
  let kt := dKtot d
  let mEnd := dM0 d + dM d
  let pLast := dK0 d + dP d - 1
  let cLast := dC0 d + dBlocks d - 1
  let b := planesOf (dIfmt d)
  let aEnd := if hint (dFolio d 0) = 2 then mEnd * spxRowSize tf kt else actOff tf kt (mEnd - 1) pLast + tfBytes tf
  let bEnd := if hint (dFolio d 1) = 1 then 4 * (cLast * kt + pLast) + 4 else idxOff b kt cLast pLast + 128 * b
  let sc := scaleOff (dSmode d) kt cLast 15 pLast
  let pre :=
    if dPre d then
      let rows := if dPreBcast d then 1 else dM d
      [{ folio := dFolio d (if dDsel d then 2 else 1), hints := [0, 1, 2],
         ends := [dDoff d + rows * (16 * dBlocks d) * (if dPreBf d then 2 else 4)] }]
    else []
  [{ folio := dFolio d 0, hints := [0, 2], ends := [dOff d 0 + aEnd, dAux d 0 + expOff tf kt (mEnd - 1) pLast + 1] },
   { folio := dFolio d 1, hints := [0, 1], ends := [dOff d 1 + bEnd, dAux d 1 + sc.1 + sc.2] }] ++ pre
where
  spxRowSize (tf kt : Nat) : Nat := 64 * ceilDiv kt 16 + kt * tfBytes tf

/-- Operand C as Returns or a Loan station writes it. -/
def outUse (d : List W32) : ShelfUse :=
  let mEnd := dM0 d + dM d
  let w := outWidth d
  let f := dOfmt d
  if isInt f then
    let tf := tfOf f
    let pr := ceilDiv w 64
    let el := if dComp d then mEnd * matmulUses.spxRowSize tf pr else actOff tf pr (mEnd - 1) (pr - 1) + tfBytes tf
    { folio := dFolio d 2, hints := [if dComp d then 2 else 0],
      ends := [dOff d 2 + el, dAux d 2 + expOff tf pr (mEnd - 1) (pr - 1) + 1] }
  else
    let c := outCols d
    { folio := dFolio d 2, hints := [0], ends := [dOff d 2 + elBytes f ((mEnd - 1) * w + c.1 + c.2)] }

/-- The input rows of a row operation. -/
def rowUse (k : Nat) (hints : List Nat) (d : List W32) : ShelfUse :=
  let mEnd := dM0 d + dM d
  let f := dIfmt d
  let exps := if k = 0 ∧ opRow (dOp d) ∧ isInt f then
    [dAux d 0 + if intRowExp f then mEnd else mEnd * (dKtot d / 4)] else []
  { folio := dFolio d k, hints := hints, ends := (dOff d k + mEnd * rowBytes d) :: exps }

/-- Every folio of this node that the tile names, with its extents. members: COUNT of an ALLGATHER's ring record. -/
def shelfUses (hint : Nat → Nat) (members : Nat) (d : List W32) : List ShelfUse :=
  let op := dOp d
  let out := if dRemoteC d then [] else [outUse d]
  let ring := dAux d 2 + 256
  if op = 1 then matmulUses hint d ++ out
  else if op = 2 then out
  else if op = 3 then
    let esz := if dIfmt d = 1 then 2 else 4
    [{ folio := dFolio d 0, hints := [0],
       ends := [dOff d 0 + ((dM0 d + dM d - 1) * 16 * dNtot d + 16 * dC0 d + dN d) * esz] }]
  else if opRow op then rowUse 0 [0] d :: out
  else if op = 8 ∨ op = 0x0A then [rowUse 0 [0, 1, 2] d]
  else if op = 9 ∨ op = 0x0B then [rowUse 2 [0, 1, 2] d]
  else if op = 0x0D then
    [rowUse 0 [0] d,
     { folio := dFolio d 2, hints := [0], ends := [dOff d 2 + elBytes (dOfmt d) ((dM0 d + dM d) * 16 * dKtot d), ring] }]
  else if op = 0x0E then
    [rowUse 0 [0] d, { folio := dFolio d 2, hints := [0], ends := [dOff d 2 + members * dM d * rowBytes d, ring] }]
  else []

/-- The folios that the tile names on this node. -/
def folioNames (d : List W32) : List Nat := (shelfUses (fun _ => 0) 0 d).map fun u => u.folio

end Sys2Proof.Machine
end

