-- ==== Sys2Proof/Machine/Flags.lean ====
section
/-! DEFINITION. The status words that the block computes: the arithmetic status word (Table 3.7), the tile event record
(Table 5.10), the completion record (Table 11.12) and the progress record (Table 10.5). -/

namespace Sys2Proof.Machine

/-- A field of a word: v in bits from lo upward. -/
def fld (lo v : Nat) : Nat := v * 2 ^ lo

/-- The arithmetic status word (Table 3.7). -/
def arithWord (t : Tile) : Nat :=
  fld 31 (b2n t.sat) + fld 30 (b2n t.replayed) + fld 29 (b2n t.nonfinite) + fld 28 (b2n (t.clip != 0)) + min t.maxabs 0xFFFFFF

/-- Whole cycles of a measure in thousandths of a cycle. -/
def wholeCycles (n : Nat) : Nat := n / 1000

/-- The OVER bit: the charge exceeds a non-zero BUDGET (rule R130). -/
def tileOver (t : Tile) : Bool := dBudget t.d != 0 && decide (dBudget t.d < wholeCycles t.charged)

/-- The words of a tile event record (Table 5.10). -/
def eventWords (t : Tile) : List Nat :=
  [t.stamp.toNat % 2 ^ 32, t.stamp.toNat / 2 ^ 32, fld 22 t.id.q + t.id.idx, t.id.rnd.toNat,
   fld 24 t.status.toNat + fld 22 t.cls.toNat + fld 21 (b2n (tileOver t)) + dLarray t.d, arithWord t,
   min t.clip 0xFFFFFFFF, min (wholeCycles t.charged) 0xFFFFFFFF]

/-- The 32 bytes of a tile event record. -/
def eventRecord (t : Tile) : List Byte := (eventWords t).flatMap (bytesOf 4)

/-- Whether EVENT_MODE 2 writes a record for the tile (rule R286). -/
def eventNotable (t : Tile) : Bool := t.status != 0 || tileOver t || decide (arithWord t / 2 ^ 28 ≠ 0)

/-- The words of a completion record (Table 11.12). -/
def completionWords (consumed : W32) (qstate : Nat) (r : CRec) : List Nat :=
  [consumed.toNat, r.completed.toNat, r.tag.toNat, fld 24 r.status.toNat + fld 21 qstate + r.failTile.toNat,
   r.lastFailRound.toNat, fld 24 r.lastFailStatus.toNat + r.failed.toNat, r.stamp.toNat % 2 ^ 32, r.stamp.toNat / 2 ^ 32]

def completionBytes (consumed : W32) (qstate : Nat) (r : CRec) : List Byte :=
  (completionWords consumed qstate r).flatMap (bytesOf 4)

/-- The bytes of a progress record (Table 10.5). -/
def progressBytes (tickNum state cls : Nat) (demoted late : Bool) (rnd charge : Nat) (user : List Byte) : List Byte :=
  ([tickNum % 2 ^ 32, fld 29 state + fld 27 cls + fld 26 (b2n demoted) + fld 25 (b2n late) + tickNum / 2 ^ 32, rnd,
    min charge 0xFFFFFFFF].flatMap (bytesOf 4)) ++ padTo 0 16 user

/-- A word of QUE_STATE (Table 11.21). -/
def queStateWord (q : Queue) (inForce : Bool) : Nat :=
  fld 29 q.state.toNat + fld 26 q.cause.toNat + fld 24 q.cls.toNat + fld 23 (b2n q.haltOnError) + fld 22 (b2n inForce) +
    fld 20 q.eventMode.toNat + fld 7 q.rounds.length + q.spill.length

end Sys2Proof.Machine
end

