-- ==== Sys2Proof/Machine/Log.lean ====
section
/-! DEFINITION. What every event may leave behind: function events with their MSI-X message (R287, R407), management events
(R417), Accession log records (R370 to R375), the memory map (Tables 8.2, 9.1) and reads and writes under check codes
(rules R199, R200, R365 to R368). -/

namespace Sys2Proof.Machine

/-! ### Function events -/

/-- Whether function f may not reach host memory (rule R407). -/
def hostBlocked (s : State) (f : Nat) : Bool :=
  !(getPcie s f).busMaster || (getPcie s f).d3hot || !(getPcie s 0).busMaster || (getPcie s 0).d3hot

/-- Whether function f exists on the link. -/
def fnPresent (s : State) (f : Nat) : Bool := f == 0 || (s.pcie.vfEnable && decide (f ≤ s.pcie.numVFs))

/-- Whether function f's BARs decode an access (rules R407, R408). -/
def barOpen (s : State) (f : Nat) : Bool := s.pcie.linkUp && fnPresent s f && (getPcie s f).memSpace

/-- Whether an access came through a BAR. -/
def throughBar : SramAcc → Bool
  | .read _ _ _ _ => true
  | .write _ _ _ _ => true
  | .regRead _ _ => true
  | .regWrite _ _ _ => true
  | _ => false

/-- Whether an access through the BAR0 of the physical function waits for a fill, so that its later ones wait behind it (rules R209,
R441). -/
def barHeld (s : State) : Bool := s.inv.waits.any throughBar

/-- A reset of the endpoint drops the host's accesses that wait (DESIGN CHOICE, notes/assumptions/105). -/
def dropHeld (s : State) : State := s.setInv { s.inv with waits := s.inv.waits.filter fun x => !throughBar x }

/-- An access waits, behind those that wait already. -/
def holdAcc (s : State) (x : SramAcc) : State := s.setInv { s.inv with waits := s.inv.waits ++ [x] }

/-- The default severity of an error in PCIe 6.0 (rule R408; PRESUMED where Table 17.2 names none, notes/assumptions/13). Errors of
the link's own layers are among them; no command brings one. -/
def aerClass : AerErr → AerClass
  | .receiver => .correctable
  | .badTlp => .correctable
  | .badDllp => .correctable
  | .replayTimer => .correctable
  | .replayRollover => .correctable
  | .poisoned => .nonFatal
  | .complTimeout => .nonFatal
  | .unexpected => .nonFatal
  | .unsupported => .nonFatal
  | .malformed => .fatal
  | .dllProtocol => .fatal
  | .flowControl => .fatal

/-- An access to a BAR of function f that decodes nothing is an Unsupported Request (rules R407, R408). -/
def closedBar (f : Nat) (s : State) : State :=
  if s.pcie.linkUp && fnPresent s f then
    emit (s.setPcie { s.pcie with unsupported := s.pcie.unsupported + 1 }) (.aer .unsupported f)
  else s

/-- A read of such a BAR; its completion says so. -/
def closedRead (f : Nat) (s : State) : State :=
  if s.pcie.linkUp && fnPresent s f then emit (closedBar f s) (.unsupported f) else s

/-- A write of the physical function to a register at an offset of BAR0, whose effect is given: it waits behind an access that
waits. -/
def barWrite (off : Nat) (v : W32) (f : State → State) (s : State) : State :=
  if !barOpen s 0 then closedBar 0 s else if barHeld s then holdAcc s (.regWrite off 4 v) else f s

/-- The MSI-X message of a function. -/
def sendMsix (s : State) (f : Nat) : State := emit s (.msix f (getPcie s f).msixAddr (getPcie s f).msixData)

/-- Fires the single MSI-X vector of function f, or sets its pending bit (rules R287, R407). -/
def fireMsix (s : State) (f : Nat) : State :=
  if hostBlocked s f || (getPcie s f).masked then modPcie s f fun p => { p with pending := true } else sendMsix s f

/-- The bits of DSK_FN_EVENT. -/
inductive FnBit where | cblocked | halted | mgmt
  deriving DecidableEq, Repr

def fnBit (x : FnReg) : FnBit → Bool
  | .cblocked => x.cblocked
  | .halted => x.halted
  | .mgmt => x.mgmt

def fnEnable (x : FnReg) : FnBit → Bool
  | .cblocked => x.cblockedEn
  | .halted => x.haltedEn
  | .mgmt => x.mgmtEn

def fnSet (x : FnReg) (v : Bool) : FnBit → FnReg
  | .cblocked => { x with cblocked := v }
  | .halted => { x with halted := v }
  | .mgmt => { x with mgmt := v }

/-- Sets a bit of DSK_FN_EVENT; a change from 0 to 1 under its enable fires the vector (rule R287). -/
def raiseFn (s : State) (f : Nat) (b : FnBit) : State :=
  let x := getFn s f
  let t := setFn s f (fnSet x true b)
  if !fnBit x b && fnEnable x b then fireMsix t f else t

/-- Raises a management event (rule R417). -/
def mgmtEvent (s : State) (code : Nat) (data : Nat) : State :=
  let m := s.mgt
  let s :=
    if m.events.length < 64 then
      s.setMgt { m with
                 events := m.events ++ [{ code := BitVec.ofNat 8 code, data := BitVec.ofNat 32 data, stamp := s.clk.now }] }
    else s.setMgt { m with lost := satAdd m.lost 1 }
  raiseFn s 0 .mgmt

/-! ### The Accession log -/

/-- A source of the log: class and unit (Table 15.4). -/
def logSrc (cls unit : Nat) : Nat := 2048 * cls + unit

/-- Queues one record of a source (rules R372, R373, R375). -/
def logPush (s : State) (src event : Nat) (data : List Nat) : State :=
  let r := s.rel
  let seq := tabGet 0 r.logSeq src
  let rec_ : LogRec :=
    { stamp := s.clk.now, cls := BitVec.ofNat 5 (src / 2048), unit := BitVec.ofNat 11 (src % 2048),
      event := BitVec.ofNat 16 event, seq := seq, data := (padTo 0 4 data).map (BitVec.ofNat 32) }
  let r := { r with logSeq := tabSet 0 r.logSeq src (seq + 1) }
  let q := tabGet [] r.logQ src
  if s.rst.trained then
    if q.length < 16 then s.setRel { r with logQ := tabSet [] r.logQ src (q ++ [rec_]) }
    else s.setRel { r with logDrops := satAdd r.logDrops 1 }
  else if r.early.length < 256 then s.setRel { r with early := r.early ++ [rec_] }
  else s.setRel { r with logDrops := satAdd r.logDrops 1 }

/-- The 32 bytes of a record (Table 15.3). -/
def logBytes (r : LogRec) : List Byte :=
  ([r.stamp.toNat % 2 ^ 32, r.stamp.toNat / 2 ^ 32, fld 27 r.cls.toNat + fld 16 r.unit.toNat + r.event.toNat, r.seq.toNat] ++
    r.data.map BitVec.toNat).flatMap (bytesOf 4)

/-- Base of the log ring (rule R371). -/
def logBase : Nat := 0x07FF1000000

/-! ### The memory map -/

/-- What stands at a device address (Table 9.1). view: 0 plain, 1 SET, 2 CLEAR. -/
inductive Region where
  | nearTier | reserve | depos | sram (view : Nat) | control | hole
  deriving DecidableEq, Repr

/-- D in bytes (rule R216). -/
def deposBytes (s : State) : Nat := s.tier.depGib * 2 ^ 30

def regionOf (s : State) (a : Nat) : Region :=
  if a < 0x07FF0000000 then .nearTier
  else if a < 0x08000000000 then .reserve
  else if 0x10000000000 ≤ a ∧ a < 0x10000000000 + deposBytes s then .depos
  else if 0x40000000000 ≤ a ∧ a < 0x70000000000 then .sram (a / 0x10000000000 - 4)
  else if 0x70000000000 ≤ a ∧ a < 0x80000000000 then .control
  else .hole

/-- A bank of on-chip SRAM that an offset in a view reaches (Table 8.2): bank k of Wing w as rule R211 numbers it, or control
memory; with the offset in it. -/
inductive SramAt where
  | bank (w k off : Nat)
  | ctrl (off : Nat)
  | none
  deriving DecidableEq, Repr

def sramAt (off : Nat) : SramAt :=
  if off < 0x40000000 then
    let w := off / 0x2000000
    let r := off % 0x2000000
    if r < 33 * 0x40000 then .bank w (r / 0x40000) (r % 0x40000)
    else if 0x1000000 ≤ r ∧ r < 0x1800000 then .bank w (33 + (r - 0x1000000) / 0x200000) ((r - 0x1000000) % 0x200000)
    else .none
  else if off < 0x40200000 then .ctrl (off - 0x40000000)
  else .none

/-- The plain-view address of an offset in the Carrel bank of physical array a of Wing w. -/
def carrelAddr (w a off : Nat) : Nat := 0x40000000000 + w * 0x2000000 + a * 0x40000 + off

/-- Where the model numbers the words of the Accumulator stores and of the Vault, which have no device address (rule R189;
DESIGN CHOICE, notes/assumptions/88): beyond the device address space. -/
def accBase : Nat := 0x100000000000
def vaultBase : Nat := 0x200000000000
/-- A byte of slot k of physical array a of Wing w: the main part of 4 KiB, then the extension of 2 KiB (rule R84). -/
def accAddr (w a k off : Nat) : Nat := accBase + (8 * (33 * w + a) + k) * 6144 + off

/-- The plain-view address of an SRAM address in any view. -/
def plainAddr (a : Nat) : Nat := 0x40000000000 + a % 0x10000000000

/-- Bytes of a word that one check code covers (rules R199, Table 15.1). -/
def wordSize (a : Nat) : Nat := if 0x40000000000 ≤ a then 8 else 32

/-- The log source and the MEM code of an address (Tables 15.4, 15.6). An Accumulator store has no MEM code: 0 stands there
(DESIGN CHOICE, notes/assumptions/88). -/
def memSource (s : State) (a : Nat) : Nat × Nat :=
  if vaultBase ≤ a then (logSrc 2 1185, 3)
  else if accBase ≤ a then (logSrc 1 ((a - accBase) / 49152), 0)
  else match regionOf s a with
  | .depos => (logSrc 4 (a / 256 % 32), 5)
  | .sram _ =>
    match sramAt (a % 0x10000000000) with
    | .bank w k _ => (logSrc 2 (37 * w + k), if k < 33 then 0 else 1)
    | _ => (logSrc 2 1184, 2)
  | _ => (logSrc 3 (32 * (a / 256 % 8) + a / 2048 % 32), if 0x07FF0000000 ≤ a ∧ a < 0x07FF1000000 then 6 else 4)

/-! ### Errors -/

/-- Who reads (READER of Table 15.6). -/
inductive Reader where | station | window | desk | debug | engine | inventory | scrub | remote
  deriving DecidableEq, Repr

def readerCode : Reader → Nat
  | .station => 0 | .window => 1 | .desk => 2 | .debug => 3 | .engine => 4 | .inventory => 5 | .scrub => 6 | .remote => 7

/-- W4 to W7 of an error record (Table 15.6). -/
def errData (a mem : Nat) (rd : Reader) (t : Option TileId) : List Nat :=
  let (w6, w7) := match t with
    | some t => (fld 22 t.q + t.idx, t.rnd.toNat)
    | none => (fld 22 0x3FF + 0xFFFFF, 0)
  [a % 2 ^ 32, fld 28 (readerCode rd) + fld 24 mem + a % 2 ^ 44 / 2 ^ 32, w6, w7]

/-- The counters of the bank that an error meets (Tables 8.5 to 8.7, 8.13). -/
def bankError (s : State) (a : Nat) (ue : Bool) : State :=
  match regionOf s a with
  | .sram _ =>
    match sramAt (a % 0x10000000000) with
    | .bank w k _ =>
      modBank s w k fun b =>
        if ue then { b with ue := satAdd b.ue 1, ueSeen := true } else { b with ce := satAdd b.ce 1, ceSeen := true }
    | .ctrl _ =>
      s.setInv (if ue then { s.inv with cmUe := satAdd s.inv.cmUe 1 } else { s.inv with cmCe := satAdd s.inv.cmCe 1 })
    | .none => s
  | _ => s

/-- An uncorrectable error: its counters, its record and its management event (rules R200, R370, Table 17.4). -/
def reportUe (s : State) (a : Nat) (rd : Reader) (t : Option TileId) : State :=
  let src := memSource s a
  let s := bankError s a true
  let s := s.setRel { s.rel with errUe := satAdd s.rel.errUe 1, totalUe := s.rel.totalUe + 1 }
  mgmtEvent (logPush s src.1 0x0011 (errData a src.2 rd t)) 0x05 (a / 4096)

/-- A corrected error: its counters, and a record for the first by its source in the tick (rule R370). -/
def reportCe (s : State) (a : Nat) (rd : Reader) (t : Option TileId) : State :=
  let src := memSource s a
  let s := bankError s a false
  let n := tabGet 0 s.rel.ceTick src.1
  let s := s.setRel { s.rel with errCe := satAdd s.rel.errCe 1, totalCe := s.rel.totalCe + 1,
                                 ceTick := tabSet 0 s.rel.ceTick src.1 (n + 1) }
  if n = 0 then
    logPush s src.1 0x0010 ((errData a src.2 rd t).take 3 ++ [tabGet 0 s.rel.cePrev src.1])
  else s

/-- Damage that a step meets, added to what stands already (notes/assumptions/8). -/
def addHits (s : State) (hits : List EccHit) : State :=
  forEach hits s fun s h =>
    let a := h.addr / wordSize h.addr * wordSize h.addr
    if h.uncorrectable then
      s.setEcc { ue := if s.ecc.ue.contains a then s.ecc.ue else a :: s.ecc.ue, ce := s.ecc.ce.filter (· != a) }
    else if s.ecc.ue.contains a || s.ecc.ce.contains a then s
    else s.setEcc { s.ecc with ce := a :: s.ecc.ce }

/-- Whether the word at x meets the range of n bytes from a; a range of no bytes meets none. -/
def meets (a n x : Nat) : Bool := decide (0 < n) && decide (x < a + n) && decide (a < x + wordSize x)

/-- The words of a range that hold an uncorrectable error, and those that hold a single-bit error. -/
def ueIn (s : State) (a n : Nat) : List Nat := s.ecc.ue.filter (meets a n)
def ceIn (s : State) (a n : Nat) : List Nat := s.ecc.ce.filter (meets a n)

/-- Words in rising order. -/
def inOrder (l : List Nat) : List Nat := l.foldl (fun t a => t.takeWhile (· ≤ a) ++ a :: t.dropWhile (· ≤ a)) []

/-- The errors that a read of a range meets: every correction and every uncorrectable word is counted and reported
(rules R199, R368, R370). Answers whether the read met an uncorrectable word. -/
def readErrors (s : State) (a n : Nat) (rd : Reader) (t : Option TileId) : Bool × State :=
  let s := forEach (inOrder (ceIn s a n)) s fun s x => reportCe s x rd t
  let bad := inOrder (ueIn s a n)
  (!bad.isEmpty, forEach bad s fun s x => reportUe s x rd t)

/-- Whether a store of n bytes from a writes the word at x whole. -/
def writesWhole (a n x : Nat) : Bool := decide (a ≤ x) && decide (x + wordSize x ≤ a + n)

/-- The uncorrectable words that a store of n bytes from a covers partly, which it has to read first. -/
def partBad (s : State) (a n : Nat) : List Nat := inOrder ((ueIn s a n).filter fun x => !writesWhole a n x)

/-- A store under check codes: words written whole are good again; the part of a store that covers an uncorrectable word
partly is discarded, and the answer is false (rules R200, R368). -/
def storeBytes (s : State) (a : Nat) (bs : List Byte) : Bool × State :=
  let n := bs.length
  let whole := writesWhole a n
  let bad := partBad s a n
  let t := writeMem s a bs
  let t := forEach bad t fun t x =>
    let lo := max a x
    let hi := min (a + n) (x + wordSize x)
    writeMem t lo (readMem s lo (hi - lo))
  (bad.isEmpty, t.setEcc { ue := t.ecc.ue.filter fun x => !(meets a n x && whole x),
                           ce := t.ecc.ce.filter fun x => !meets a n x })

/-- The errors that a store of n bytes from a meets in the words of which it writes a part: the controller reads such a word,
counts what it corrects, and reports what it cannot (rules R200, R368, R370). -/
def storeErrors (s : State) (a n : Nat) (rd : Reader) (t : Option TileId) : State :=
  let ce := inOrder ((ceIn s a n).filter fun x => !writesWhole a n x)
  let s := forEach ce s fun s x => reportCe s x rd t
  forEach (partBad s a n) s fun s x => reportUe s x rd t

/-- A store of bytes in the Vault: words written whole are good again. -/
def vaultPut (s : State) (off : Nat) (bs : List Byte) : State :=
  let a := vaultBase + off
  let keep := fun (x : Nat) => !(meets a bs.length x && writesWhole a bs.length x)
  (s.setVault (memPut 0 s.vault off bs)).setEcc { ue := s.ecc.ue.filter keep, ce := s.ecc.ce.filter fun x => !meets a bs.length x }

/-- Whether a range of the Vault holds an uncorrectable word. -/
def vaultBad (s : State) (off n : Nat) : Bool := !(ueIn s (vaultBase + off) n).isEmpty

/-- Writes a record into the ring in its place (rule R371). -/
def logWrite (s : State) (r : LogRec) : State :=
  let s := (storeBytes s (logBase + 32 * (s.rel.logHead.toNat % 2 ^ 21)) (logBytes r)).2
  s.setRel { s.rel with logHead := s.rel.logHead + 1 }

end Sys2Proof.Machine
end

