-- ==== Sys2Proof/Machine/Slips.lean ====
section
/-! DEFINITION. Slips, flits, credits and flows of the Brusol fabric (rules R295, R296, R298 to R300, R306, R307, R309 to R311):
what the Loan stations, the router and the ports share. -/

namespace Sys2Proof.Machine

/-! ### Slips (Table 12.2) -/

/-- KIND codes. -/
def kWrite : Nat := 0
def kRead : Nat := 1
def kReadData : Nat := 2
def kAdd : Nat := 3
def kRts : Nat := 4
def kCts : Nat := 5
def kAck : Nat := 6
def kMgmt : Nat := 7

/-- The class of a slip (rule R299). -/
def slipClass (s : Slip) : Nat := s.vc.toNat / 2

/-- The 32 header bytes and the payload. -/
def slipBytes (s : Slip) : List Byte :=
  ([fld 16 s.dest.toNat + s.src.toNat, fld 29 s.vc.toNat + fld 24 s.func.toNat + fld 20 s.kind.toNat + s.len.toNat,
    fld 16 s.seq.toNat + fld 8 s.rank.toNat + s.status.toNat, s.tag.toNat, s.folio.toNat, s.offset.toNat, s.countLen.toNat,
    s.stamp.toNat].flatMap (bytesOf 4)) ++ s.payload

/-- The slip that bytes spell; its payload is what LEN names. -/
def slipOfBytes (bs : List Byte) : Slip :=
  let ws := wordsOf (padTo 0 32 bs)
  let h := fun k => wordAt ws k
  { dest := BitVec.ofNat 16 (bits 31 16 (h 0)), src := BitVec.ofNat 16 (h 0), vc := BitVec.ofNat 3 (bits 31 29 (h 1)),
    func := BitVec.ofNat 5 (bits 28 24 (h 1)), kind := BitVec.ofNat 4 (bits 23 20 (h 1)), len := BitVec.ofNat 13 (h 1),
    seq := BitVec.ofNat 16 (bits 31 16 (h 2)), rank := BitVec.ofNat 8 (bits 15 8 (h 2)), status := BitVec.ofNat 8 (h 2),
    tag := BitVec.ofNat 32 (h 3), folio := BitVec.ofNat 20 (h 4), offset := BitVec.ofNat 25 (h 5),
    countLen := BitVec.ofNat 32 (h 6), stamp := BitVec.ofNat 32 (h 7),
    payload := padTo 0 (bits 12 0 (h 1)) (bs.drop 32) }

/-- Flits of a slip of so many payload bytes. -/
def slipFlits (len : Nat) : Nat := ceilDiv (32 + len) 248

/-! ### Flits (Table 12.1) -/

/-- One bit of CRC-32, most significant bit first (notes/assumptions/15). -/
def crcBit (c : W32) (b : Bool) : W32 := if (c.msb != b) then (c <<< 1) ^^^ 0x04C11DB7#32 else c <<< 1

/-- CRC-32 of bytes (rule R295). -/
def crc32 (bs : List Byte) : W32 :=
  ~~~ bs.foldl (fun c b => [7, 6, 5, 4, 3, 2, 1, 0].foldl (fun c i => crcBit c (b.getLsbD i)) c) 0xFFFFFFFF#32

/-- A flit. -/
def flitBytes (seq ack cvc cred : Nat) (data : List Byte) : List Byte :=
  let body := bytesOf 4 (fld 20 (seq % 4096) + fld 8 (ack % 4096) + fld 5 cvc + cred) ++ padTo 0 248 data
  body ++ bytesOf 4 (crc32 body).toNat

/-! ### Credits (rule R300, Table 12.3) -/

/-- A C0 reservation is in force. -/
def reservedAny (s : State) : Bool :=
  s.desk.queues.any fun x => x.2.resv.isSome

def privLimit (res : Bool) (vc : Nat) : Nat := if res && decide (vc ≤ 1) then 128 else 32
def sharedLimit (res : Bool) : Nat := if res then 576 else 768
def sumNat (l : List Nat) : Nat := l.foldl (· + ·) 0
/-- Free credits of a port's shared pool. -/
def sharedFree (res : Bool) (p : Port) : Nat := sharedLimit res - sumNat p.usedShared

/-- Free credits of a VC: private ones, and those that it may take of the shared pool. -/
def privFree (res : Bool) (p : Port) (vc : Nat) : Nat := privLimit res vc - p.usedPriv.getD vc 0
def poolFree (res : Bool) (p : Port) (vc : Nat) : Nat := if res && decide (vc ≤ 1) then 0 else sharedFree res p

def addAt (l : List Nat) (i n : Nat) : List Nat := l.set i (l.getD i 0 + n)

/-- Credits of a VC come back: shared ones first. -/
def creditBack (p : Port) (vc n : Nat) : Port :=
  let k := min n (p.usedShared.getD vc 0)
  { p with usedShared := p.usedShared.set vc (p.usedShared.getD vc 0 - k),
           usedPriv := p.usedPriv.set vc (p.usedPriv.getD vc 0 - (n - k)) }

/-- Of the VCs whose credits may be returned, the one for which most are owed to the peer, and how many fit in one CRED field. -/
def owedNext (p : Port) (may : Nat → Bool) : Nat × Nat :=
  let owed := fun i => if may i then p.owed.getD i 0 else 0
  let best := (List.range 8).foldl (fun b i => if owed b < owed i then i else b) 0
  (best, min 31 (owed best))

/-! ### Ports -/

/-- Whether perturbation holds back the credits of a port at this time (Table 15.9, Table 15.21). -/
def starved (s : State) (p vc : Nat) : Bool :=
  let w := s.rel.pert.credReg.toNat
  let period := bits 7 0 w
  s.rel.pert.cred && period != 0 && bit (23 + p) w && bit (15 + vc) w &&
    decide (s.clk.now.toNat / 1000 % period < bits 14 8 w)

/-- Sends one flit on a port, keeps it for replay and returns owed credits in it. -/
def sendFlit (s : State) (p : Nat) (data : List Byte) : State :=
  let x := getPort s p
  let (cvc, cred) := owedNext x fun vc => !starved s p vc
  let f := flitBytes x.txSeq.toNat x.rxSeq.toNat cvc cred data
  let kept := x.sent ++ [(x.txSeq, f)]
  let s := setPort s p { x with txSeq := x.txSeq + 1, sent := kept.drop (kept.length - 512),
                                owed := x.owed.set cvc (x.owed.getD cvc 0 - cred) }
  emit s (.flit p f)

/-! ### Link control messages (rules R295, R296, R301, R323)

A link control message fills a flit as a slip does. The manual gives no layout for one; the model's has the KIND 0xF, which no
slip has, in a slip header of its own, with the message's type in TAG (DESIGN CHOICE, notes/assumptions/11). -/

/-- Types of link control messages. -/
def ctlNak : Nat := 0
def ctlHello : Nat := 1
def ctlTime : Nat := 2

/-- The data of a link control message of a type. -/
def ctlData (type : Nat) (body : List Byte) : List Byte :=
  [0, fld 20 0xF + body.length, 0, type, 0, 0, 0, 0].flatMap (bytesOf 4) ++ body

/-- The type and the body of a link control message; none for data of a slip. -/
def ctlOf (data : List Byte) : Option (Nat × List Byte) :=
  let h := natOf ((data.drop 4).take 4)
  if bits 23 20 h = 0xF then some (natOf ((data.drop 12).take 4), (data.drop 32).take (bits 12 0 h)) else none

/-- Sends a link control message. It takes no credit: it stands in no virtual channel. -/
def sendCtl (s : State) (p type : Nat) (body : List Byte) : State := sendFlit s p (ctlData type body)

/-- The body of a hello. -/
def helloBody (h : Hello) : List Byte :=
  bytesOf 8 h.serial.toNat ++ bytesOf 2 h.node.toNat ++ [BitVec.ofNat 8 (2 * b2n h.candidate + b2n h.assigned), h.port.setWidth 8] ++
    bytesOf 8 h.time.toNat

/-! ### Sending slips on a port -/

/-- Flits that a queue's C0 slips may take of a port in one tick: RF/256 of what its lanes move (rules R294, R300). -/
def c0Limit (s : State) (rf : Nat) (width : Nat) : Nat :=
  let lanes := if width = 3 then 4 else width
  rf * lanes * s.tick.period.toNat * 1953125 / 2560000

/-- Whether the queue of a C0 slip has its share left for it in this tick (rule R300). -/
def c0Room (s : State) (x : Port) (e : TxSlip) : Bool :=
  match e.q with
  | none => true
  | some q =>
    match (getQ s q).resv with
    | none => true
    | some r => 2 ≤ e.vc.toNat || decide (tabGet 0 x.c0Sent q + e.flits.length ≤ c0Limit s r.rf x.width.toNat)

/-- Whether a slip has the credits for all its flits. The flits of one slip follow one another on the link, since a flit does not
name its slip, so a slip begins only with them: none that has begun can hold a response back (rule R299; DEDUCED,
notes/assumptions/97). -/
def hasCredits (s : State) (x : Port) (e : TxSlip) : Bool :=
  decide (e.flits.length ≤ privFree (reservedAny s) x e.vc.toNat + poolFree (reservedAny s) x e.vc.toNat)

/-- The credits of a slip are used, private ones first, and the flits of a C0 slip are counted. -/
def useCredits (s : State) (x : Port) (e : TxSlip) : Port :=
  let vc := e.vc.toNat
  let n := e.flits.length
  let k := min n (privFree (reservedAny s) x vc)
  let x := { x with usedPriv := addAt x.usedPriv vc k, usedShared := addAt x.usedShared vc (n - k) }
  match e.q with
  | none => x
  | some q => if 2 ≤ vc then x else { x with c0Sent := tabSet 0 x.c0Sent q (tabGet 0 x.c0Sent q + n) }

/-- The slip that goes out next: the oldest of a VC, beside those that wait for their share of the tick, that has its credits. -/
def nextSlip (s : State) (x : Port) : List (BitVec 3) → List TxSlip → Option TxSlip
  | _, [] => none
  | held, e :: es =>
    if !c0Room s x e then nextSlip s x held es
    else if !held.contains e.vc && hasCredits s x e then some e
    else nextSlip s x (e.vc :: held) es

/-- Sends the slips of a port that may go; fuel: the slips that wait. -/
def pumpSlips (s : State) (p : Nat) : Nat → State
  | 0 => s
  | fuel + 1 =>
    let x := getPort s p
    if x.state ≠ 2 then s
    else
      match nextSlip s x [] x.txq with
      | none => s
      | some e =>
        let s := setPort s p { useCredits s x e with txq := x.txq.erase e }
        pumpSlips (forEach e.flits s fun s f => sendFlit s p f) p fuel

/-- Sends what a port may send. -/
def pumpPort (s : State) (p : Nat) : State := pumpSlips s p (getPort s p).txq.length

/-- Hands a slip to a port, or to loopback; its flits go out as credits allow. q: the queue of the tile or round that sends it. -/
def handSlip (s : State) (port : Option Nat) (sl : Slip) (q : Option Nat) : State :=
  let s := emit s (.slip port sl)
  match port with
  | none => s
  | some p =>
    let bs := slipBytes sl
    let e : TxSlip := { vc := sl.vc, q := q, flits := chunksOf 248 bs.length bs }
    pumpPort (modPort s p fun x => { x with txq := x.txq ++ [e] }) p

/-! ### Routes (rules R306, R307) -/

def routeEnt (s : State) (node : Nat) : Nat := (tabGet 0x0000FFFF s.fab.routes node).toNat
def routeValid (s : State) (node : Nat) : Bool := bit 31 (routeEnt s node)
/-- The alternative ports of an entry by alternative number. -/
def routeAlts (ent : Nat) : List Nat := [bits 3 0 ent, bits 7 4 ent, bits 11 8 ent, bits 15 12 ent]
def portUp (s : State) (p : Nat) : Bool := decide (p ≤ 8) && (getPort s p).state == 2

/-- The first alternative that is UP. -/
def firstUp (s : State) (alts : List Nat) : Option Nat := alts.findIdx? (portUp s)

/-- A fresh choice of C1 to C3: the first UP alternative that is not CONGESTED, else the UP one with most free shared credits. -/
def freshAlt (s : State) (alts : List Nat) : Option Nat :=
  match alts.findIdx? fun p => portUp s p && !(getPort s p).congested with
  | some i => some i
  | none =>
    let free := fun p => sharedFree (reservedAny s) (getPort s p)
    (alts.zipIdx).foldl (fun (b : Option Nat) x =>
      if portUp s x.1 then
        match b with
        | some j => if free (alts.getD j 9) < free x.1 then some x.2 else b
        | none => some x.2
      else b) none

/-- Whether a slip of C1 to C3 keeps its flow's current alternative, whose port is UP; busy: the flow has a slip outstanding. -/
def keepsAlt (s : State) (node cur : Nat) (busy : Bool) : Bool := busy && portUp s ((routeAlts (routeEnt s node)).getD cur 9)

/-- The alternative for a slip: cur is the flow's current one. -/
def pickAlt (s : State) (cls node cur : Nat) (busy : Bool) : Option Nat :=
  let alts := routeAlts (routeEnt s node)
  if cls = 0 then firstUp s alts else if keepsAlt s node cur busy then some cur else freshAlt s alts

/-- An adaptive choice counts at the port that it names (rule R18). -/
def countChoice (s : State) (cls node cur : Nat) (busy : Bool) (p : Nat) : State :=
  if cls = 0 || keepsAlt s node cur busy then s else modPort s p fun x => { x with choices := satAdd x.choices 1 }

/-! ### Sending (rules R307, R309 to R311) -/

def selfNode (s : State) : Nat := s.fab.nodeId.toNat
def flowKey (node cls : Nat) : Nat := 4 * node + cls
def getTx (s : State) (node cls : Nat) : TxFlow := tabGet TxFlow.reset s.fab.tx (flowKey node cls)
def setTx (s : State) (node cls : Nat) (x : TxFlow) : State :=
  s.setFab { s.fab with tx := tabSet TxFlow.reset s.fab.tx (flowKey node cls) x }
def getRx (s : State) (node cls : Nat) : RxFlow := tabGet RxFlow.reset s.fab.rx (flowKey node cls)
def setRx (s : State) (node cls : Nat) (x : RxFlow) : State :=
  s.setFab { s.fab with rx := tabSet RxFlow.reset s.fab.rx (flowKey node cls) x }

/-- Routes a slip that this node sends: through loopback to itself, else by its entry for DEST; a slip with no UP alternative is
dropped and counted (rule R309), and a node that has not set its clock since its last L0 episode sends none (rule R323): a request
goes out with a later resend. alt: the flow's current alternative, busy: whether it has a slip outstanding. -/
def routeOut (s : State) (sl : Slip) (alt : Nat) (busy : Bool) (q : Option Nat) : State × Nat :=
  if sl.dest = s.fab.nodeId then (handSlip s none sl q, alt)
  else
    match pickAlt s (slipClass sl) sl.dest.toNat alt busy with
    | none => (s.setFab { s.fab with noRoute := satAdd s.fab.noRoute 1 }, alt)
    | some i =>
      let p := (routeAlts (routeEnt s sl.dest.toNat)).getD i 9
      if !s.fab.joined then (s, alt)
      else (handSlip (countChoice s (slipClass sl) sl.dest.toNat alt busy p) (some p) sl q, i)

/-- Sends a request slip: it takes the flow's next SEQ and is kept until its response arrives (rules R310, R311). -/
def sendRequest (s : State) (sl : Slip) (tile : Option TileId) (wing q : Nat) : State :=
  let node := sl.dest.toNat
  let cls := slipClass sl
  let fl := getTx s node cls
  let sl := { sl with seq := fl.seq, stamp := s.clk.now.setWidth 32 }
  let (s, alt) := routeOut s sl fl.alt (!fl.open_.isEmpty) (some q)
  let x : SentSlip := { slip := sl, tile := tile, wing := wing, q := q, ended := false, late := false }
  setTx s node cls { seq := fl.seq + 1, open_ := fl.open_ ++ [x], alt := alt }

/-- Sends a response slip. -/
def sendResponse (s : State) (sl : Slip) : State :=
  let fl := getTx s sl.dest.toNat (slipClass sl)
  (routeOut s { sl with stamp := s.clk.now.setWidth 32 } fl.alt (!fl.open_.isEmpty) none).1

/-- A slip from this node with nothing set but what every slip carries. -/
def newSlip (s : State) (dest cls func kind : Nat) : Slip :=
  { dest := BitVec.ofNat 16 dest, src := s.fab.nodeId,
    vc := BitVec.ofNat 3 (2 * cls + b2n (kind == kReadData || kind == kCts || kind == kAck)), func := BitVec.ofNat 5 func,
    kind := BitVec.ofNat 4 kind, len := 0, seq := 0, rank := 0, status := 0, tag := 0, folio := 0, offset := 0, countLen := 0,
    stamp := 0, payload := [] }

/-- The response to a request slip, with a status. -/
def answerTo (s : State) (sl : Slip) (kind : Nat) (status : Nat) : Slip :=
  { newSlip s sl.src.toNat (slipClass sl) sl.func.toNat kind with
    seq := sl.seq, status := BitVec.ofNat 8 status, tag := sl.tag, folio := sl.folio, offset := sl.offset, rank := sl.rank }

/-! ### MGMT slips (rules R299, R303) -/

/-- The payload of a MGMT slip: a number for what it does, and its fields. The manual gives no layout (DESIGN CHOICE,
notes/assumptions/11). -/
def mgmtBytes : MgmtOp → List Byte
  | .assign node => bytesOf 1 0 ++ bytesOf 2 node.toNat
  | .loadRoutes es => bytesOf 1 1 ++ es.flatMap fun e => bytesOf 2 e.1.toNat ++ bytesOf 4 e.2.toNat
  | .setTime epoch n0 period => bytesOf 1 2 ++ bytesOf 8 epoch.toNat ++ bytesOf 6 n0.toNat ++ bytesOf 4 period
  | .setRouted => bytesOf 1 3
  | .explore mgr entry path back => bytesOf 1 4 ++ bytesOf 8 mgr.toNat ++ bytesOf 1 entry.toNat ++ portBytes path ++ portBytes back
  | .identity path hello ports => bytesOf 1 5 ++ portBytes path ++ helloBody hello ++ portBytes ports
  | .via path op => bytesOf 1 6 ++ portBytes path ++ mgmtBytes op
where
  portBytes (l : List (BitVec 4)) : List Byte := BitVec.ofNat 8 l.length :: l.map fun p => p.setWidth 8

/-- Sends a MGMT slip on a port, in class C3. It belongs to no flow: a node without an ID has none. -/
def sendMgmt (s : State) (p node : Nat) (op : MgmtOp) : State :=
  let bs := mgmtBytes op
  let s := emit s (.mgmt (BitVec.ofNat 16 node) op)
  forEach (chunksOf 4096 bs.length bs) s fun s c =>
    handSlip s (some p) { newSlip s node 3 0 kMgmt with len := BitVec.ofNat 13 c.length, stamp := s.clk.now.setWidth 32, payload := c } none

/-! ### Receiving (rules R310, R311) -/

/-- A request slip at its destination: applied in sequence and answered; one that was applied before has its response repeated;
one that comes early is discarded. act: the effect and the response. -/
def receiveRequest (s : State) (sl : Slip) (act : State → State × Slip) : State :=
  let node := sl.src.toNat
  let cls := slipClass sl
  let fl := getRx s node cls
  if sl.seq = fl.seq then
    let (s, r) := act s
    let s := setRx s node cls { seq := fl.seq + 1, answers := ((sl.seq, r) :: fl.answers).take 32768 }
    sendResponse s r
  else
    match fl.answers.find? fun a => a.1 == sl.seq with
    | some a => if (fl.seq - sl.seq).toNat ≤ 32768 then sendResponse s a.2 else s
    | none => s

/-- The source releases the request slip that a response answers (rule R311), and learns which tile sent it. none: no
request of the flow waits for this response. -/
def takeAnswer (s : State) (sl : Slip) : Option SentSlip × State :=
  let node := sl.src.toNat
  let cls := slipClass sl
  let fl := getTx s node cls
  match fl.open_.find? fun x => x.slip.seq == sl.seq with
  | none => (none, s)
  | some x => (some x, setTx s node cls { fl with open_ := fl.open_.filter fun y => y.slip.seq != sl.seq })

end Sys2Proof.Machine
end

