-- ==== Sys2Proof/Machine/Folios.lean ====
section
/-! DEFINITION. Folios (chapter 9): places and extents, reads and writes through shelfmarks, allocation, limits, heat and the
Curator's moves. -/

namespace Sys2Proof.Machine

/-! ### Places (rules R217, R218) -/

/-- Units of 64 KiB of a size class. -/
def classUnits (size : Nat) : Nat := if size = 0 then 1 else if size = 1 then 32 else 512
def folioUnits (f : Folio) : Nat := classUnits f.size.toNat
def folioSize (f : Folio) : Nat := 65536 * folioUnits f
def folioBase (f : Folio) : Nat := 65536 * f.base.toNat
def entryAddr (fid : Nat) : Nat := 0x07FF0000000 + 16 * fid

/-- The words of a Shelfmark entry (Table 9.2). -/
def entryWords (f : Folio) : List Nat :=
  [fld 31 (b2n f.valid) + fld 30 (b2n f.pinned) + fld 29 (b2n f.pinTier) + fld 28 (b2n f.c0Recent) + fld 26 f.state.toNat +
     fld 24 f.size.toNat + fld 22 f.hint.toNat + fld 17 f.tenant.toNat + fld 16 (b2n f.tier),
   f.base.toNat, f.dest.toNat, fld 16 f.heat.toNat + f.count.toNat]

/-- The entry that four words spell. -/
def entryOf (w : List W32) : Folio :=
  let h := wordAt w 0
  { valid := bit 31 h, pinned := bit 30 h, pinTier := bit 29 h, c0Recent := bit 28 h, state := BitVec.ofNat 2 (bits 27 26 h),
    size := BitVec.ofNat 2 (bits 25 24 h), hint := BitVec.ofNat 2 (bits 23 22 h), tenant := BitVec.ofNat 5 (bits 21 17 h),
    tier := bit 16 h, base := BitVec.ofNat 28 (wordAt w 1), dest := BitVec.ofNat 28 (wordAt w 2),
    heat := BitVec.ofNat 16 (bits 31 16 (wordAt w 3)), count := BitVec.ofNat 16 (wordAt w 3) }

/-- The Shelfmark lookup of a folio by function f (rule R219). -/
def folioOk (s : State) (fid f : Nat) : Bool :=
  fid != 0 && (getFolio s fid).valid && (getFolio s fid).tenant.toNat == f

/-- A lookup that meets an uncorrectable entry (Table 15.2). -/
def entryBad (s : State) (fid : Nat) : Bool := !(ueIn s (entryAddr fid) 16).isEmpty

/-! ### Reads and writes -/

/-- Bytes of a folio. -/
def folioData (s : State) (fid off n : Nat) : List Byte := readMem s (folioBase (getFolio s fid) + off) n

/-- The move of a folio that is in progress. -/
def moveOf (s : State) (fid : Nat) : Option Move := s.tier.cur.moves.find? fun m => m.folio == fid

/-- Where a write of n bytes to a folio is written a second time, and how many bytes: the chunks that a move has copied already. -/
def moveCopy (s : State) (fid off n : Nat) : Option (Nat × Nat) :=
  match moveOf s fid with
  | none => none
  | some m =>
    let k := min n (4096 * m.next - off)
    if k = 0 then none else some (65536 * (getFolio s fid).dest.toNat + off, k)

/-- A write to a folio: at its place, and at the destination of a move for chunks already copied (rule R227). Answers whether it
took effect whole (rule R368). -/
def storeFolio (s : State) (fid off : Nat) (bs : List Byte) : Bool × State :=
  let copy := moveCopy s fid off bs.length
  let (ok, s) := storeBytes s (folioBase (getFolio s fid) + off) bs
  match copy with
  | none => (ok, s)
  | some c => (ok, (storeBytes s c.1 (bs.take c.2)).2)

/-- A write to a folio under check codes, with the errors that it meets at both places (rules R368, R370). -/
def storeFolioAs (s : State) (rd : Reader) (t : Option TileId) (fid off : Nat) (bs : List Byte) : Bool × State :=
  let s := storeErrors s (folioBase (getFolio s fid) + off) bs.length rd t
  let s := match moveCopy s fid off bs.length with
    | none => s
    | some c => storeErrors s c.1 c.2 rd t
  storeFolio s fid off bs

/-- COUNT and C0_RECENT of a fetch of n more bytes of an operand of which had bytes were fetched before (rule R223). -/
def countFetch (s : State) (fid had n : Nat) (c0 : Bool) : State :=
  let k := ceilDiv (had + n) 4096 - ceilDiv had 4096
  let s := modFolio s fid fun f => { f with count := satAdd f.count k, c0Recent := f.c0Recent || c0 }
  let c := s.tier.cur
  if c0 && !c.c0This.contains fid then s.setTier { s.tier with cur := { c with c0This := fid :: c.c0This } } else s

/-! ### Extents and limits (rules R218, R220, R222) -/

/-- First unit and number of units of a tier. -/
def tierUnits (s : State) (depos : Bool) : Nat × Nat := if depos then (0x1000000, s.tier.depGib * 16384) else (0, 0x7FF000)

/-- The extents that folios and destinations of moves hold: first unit, units. A folio that is being freed keeps its extent. -/
def extents (s : State) : List (Nat × Nat) :=
  s.tier.folios.flatMap fun x =>
    (x.2.base.toNat, folioUnits x.2) :: if x.2.state = 1 then [(x.2.dest.toNat, folioUnits x.2)] else []

/-- Whether a folio of n units may stand at unit u: nothing overlaps, and its 2 MiB and 32 MiB extents hold folios of its own
class only. -/
def extentFree (held : List (Nat × Nat)) (u n : Nat) : Bool :=
  held.all fun h => (decide (u + n ≤ h.1) || decide (h.1 + h.2 ≤ u)) && (h.2 == n || decide (u / 512 ≠ h.1 / 512))

/-- The first position from i on, of at most fuel ones, that a test accepts. -/
def firstPos (ok : Nat → Bool) : Nat → Nat → Option Nat
  | 0, _ => none
  | fuel + 1, i => if ok i then some i else firstPos ok fuel (i + 1)

/-- Whether a tier has a free aligned extent of n units, held extents being given. -/
def hasExtent (s : State) (depos : Bool) (held : List (Nat × Nat)) (n : Nat) : Bool :=
  let (lo, k) := tierUnits s depos
  (firstPos (fun i => extentFree held (lo + i * n) n) (k / n) 0).isSome

/-- Firmware's choice of a free extent: a free value where it names one, else the first (notes/assumptions/9). -/
def pickExtent (s : State) (depos : Bool) (n : Nat) : Option Nat × State :=
  let (lo, k) := tierUnits s depos
  let held := extents s
  let (v, s) := freePick s
  let i := v % (k / n)
  if k / n ≠ 0 ∧ extentFree held (lo + i * n) n then (some (lo + i * n), s)
  else ((firstPos (fun i => extentFree held (lo + i * n) n) (k / n) 0).map fun i => lo + i * n, s)

/-- Units that a function's folios hold in a tier, destinations of moves included. -/
def tenantUnits (s : State) (f : Nat) (depos : Bool) : Nat :=
  sumNat (s.tier.folios.map fun x =>
    if x.2.tenant.toNat ≠ f then 0
    else if x.2.tier = depos ∨ (x.2.state = 1 ∧ x.2.tier ≠ depos) then folioUnits x.2 else 0)

/-- A function's limit in a tier, in units (Table 9.3). -/
def tierLimit (s : State) (f : Nat) (depos : Bool) : Nat :=
  let l := tabGet TierLim.reset s.tier.cur.limits f
  if depos then l.depos.getD (s.tier.depGib * 16384) else l.nearTier.getD 0x7FF000

def withinLimit (s : State) (f : Nat) (depos : Bool) (n : Nat) : Bool :=
  decide (tenantUnits s f depos + n ≤ tierLimit s f depos)

/-! ### Moves (rules R225, R227 to R230) -/

def dropCaches (s : State) (fid : Nat) : State :=
  let rs := s.run.runners.map fun x => (x.1, { x.2 with cache := x.2.cache.filter (· != fid) })
  s.setRun { s.run with runners := rs.filter fun x => x.2 != Runner.reset }

/-- Starts a move when the destination tier has a free extent. -/
def startMove (s : State) (fid : Nat) (depos pin : Bool) : Bool × State :=
  let f := getFolio s fid
  match pickExtent s depos (folioUnits f) with
  | (none, s) => (false, s)
  | (some u, s) =>
    let s := setFolio s fid { f with state := 1, dest := BitVec.ofNat 28 u }
    let c := s.tier.cur
    (true, s.setTier { s.tier with cur := { c with
      moves := c.moves ++ [{ folio := fid, toTier := depos, next := 0, pin := pin }] } })

/-- Ends a move: the record of event 0x0002 (rule R227). how: 0 done, 1 abandoned, 2 STUCK. -/
def endMove (s : State) (fid how : Nat) : State :=
  match moveOf s fid with
  | none => s
  | some m =>
    let c := s.tier.cur
    let s := s.setTier { s.tier with cur := { c with moves := c.moves.filter fun x => x.folio != fid } }
    logPush s (logSrc 7 0) 0x0002 [fid, how, b2n m.toTier]

/-- Abandons a move: the folio stays at its source, its destination is released; stuck after an uncorrectable error (R228). -/
def abandonMove (s : State) (fid : Nat) (stuck : Bool) : State :=
  match moveOf s fid with
  | none => s
  | some _ =>
    endMove (modFolio s fid fun f => { f with state := if stuck then 2 else 0, dest := 0 }) fid (if stuck then 2 else 1)

/-! ### The Curator (rules R222 to R225) -/

/-- Heat and COUNT at a tick, and C0_RECENT (rules R223, R224). -/
def updateHeat (s : State) : State :=
  let c := s.tier.cur
  let keep := c.c0This ++ c.c0Prev
  let fs := s.tier.folios.map fun x =>
    let f := x.2
    if f.valid then
      (x.1, { f with heat := satAdd (f.heat - (f.heat >>> 3)) f.count.toNat, count := 0, c0Recent := f.c0Recent && keep.contains x.1 })
    else x
  s.setTier { s.tier with folios := fs, cur := { c with c0This := [], c0Prev := c.c0This } }

/-- Whether folio a is less dense than folio b (rule R224). -/
def lessDense (a b : Folio) : Bool := decide (a.heat.toNat * folioUnits b < b.heat.toNat * folioUnits a)

/-- Folios in an order, inserted one by one; before a b: a comes before b. -/
def insertBy {α : Type} (before : α → α → Bool) (x : α) : List α → List α
  | [] => [x]
  | y :: t => if before x y then x :: y :: t else y :: insertBy before x t

def sortBy {α : Type} (before : α → α → Bool) (l : List α) : List α := l.foldr (insertBy before) []

/-- Greatest density first, lower ID first among equals; and its reverse in density. -/
def hotter (a b : Nat × Folio) : Bool :=
  lessDense b.2 a.2 || (!lessDense a.2 b.2 && decide (a.1 < b.1))
def colder (a b : Nat × Folio) : Bool :=
  lessDense a.2 b.2 || (!lessDense b.2 a.2 && decide (a.1 < b.1))

def settled (f : Folio) : Bool := f.valid && f.state == 0 && !f.pinned

/-- Bytes of moves that a tick may spend (Table 9.3): CUR_SHARE/256 × 1.5 TB/s × period. -/
def moveBytes (s : State) : Nat := s.tier.cur.share.toNat * 1500000 * s.tick.period.toNat / 256

/-- The Curator's work in a tick: bytes left, and the state. -/
abbrev CurWork := Nat × State

/-- Whether the Curator may start another of its moves. -/
def mayMove (w : CurWork) : Bool :=
  w.1 != 0 && decide ((w.2.tier.cur.moves.filter fun m => !m.pin).length < w.2.tier.cur.maxMoves.toNat)

/-- One Curator move, if the tick's bytes, the count of moves and an extent allow it. -/
def curMove (w : CurWork) (fid : Nat) (depos : Bool) : CurWork :=
  if mayMove w && (!depos || withinLimit w.2 (getFolio w.2 fid).tenant.toNat true (folioUnits (getFolio w.2 fid))) then
    let (ok, s) := startMove w.2 fid depos false
    if ok then (w.1 - folioSize (getFolio s fid), s) else (w.1, s)
  else w

/-- A folio's demotion; none when its tenant's limit or the Depository's extents do not allow it. -/
def demote (s : State) (v : Nat) : Option State :=
  let f := getFolio s v
  if withinLimit s f.tenant.toNat true (folioUnits f) then
    match startMove s v true false with
    | (true, t) => some t
    | (false, _) => none
  else none

/-- The victims that make room for a folio, coldest first, with those passed over that the Depository cannot take; none when the
qualifying victims cannot make room. -/
def victimsFor (room : List (Nat × Folio) → Bool) : State → List (Nat × Folio) → List (Nat × Folio) → Option (List (Nat × Folio))
  | _, taken, [] => if room taken then some taken else none
  | s, taken, v :: vs =>
    if room taken then some taken
    else
      match demote s v.1 with
      | some t => victimsFor room t (taken ++ [v]) vs
      | none => victimsFor room s taken vs

/-- One candidate of rule R225. -/
def curCandidate (w : CurWork) (x : Nat × Folio) : CurWork :=
  if !mayMove w then w
  else
    let s := w.2
    let n := folioUnits x.2
    let ten := x.2.tenant.toNat
    let atLimit := !withinLimit s ten false n
    if !atLimit && hasExtent s false (extents s) n then curMove w x.1 false
    else
      let vs := sortBy colder (s.tier.folios.filter fun v =>
        settled v.2 && !v.2.tier && !v.2.c0Recent && (!atLimit || v.2.tenant.toNat == ten) &&
          decide (2 * v.2.heat.toNat * folioUnits x.2 < x.2.heat.toNat * folioUnits v.2))
      let held := extents s
      let room := fun (out : List (Nat × Folio)) =>
        hasExtent s false (held.filter fun h => !(out.any fun v => v.2.base.toNat == h.1)) n &&
          decide (tenantUnits s ten false + n ≤
            tierLimit s ten false + sumNat (out.map fun v => if v.2.tenant.toNat = ten then folioUnits v.2 else 0))
      match victimsFor room s [] vs with
      | none => w
      | some out => out.foldl (fun w v => curMove w v.1 true) w

/-- Demotions of functions that a lowered limit leaves above it, coldest first (rule R222). C0_RECENT spares no folio here: rule R225
names it for victims alone (DESIGN CHOICE, notes/assumptions/115). -/
def curOver (w : CurWork) : CurWork :=
  (sortBy colder w.2.tier.folios).foldl (fun w x =>
    let f := getFolio w.2 x.1
    let t := f.tenant.toNat
    let leaving := sumNat (w.2.tier.folios.map fun y =>
      if y.2.state = 1 ∧ !y.2.tier ∧ y.2.tenant.toNat = t then folioUnits y.2 else 0)
    if settled f && !f.tier && decide (tierLimit w.2 t false + leaving < tenantUnits w.2 t false) then curMove w x.1 true else w) w

/-- Whether the Curator may start moves: the node is up, and its power state is neither Drowse nor a transition, in which the tiers
are, or go, in self-refresh (rules R231, R349, R351). -/
def curatorRuns (s : State) : Bool :=
  s.desk.ready && s.rst.episode.all (fun e => e.level == 3) && (s.pwr.state == .active || s.pwr.state == .idle)

/-- The Curator at a tick (rule R225). While it does not run, HEAT and COUNT stay too (Table 9.6). -/
def curate (s : State) : State :=
  let s := if curatorRuns s then updateHeat s else s
  if !s.tier.cur.enable || s.tier.depGib == 0 || !curatorRuns s then s
  else
    let running := sumNat (s.tier.cur.moves.map fun m =>
      if m.pin then 0 else folioSize (getFolio s m.folio) - 4096 * m.next)
    let w := curOver (moveBytes s - running, s)
    let cands := sortBy hotter (w.2.tier.folios.filter fun x =>
      settled x.2 && x.2.tier && decide (8 * folioUnits x.2 ≤ x.2.heat.toNat))
    (cands.foldl curCandidate w).2

end Sys2Proof.Machine
end

