-- ==== Sys2Proof/Machine/Desk.lean ====
section
/-! DEFINITION. What the Circulation Desk does for every family (chapter 11): responses, accesses to host memory, completion
records, halts, ends of rounds, and the tiles, groups and slots that an end releases. -/

namespace Sys2Proof.Machine

/-! ### Logical and physical arrays (rules R103, R109, R113) -/

/-- The Wing that runs a Wing's logical arrays; none when it is retired and nothing hosts it. -/
def hostWing (s : State) (w : Nat) : Option Nat :=
  let x := getWing s w
  if !x.retired then some w
  else
    let h := getWing s x.foldedTo.toNat
    if h.hostsFold && h.foldWing.toNat == w then some x.foldedTo.toNat else none

/-- The physical array of logical index i in Wing w. -/
def physIdx (s : State) (w i : Nat) : Nat :=
  let x := getWing s w
  if x.spareUsed && x.spareFor.toNat == i then 32 else i

/-- Whether a station of Wing w, by its TARGET code of RST_REQ, is in an L3 reset (rules R328, R331). -/
def unitReset (s : State) (w code : Nat) : Bool :=
  s.rst.l3Wings.any fun x => x.1.toNat == w && (x.2.toNat == 0 || x.2.toNat == code)

/-- Wing and physical array that serve logical array L. -/
def physOf (s : State) (l : Nat) : Option (Nat × Nat) :=
  (hostWing s (l / 32)).map fun w => (w, physIdx s w (l % 32))

/-- Wing and Runner that serve logical array L. -/
def runnerOf (s : State) (l : Nat) : Option (Nat × Nat) := (hostWing s (l / 32)).map fun w => (w, l % 32 / 8)

/-- The slots of a physical array that logical array L may use: on a folded array the folded-in logical array has slots 0–3 and the
host's own 4–7, in the order in which rule R109 names the two. -/
def slotsOf (s : State) (l : Nat) : List Nat :=
  match hostWing s (l / 32) with
  | none => []
  | some w =>
    if w ≠ l / 32 then [0, 1, 2, 3] else if (getWing s w).hostsFold then [4, 5, 6, 7] else [0, 1, 2, 3, 4, 5, 6, 7]

/-! ### Operations on a group (rules R89, R90, R92) -/

def shapeOf (d : List W32) : Shape := { mode := BitVec.ofNat 3 (dMode d), m := dM d, c0 := dC0 d, n := dN d, ntot := dNtot d }
def opening (d : List W32) : Bool := dOp d == 1 && dOpen d
def closing (d : List W32) : Bool := dOp d == 1 && dClose d

/-- The group after the tile has been taken up. -/
def claimGroup (g : Group) (q : Nat) (rnd : W32) (d : List W32) : Group :=
  { g with owner := some q, ownerRnd := rnd, waiting := g.waiting + 1,
           issuedOpen := (g.issuedOpen || opening d) && !closing d,
           shape := if opening d then shapeOf d else g.shape }

/-- Whether a tile's operation on a group has not been executed yet. -/
def groupWaits (t : Tile) (l g : Nat) : Bool :=
  opArray (dOp t.d) && t.status == 0 && dLarray t.d == l && dGroup t.d == g && t.hop == 0 &&
    (t.phase == .ahead || t.phase == .held || t.phase == .aside)

/-- What Table 4.3 reads of a group, from its incarnation that holds a slot and the operations that still wait. -/
def groupIssued (tiles : List Tile) (l g : Nat) (x : Group) : Group :=
  let base : Group :=
    if x.live then { x with issuedOpen := true, shape := x.liveShape, waiting := 0, ownerRnd := x.liveRnd } else Group.reset
  (tiles.filter fun t => groupWaits t l g).foldl (fun y t => claimGroup y t.id.q t.id.rnd t.d) base

/-! ### Groups and slots (rules R86, R290, R292) -/

/-- Frees a group: its slot is zero-filled and free, its number is free; operations of tiles in hand on it stay issued (rule R92). -/
def freeGroup (s : State) (l g : Nat) : State :=
  let x := getGroup s l g
  let s := if x.live then
      match physOf s l with
      | some (w, a) => setSlot s w a x.slot Slot.reset
      | none => s
    else s
  setGroup s l g (groupIssued s.run.tiles l g { x with live := false })

/-- Frees every group of a queue that a test on the group accepts. -/
def freeGroups (s : State) (q : Nat) (p : Group → Bool) : State :=
  forEach s.arrs.groups s fun s x => if x.2.owner = some q && p x.2 then freeGroup s (x.1 / 4) (x.1 % 4) else s

/-- Whether a round has the latest operation on a group, taken up or executed. -/
def groupOfRound (num : W32) (g : Group) : Bool := g.ownerRnd == num || (g.live && g.liveRnd == num)

/-- The groups that a failed round left open close at the queue's next command (rule R292). -/
def closeKept (s : State) (q : Nat) : State :=
  let x := getQ s q
  if x.keptGroups.isEmpty then s
  else
    let s := freeGroups s q fun g => x.keptGroups.contains g.ownerRnd
    modQ s q fun x => { x with keptGroups := [] }

/-! ### Rounds (Table 10.3) -/

def modRound (s : State) (q : Nat) (num : W32) (g : Round → Round) : State :=
  modQ s q fun x => { x with rounds := x.rounds.map fun r => if r.num = num then g r else r }

def findRound (s : State) (q : Nat) (num : W32) : Option Round := (getQ s q).rounds.find? fun r => r.num == num

/-- Rounds that lose the guarantee with an earlier round of their queue, which has not ended (Table 10.3). -/
def spreadLoss : Bool → List Round → List Round
  | _, [] => []
  | lost, r :: rs =>
    let mine := r.lostGuarantee || r.demoted
    let r := if lost && (r.state == .running || r.state == .suspended) then { r with lostGuarantee := true } else r
    r :: spreadLoss (lost || mine) rs

def settleLoss (s : State) (q : Nat) : State := modQ s q fun x => { x with rounds := spreadLoss false x.rounds }

/-- A round loses the guarantee, and with it later rounds of its queue (Table 10.3). -/
def loseRound (s : State) (q : Nat) (num : W32) : State :=
  settleLoss (modRound s q num fun r => { r with lostGuarantee := true }) q

/-! ### Tiles -/

def findTile (s : State) (t : TileId) : Option Tile := s.run.tiles.find? fun x => x.id == t
def setTile (s : State) (x : Tile) : State :=
  s.setRun { s.run with tiles := s.run.tiles.map fun y => if y.id = x.id then x else y }

/-- Whether a station holds the tile. -/
def tileHeld (t : Tile) : Bool := t.phase == .held || t.phase == .aside

def dropOpt (p : TileId → Bool) (t : Option TileId) : Option TileId := t.filter fun x => !p x

/-- Takes tiles out of every station, array and partition. -/
def releaseTiles (s : State) (p : TileId → Bool) : State :=
  let a := s.arrs
  let u := s.units
  let arr := (a.arr.map fun x => (x.1, { x.2 with bufs := x.2.bufs.filter fun b => !p b.t, tile := dropOpt p x.2.tile,
                                                  aside := dropOpt p x.2.aside })).filter fun x => x.2 != Arr.reset
  let glo := (u.glo.map fun x => (x.1, { x.2 with
    heldBySoftmax := x.2.heldBySoftmax && (dropOpt p x.2.tile).isSome, tile := dropOpt p x.2.tile,
    aside := dropOpt p x.2.aside })).filter fun x => x.2 != Glo.reset
  let led := (u.led.map fun x => (x.1, { x.2 with tile := dropOpt p x.2.tile, aside := dropOpt p x.2.aside })).filter
    fun x => x.2 != Led.reset
  let ret := (u.ret.map fun x => (x.1, { x.2 with tile := dropOpt p x.2.tile, aside := dropOpt p x.2.aside })).filter
    fun x => x.2 != Ret.reset
  (s.setArrs { a with arr := arr }).setUnits { glo := glo, led := led, ret := ret }

/-- Every group as the tiles in hand leave it. -/
def settleGroups (s : State) : State :=
  let gs := s.arrs.groups.map fun x => (x.1, groupIssued s.run.tiles (x.1 / 4) (x.1 % 4) x.2)
  s.setArrs { s.arrs with groups := gs.filter fun x => x.2 != Group.reset }

/-- Slots whose closing tile is dropped before their drain has ended are free. -/
def freeDrains (s : State) (p : TileId → Bool) : State :=
  s.setArrs { s.arrs with slots := s.arrs.slots.filter fun x => !(x.2.draining && x.2.tile.any p) }

/-- A drain goes on without its tile, which is gone. -/
def orphanDrains (s : State) (p : TileId → Bool) : State :=
  s.setArrs { s.arrs with slots := s.arrs.slots.map fun x => (x.1, { x.2 with tile := dropOpt p x.2.tile }) }

/-- The Wing of a tile's hop: of the tile's logical array, or ALT_WING (notes/assumptions/20). -/
def hopWingOf (x : Tile) (h : Hop) : Nat := if h.wsel = 0 then x.w else dAlt x.d

def hopAt (x : Tile) : Hop := (dHops x.d).getD x.hop { st := 0, unit := 0, wsel := 0 }

/-- The Wing whose station a tile is at. -/
def loanWing (x : Tile) : Nat := hopWingOf x (hopAt x)

/-- The data that is still to come for a RECV or a collective that ends now, at its Loan station (rule R140). -/
def lateOf (x : Tile) : Option LateRx :=
  let op := dOp x.d
  if ((op == 9 && x.loan.granted) || opColl op) && x.hop == 0 && tileHeld x then
    some { ring := op != 9, src := BitVec.ofNat 16 (dDest x.d), cls := x.cls.toNat, func := x.id.q / 32, tag := dSeed x.d,
           rts := if op = 9 then x.loan.rts else 0, wing := loanWing x, counted := false }
  else none

/-- The request slips of a flow whose tiles end wait for responses that nothing takes (rules R140, R312). -/
def endSlips (ids : List TileId) (f : TxFlow) : TxFlow :=
  { f with open_ := f.open_.map fun x => { x with ended := x.ended || x.tile.any fun t => ids.contains t } }

/-- Whether perturbation selects a station of a Wing, by its TARGET code (Tables 15.9, 15.18). -/
def slowedAt (s : State) (w code : Nat) : Bool :=
  let v := s.rel.pert.stationReg.toNat
  s.rel.pert.station && bits 31 27 v == w && (bits 26 20 v == 0 || bits 26 20 v == code)

/-- Whether the delay of a take-up at a station, which began at a moment, is over (Table 15.9). -/
def waitOver (s : State) (w code : Nat) (from_ : Option Nat) : Bool :=
  let delay := bits 15 0 s.rel.pert.stationReg.toNat
  !slowedAt s w code || delay == 0 || from_.any fun c => decide (1000 * delay ≤ s.clk.acyc - c)

/-- Whether a station returns no credit to its feeder in this cycle (Table 15.9). -/
def creditHeld (s : State) (w code : Nat) : Bool :=
  slowedAt s w code && decide (s.clk.acyc / 1000 % 16 < bits 19 16 s.rel.pert.stationReg.toNat)

/-- Notes that data and responses for tiles that end will come late. -/
def noteLate (s : State) (xs : List Tile) : State :=
  let ids := xs.map fun x => x.id
  s.setFab { s.fab with late := s.fab.late ++ xs.filterMap lateOf, tx := s.fab.tx.map fun f => (f.1, endSlips ids f.2) }

/-- Ends tiles: they leave every place that holds them, and their operations on groups are withdrawn. -/
def dropTiles (s : State) (p : Tile → Bool) : State :=
  let gone := s.run.tiles.filter p
  let s := noteLate s gone
  let ids := gone.map fun t => t.id
  let undone := (gone.filter fun t => t.phase != .finished).map fun t => t.id
  let s := freeDrains (releaseTiles s fun t => ids.contains t) fun t => undone.contains t
  let s := orphanDrains s fun t => ids.contains t
  settleGroups (s.setRun { s.run with tiles := s.run.tiles.filter fun t => !p t })

/-- A tile ends at once with a status; its round ends at it when every earlier tile is complete, and has lost the guarantee
(Table 10.3). -/
def failTile (s : State) (t : TileId) (status : Nat) : State :=
  match findTile s t with
  | none => s
  | some x =>
    let s := releaseTiles (noteLate s [x]) fun y => y == t
    let run := match x.startCyc with
      | some c => s.clk.acyc - c
      | none => 0
    loseRound (settleGroups (setTile s { x with phase := .finished, status := BitVec.ofNat 8 status, stamp := s.clk.now,
                                                charged := x.charged + run, startCyc := none, waitFrom := none,
                                                fifo := false })) t.q t.rnd

/-- Tiles that no station has taken up leave their Runners, which will take them up again (rules R141, R248). -/
def untakeTiles (s : State) (p : Tile → Bool) : State :=
  let gone := s.run.tiles.filter fun t => t.phase == .ahead && p t
  let s := forEach gone s fun s t => modQ s t.id.q fun x => { x with rounds := x.rounds.map fun r =>
    if r.num = t.id.rnd then { r with taken := r.taken.filter (· != t.id.idx) } else r }
  dropTiles s fun t => t.phase == .ahead && p t

/-- Whether an earlier tile of the tile's round has ended with a failure: the round ends there, and the tile is not carried out
(rules R45, R124, R139; notes/assumptions/23). -/
def cutShort (s : State) (t : TileId) : Bool :=
  s.run.tiles.any fun y => y.id.q == t.q && y.id.rnd == t.rnd && decide (y.id.idx < t.idx) && y.status != 0

/-! ### Host memory (rules R405 to R407) -/

/-- A posted write of function f; none goes out while f is blocked. -/
def hostWrite (s : State) (f : Nat) (addr : W64) (bs : List Byte) : State :=
  if hostBlocked s f then s else emit s (.hostWrite f addr bs)

/-! ### Responses (Tables 11.1 to 11.3) -/

def stOk : Nat := 0
def stSuperseded : Nat := 1
def stBadVersion : Nat := 0x10
def stUnknown : Nat := 0x11
def stBadLength : Nat := 0x12
def stBadParam : Nat := 0x13
def stDenied : Nat := 0x14
def stInvalidState : Nat := 0x15
def stNoSpace : Nat := 0x16
def stOverLimit : Nat := 0x17
def stHostFault : Nat := 0x18
def stUncorrectable : Nat := 0x19

/-- Request word RQn or Pn − 4. -/
def rqWord (m : Mbox) (n : Nat) : Nat := (tabGet 0 m.req n).toNat
/-- Payload word n. -/
def rqP (m : Mbox) (n : Nat) : Nat := rqWord m (n + 4)

/-- Words stored in a table of words from index i. -/
def putWords : Tab W32 → Nat → List Nat → Tab W32
  | t, _, [] => t
  | t, i, w :: ws => putWords (tabSet 0 t i (BitVec.ofNat 32 w)) (i + 1) ws

/-- Writes the whole response, sets the mailbox DONE and clears GO (rule R264). -/
def respond (s : State) (f k status : Nat) (payload : List Nat) : State :=
  let m := getMb s f k
  let resp := putWords m.resp 0
    ([fld 16 (rqWord m 0 % 65536) + status, rqWord m 1, 4 * payload.length, 0] ++ payload)
  let s := setMb s f k { m with state := 2, seq := m.seq + 1, taken := false, resp := resp }
  s.setDesk { s.desk with cmds := s.desk.cmds.filter fun c => !(c.f == f && c.k == k) }

/-- A command that waits. -/
def waitCmd (s : State) (f k : Nat) (why : CmdWhy) : State :=
  s.setDesk { s.desk with cmds := s.desk.cmds ++ [{ f := f, k := k, why := why }] }

/-! ### Halts (rules R279, R280) -/

/-- The operations that a re-execution does not perform again (rule R106): SEND, PUT, SIGNAL, RECV and the collectives, not GET. -/
def opOnce (op : Nat) : Bool := opLoan op && op != 0x0B

/-- Tiles of a round that their Loan station has finished and that are performed once. -/
def loansFinished (s : State) (q : Nat) (num : W32) : List Nat :=
  (s.run.tiles.filter fun t =>
    t.id.q == q && t.id.rnd == num && opOnce (dOp t.d) && t.phase == .finished && t.status == 0).map fun t => t.id.idx

/-- Rounds of a queue that have been admitted and not ended, after the head, return to waiting; one that a station holds stops
at its next tile boundary first. -/
def returnRounds (s : State) (q : Nat) : State :=
  let x := getQ s q
  let inn := fun (r : Round) => r.state == .running || r.state == .suspended
  let mark := fun (r : Round) => if inn r && r.result.isNone then 
      { r with stopping := true, returned := true, loanDone := loansFinished s q r.num ++ r.loanDone }
    else r
  let s := setQ s q { x with rounds := x.rounds.map mark }
  let nums := (x.rounds.filter inn).map fun r => r.num
  dropTiles s fun t => t.id.q == q && nums.contains t.id.rnd && !tileHeld t

/-- A queue that may halt: ACTIVE or COMPLETION_BLOCKED. -/
def mayHalt (x : Queue) : Bool := x.state == 1 || x.state == 3

/-- The state and the cause of a queue that halts; a blocked queue stays blocked and records the cause (rule R280). -/
def haltState (x : Queue) (cause : Nat) : Queue :=
  { x with state := if x.state = 1 then 2 else 3,
           cause := if x.state = 3 ∧ x.cause ≠ 0 then x.cause else BitVec.ofNat 3 cause }

/-- What a halt does beside the state: DSK_FN_EVENT.HALTED, and under ROUND_FAILED the return of the later rounds. -/
def haltEffects (s : State) (q cause : Nat) : State :=
  let s := raiseFn s (q / 32) .halted
  if cause = 1 then returnRounds s q else s

/-- A queue halts (rule R280). cause: 1 ROUND_FAILED, 2 COMMAND_FAILED, 3 RING_FAULT, 4 BAD_PRODUCER. -/
def haltQueue (s : State) (q cause : Nat) : State :=
  if mayHalt (getQ s q) then haltEffects (setQ s q (haltState (getQ s q) cause)) q cause else s

/-! ### Completion records (rules R282, R285, R288) -/

/-- A completion record that was not delivered: the queue is blocked and keeps it (rule R288). -/
def recordLost (s : State) (q : Nat) (r : CRec) : State :=
  let x := getQ s q
  let age := fun (c : CRec) => (c.completed - (x.completed - 1024)).toNat
  if x.state = 1 ∨ x.state = 2 ∨ x.state = 3 then
    let s := setQ s q { x with state := 3, spill := insertBy (fun a b => decide (age a < age b)) r x.spill }
    if x.state = 3 then s else mgmtEvent (raiseFn s (q / 32) .cblocked) 0x0D q
  else s

/-- Read requests of n bytes: the PF's Max_Read_Request_Size, 128 to 4,096 bytes, cuts them (Table 17.1). -/
def readParts (s : State) (n : Nat) : Nat := ceilDiv n (min 4096 (128 * 2 ^ (getPcie s 0).maxRead.toNat))

/-- Whether a read of n bytes finds room among the 768 non-posted requests that may be outstanding (Table 17.1). -/
def readRoom (s : State) (n : Nat) : Bool :=
  decide (sumNat ((s.desk.reads.filter fun r => r.sent).map fun r => readParts s r.len) + readParts s n ≤ 768)

/-- Sends a read of host memory, or lets it wait for room behind those that wait. -/
def issueRead (s : State) (f : Nat) (addr : W64) (len : Nat) (why : RdWhy) : State :=
  let tag := s.desk.rdTag
  let now := readRoom s len && s.desk.reads.all fun r => r.sent
  let s := s.setDesk { s.desk with rdTag := tag + 1, reads := s.desk.reads ++
    [{ tag := tag, f := f, addr := addr, len := len, why := why, sent := now }] }
  if now then emit s (.hostRead f addr len tag) else s

/-- The flush read of a completion record (rule R285). -/
def flushRead (s : State) (q : Nat) (r : CRec) : State :=
  if hostBlocked s (q / 32) then recordLost s q r else issueRead s (q / 32) (getQ s q).statusAddr 4 (.flush q r)

/-- A completion record and its flush read go out; a blocked queue keeps it (rules R282, R285, R288). qstate: the queue's state after
the round; a round that ended while the queue was blocked, which it is no longer, shows the state now. -/
def putRecord (s : State) (q : Nat) (qstate : BitVec 3) (r : CRec) : State :=
  let x := getQ s q
  if x.state = 3 then setQ s q { x with spill := x.spill ++ [r] }
  else if x.state = 1 ∨ x.state = 2 then
    let shown := if qstate = 3 then x.state else qstate
    let s := setQ s q { x with lastQ := shown }
    flushRead (hostWrite s (q / 32) x.statusAddr (completionBytes x.consumed shown.toNat r)) q r
  else s

/-- A record that changes only CONSUMED goes out. While the queue is COMPLETION_BLOCKED none is written: the spilled records carry
CONSUMED when they are (rules R279, R282, R288). -/
def putPoll (s : State) (q : Nat) (r : CRec) : State :=
  let x := getQ s q
  if x.state = 1 ∨ x.state = 2 then
    flushRead (hostWrite s (q / 32) x.statusAddr (completionBytes x.consumed x.lastQ.toNat r)) q r
  else s

/-- ns by which perturbation delays a completion record (Tables 15.9, 15.20). -/
def recordDelay (s : State) : Nat := if s.rel.pert.compl then 1000 * min 10000 s.rel.pert.complUs.toNat else 0

/-- A record goes out, or does so when its delay is over. -/
def putLate (s : State) (e : LateRec) : State :=
  if e.poll then putPoll s e.q e.what else putRecord s e.q e.qstate e.what

/-- Writes a completion record, now or with its delay; the records of a queue keep their order (rules R283, R382). -/
def writeRecord (s : State) (q : Nat) (r : CRec) (poll : Bool) : State :=
  let e : LateRec := { due := s.clk.now + BitVec.ofNat 64 (recordDelay s), q := q, what := r, qstate := (getQ s q).state, poll := poll }
  if recordDelay s = 0 && s.desk.lateRecs.all fun x => x.q != q then putLate s e
  else s.setDesk { s.desk with lateRecs := s.desk.lateRecs ++ [e] }

/-- Delayed records whose time has come go out. -/
def releaseRecords (s : State) : State :=
  forEach s.desk.lateRecs s fun s e =>
    let first := (s.desk.lateRecs.find? fun x => x.q == e.q) == some e
    if first && decide (e.due.toNat ≤ s.clk.now.toNat) then
      putLate (s.setDesk { s.desk with lateRecs := s.desk.lateRecs.erase e }) e
    else s

/-- The delayed records of a queue that is destroyed are never written (rule R290). -/
def dropRecords (s : State) (q : Nat) : State :=
  s.setDesk { s.desk with lateRecs := s.desk.lateRecs.filter fun e => e.q != q }

/-- The end of a poll: when it has parsed entries, a record that changes only CONSUMED (rule R282). -/
def endPoll (s : State) (q : Nat) : State :=
  let x := getQ s q
  let s := setQ s q { x with polling := false }
  if x.consumed = x.pollFrom ∨ !(x.state == 1 || x.state == 2) then s else writeRecord s q x.last true

/-- How a failed read of host memory ends what it was for. -/
def hostReadFail (s : State) (why : RdWhy) : State :=
  match why with
  | .createProducer f k => respond s f k stHostFault []
  | .createFlush f k => respond s f k stHostFault []
  | .producer q => haltQueue (modQ s q fun x => { x with polling := false }) q 3
  | .entry q _ => endPoll (haltQueue s q 3) q
  | .flush q r => recordLost s q r
  | .spillFlush f k _ done => respond s f k stHostFault [done]
  | .folioWrite f k moved => respond s f k stHostFault [moved]
  | .folioRead f k moved => respond s f k stHostFault [moved]
  | .dead => s

/-- A read of host memory; it fails at once while the function is blocked (rule R407). -/
def hostRead (s : State) (f : Nat) (addr : W64) (len : Nat) (why : RdWhy) : State :=
  if hostBlocked s f then hostReadFail s why
  else issueRead s f addr len why

/-! ### Signals (rules R135, R284) -/

/-- A peer signal to the queue's SIG_TARGET; an empty target sends nothing. COUNT_LEN = 1 tells it from the ADD of a SIGNAL tile
(DESIGN CHOICE, notes/assumptions/11). -/
def peerSignal (s : State) (q cls value : Nat) : State :=
  let x := getQ s q
  if x.sigFolio = 0 then s
  else
    sendRequest s { newSlip s x.sigNode.toNat cls (q / 32) kAdd with
                    folio := x.sigFolio, offset := BitVec.ofNat 25 (8 * x.sigOffset.toNat), len := 8, countLen := 1,
                    payload := bytesOf 8 value } none 0 q

/-! ### Charges (rules R130, R238) -/

/-- The charge of a round so far, in thousandths of a cycle. -/
def roundCharge (s : State) (r : Round) : Nat :=
  r.charge + match r.since with
    | some t => s.clk.acyc - t
    | none => 0

/-- A round stops being charged. -/
def stopCharge (s : State) (r : Round) : Round := { r with charge := roundCharge s r, since := none }

/-! ### Ends of rounds (rules R278, R280, R283, R284, R292) -/

/-- The class that a round runs in (rule R254). -/
def ranClass (r : Round) : Nat := if r.demoted then 1 else r.cls.toNat

/-- Ends the oldest round of a queue when it has a result. -/
def endHead (s : State) (q : Nat) : State :=
  let x := getQ s q
  match x.rounds with
  | [] => s
  | r :: rest =>
    match r.result with
    | none => s
    | some (st, ft) =>
      let bad := st != 0
      let l := x.last
      let last : CRec :=
        { completed := x.completed + 1, tag := r.tag, status := st, failTile := ft,
          lastFailRound := if bad then r.num else l.lastFailRound, lastFailStatus := if bad then st else l.lastFailStatus,
          failed := if bad then satAdd l.failed 1 else l.failed, stamp := s.clk.now }
      let s := setQ s q { x with rounds := rest, completed := x.completed + 1, last := last, ended := some r,
                                 keptGroups := if bad then x.keptGroups ++ [r.num] else x.keptGroups }
      let s := dropTiles s fun t => t.id.q == q && t.id.rnd == r.num
      let halts := bad && x.haltOnError && mayHalt x
      let s := if halts then modQ s q fun y => haltState y 1 else s
      let s := writeRecord s q last false
      let s := if halts then haltEffects s q 1 else s
      if r.rsignal && x.state != 4 then peerSignal s q (ranClass r) (if bad then 2 ^ 32 else 1) else s

/-- Ends rounds of a queue from the oldest on, as far as they have results; fuel: the rounds it has. -/
def endRounds (s : State) (q : Nat) : Nat → State
  | 0 => s
  | n + 1 =>
    match (getQ s q).rounds with
    | [] => s
    | r :: _ => if r.result.isSome then endRounds (endHead s q) q n else s

def settleEnds (s : State) (q : Nat) : State := endRounds s q (getQ s q).rounds.length

/-- A round gets its result; it ends in its place (rule R283). -/
def resultRound (s : State) (q : Nat) (num : W32) (st ft : Nat) : State :=
  let s := modQ s q fun x => { x with rounds := x.rounds.map fun r =>
    if r.num = num && r.result.isNone then
      let r := stopCharge s r
      { r with result := some (BitVec.ofNat 8 st, BitVec.ofNat 20 ft), state := .ended, stopping := false,
               lostGuarantee := r.lostGuarantee || st != 0 }
    else r }
  settleEnds (settleLoss s q) q

/-! ### Stops at tile boundaries (rules R105, R247, R280, R290, R291) -/

/-- A round that a halt returned runs again from its first tile as a new round (rules R242, R280). -/
def freshRound (r : Round) : Round :=
  { r with fresh := true, late := false, returned := false, state := .waiting, stopping := false, since := none, charge := 0,
           overrun := false, demoted := false, lostGuarantee := false, taken := [], done := 0, reexecuted := false, result := none }

/-- Rounds of a queue that a halt returned and that no station holds any more become waiting rounds; their tiles and groups
are released. -/
def settleReturns (s : State) (q : Nat) : State :=
  forEach (getQ s q).rounds s fun s r =>
    if r.stopping && r.returned && !(s.run.tiles.any fun t => t.id.q == q && t.id.rnd == r.num && tileHeld t) then
      let loans := loansFinished s q r.num
      let s := dropTiles s fun t => t.id.q == q && t.id.rnd == r.num
      let s := freeGroups s q (groupOfRound r.num)
      modRound s q r.num fun r => { freshRound r with loanDone := loans ++ r.loanDone }
    else s

/-- Reads of host memory for a queue that nothing waits for any more. -/
def deadReads (s : State) (q : Nat) : State :=
  let mine := fun (w : RdWhy) =>
    match w with
    | .producer p => p == q
    | .entry p _ => p == q
    | .flush p _ => p == q
    | .spillFlush _ _ p _ => p == q
    | _ => false
  s.setDesk { s.desk with reads := s.desk.reads.map fun r => if mine r.why then { r with why := .dead } else r }

/-- The queue is gone (rules R290, R291); its counters keep what they show, and its reservation lasts until the boundary. -/
def absentQueue (s : State) (q : Nat) : State :=
  let s := dropTiles s fun t => t.id.q == q
  let s := freeGroups (dropRecords (deadReads s q) q) q fun _ => true
  modQ s q fun x => { Queue.reset with resv := x.resv, producer := x.producer, consumed := x.consumed, completed := x.completed,
                                       events := x.events, lostEvents := x.lostEvents }

/-- A QUEUE_DESTROY is accepted (rule R290). -/
def destroyQueue (s : State) (q : Nat) : State :=
  let x := getQ s q
  setQ (dropRecords (deadReads s q) q) q
    { x with state := 4, cause := 0, polling := false, spill := [], destroyP0 := x.completed,
             destroyP1 := BitVec.ofNat 32 x.rounds.length, destroyAt := s.clk.now, resvNext := none,
             resv := x.resv.map fun r => { r with releasing := true }, rounds := x.rounds.filter fun r => r.state != .waiting }

/-- A destroyed queue whose last engine has reported: the response is written (rule R291). -/
def finishDestroy (s : State) (q : Nat) : State :=
  let x := getQ s q
  if x.state = 4 then
    let cmds := s.desk.cmds.filter fun c => c.why == .destroy q
    let s := forEach cmds s fun s c => respond s c.f c.k stOk [x.destroyP0.toNat, x.destroyP1.toNat, x.consumed.toNat]
    absentQueue s q
  else s

end Sys2Proof.Machine
end

