-- ==== Sys2Proof/Machine/Ports.lean ====
section
/-! DEFINITION. What brings a port of the fabric up or down (rules R294, R296, R297, R304). -/

namespace Sys2Proof.Machine

/-- A node that runs alone is node 0, and its route table holds only its own entry (rule R304). -/
def runAlone (s : State) : State :=
  s.setFab { s.fab with assigned := true, routed := true, alone := true, manager := false, nodeId := 0,
                        routes := tabSet 0x0000FFFF [] 0 0x8000FFFF, survey := Survey.reset }

/-- A node with no UP port runs alone. -/
def aloneNode (s : State) : State := if (List.range 9).any (portUp s) then s else runAlone s

/-- A change of a port's preferred alternatives: CONGESTED changes, with its record and count (rules R18, R307). -/
def flipCongested (s : State) (p : Nat) : State :=
  let x := getPort s p
  logPush (setPort s p { x with congested := !x.congested, cong := satAdd x.cong 1 }) (logSrc 5 p) 0x0004 [b2n (!x.congested)]

/-- Every change of a port between UP and DOWN: a record and an event (rule R297). -/
def portRecord (s : State) (p state width : Nat) : State :=
  mgmtEvent (logPush s (logSrc 5 p) 0x0005 [state, width]) 0x03 (fld 16 p + state)

/-- A port goes DOWN: what it was sending or keeping for replay is dropped; its counters stay. -/
def portDown (s : State) (p : Nat) : State :=
  if (getPort s p).state = 0 then s
  else
    let s := if (getPort s p).congested then flipCongested s p else s
    let x := getPort s p
    let s := setPort s p { Port.reset with fec := x.fec, crc := x.crc, replay := x.replay, cong := x.cong, choices := x.choices }
    let s := portRecord s p 0 0
    if s.desk.ready then aloneNode s else s

/-- A port retrains. -/
def retrain (s : State) (p : Nat) : State :=
  modPort s p fun x => { x with state := 1, discarding := false, naks := 0, nakGot := 0 }

/-- Sends the kept flits again from one on. -/
def replayFrom (s : State) (p : Nat) (seq : BitVec 12) : State :=
  let x := getPort s p
  forEach (x.sent.dropWhile fun f => f.1 != seq) s fun s f => emit s (.flit p f.2)

/-- WIDTH that the working lanes allow: 3 four lanes, 2 two, 1 one, 0 none (rule R294). -/
def widthOf (lanes : BitVec 4) : Nat :=
  let n := lanes.toNat
  if n = 15 then 3 else if bits 1 0 n = 3 ∨ bits 3 2 n = 3 then 2 else if n = 0 then 0 else 1

end Sys2Proof.Machine
end

