-- ==== Sys2Proof/Machine/Manager.lean ====
section
/-! DEFINITION. The fabric manager (rules R303, R305, R306, R308): its breadth-first exploration with MGMT slips, the node IDs
that it assigns and the route tables that it loads. What a node answers and when the manager explores are the model's
(notes/assumptions/77). -/

namespace Sys2Proof.Machine

/-- The device serial number: bytes 0 to 7 of DEVICE_ID (rule R385). -/
def serialNo : W64 := Config.deviceId.setWidth 64

/-- The hello that this node sends on a port. -/
def helloOf (s : State) (p : Nat) : Hello :=
  { serial := serialNo, node := s.fab.nodeId, assigned := s.fab.assigned, port := BitVec.ofNat 4 p, candidate := s.fab.candidate,
    time := s.clk.now }

def upPorts (s : State) : List (BitVec 4) := ((List.range 9).filter (portUp s)).map (BitVec.ofNat 4)

/-- Sends a MGMT slip along a route by ports. -/
def sendVia (s : State) (path : List (BitVec 4)) (node : Nat) (op : MgmtOp) : State :=
  match path with
  | [] => s
  | [p] => sendMgmt s p.toNat node op
  | p :: ps => sendMgmt s p.toNat node (.via ps op)

/-! ### Exploring (rule R303) -/

/-- Asks the nodes at the ends of routes who they are. -/
def askAll (s : State) (paths : List (List (BitVec 4))) : State :=
  let v := s.fab.survey
  let s := s.setFab { s.fab with survey := { v with asked := paths, answers := [] } }
  forEach paths s fun s path =>
    let back := ((v.found.find? fun f => f.path == path.dropLast).map fun f => f.back).getD []
    sendVia s path 0 (.explore serialNo 0xF path back)

/-- The manager begins to explore, from its own ports. -/
def startSurvey (s : State) : State :=
  let me : Found := { hello := helloOf s 0xF, path := [], back := [], ports := upPorts s }
  askAll (s.setFab { s.fab with survey := { Survey.reset with found := [me] } }) (me.ports.map fun p => [p])

/-- A survey with one more answer taken in, and the routes to ask next: a node that was known gives only a link. -/
def takeFound (st : Survey × List (List (BitVec 4))) (x : Found) : Survey × List (List (BitVec 4)) :=
  let v := st.1
  let links := match v.found.find? fun f => f.path == x.path.dropLast with
    | some f => v.links ++ [{ a := f.hello.serial, pa := x.path.getLastD 0, b := x.hello.serial, pb := x.hello.port }]
    | none => v.links
  if v.found.any fun f => f.hello.serial == x.hello.serial then ({ v with links := links }, st.2)
  else ({ v with links := links, found := v.found ++ [x] },
    st.2 ++ (x.ports.filter (· != x.hello.port)).map fun p => x.path ++ [p])

/-! ### Node IDs (rules R303, R305) -/

/-- The ID that this device's map names for a serial number. -/
def mapId (s : State) (serial : W64) : Option (BitVec 16) :=
  s.rst.opt.bind fun o => (o.idMap.find? fun x => x.1 == serial).map fun x => x.2

/-- The IDs that the map of the option block names. -/
def mapIds (s : State) : List (BitVec 16) := match s.rst.opt with
  | some o => o.idMap.map fun x => x.2
  | none => []

/-- The ID that a manager keeps or takes for itself: one that a manager assigned, else the map's, else 0. -/
def managerId (s : State) : BitVec 16 :=
  if s.fab.assigned && !s.fab.alone then s.fab.nodeId else (mapId s serialNo).getD 0

/-- The lowest ID of 65,536 that is not used. -/
def lowestId (used : List (BitVec 16)) : BitVec 16 :=
  ((List.range 65536).map (BitVec.ofNat 16)).find? (fun i => !used.contains i) |>.getD 0

/-- The IDs that nodes of a survey hold. A node that ran alone says 0 as well, so 0 is held only where nothing else names an ID for
the node (rules R303, R304). -/
def heldIds (found : List Found) : List (BitVec 16) :=
  (found.filter fun f => f.hello.assigned && f.hello.node != 0).map fun f => f.hello.node

/-- IDs for nodes in the order of discovery: the one that a node holds, else the map's where no other node holds it, else the lowest
unused; ids: those given so far, by serial number. -/
def giveIds (s : State) (found : List Found) (ids : List (W64 × BitVec 16)) (f : Found) : List (W64 × BitVec 16) :=
  let used := ids.map fun x => x.2
  let keeps := f.hello.assigned && !used.contains f.hello.node
  let named := (mapId s f.hello.serial).filter fun i => !used.contains i && !(heldIds found).contains i
  let id :=
    if keeps && f.hello.node != 0 then f.hello.node
    else match named with
      | some i => i
      | none => if keeps then f.hello.node else lowestId (used ++ mapIds s ++ heldIds found)
  ids ++ [(f.hello.serial, id)]

/-- The IDs of all nodes of a survey; the manager stands first. -/
def surveyIds (s : State) (found : List Found) : List (W64 × BitVec 16) :=
  (found.drop 1).foldl (giveIds s found) [(serialNo, s.fab.nodeId)]

def idOf (ids : List (W64 × BitVec 16)) (serial : W64) : Nat := ((ids.lookup serial).getD 0).toNat

/-! ### Route tables (rules R306, R308) -/

/-- The neighbours of a node: port and neighbour, in the order of the ports. -/
def neighbours (links : List Link) (ids : List (W64 × BitVec 16)) (n : Nat) : List (Nat × Nat) :=
  let ends := links.flatMap fun l =>
    [(idOf ids l.a, l.pa.toNat, idOf ids l.b), (idOf ids l.b, l.pb.toNat, idOf ids l.a)]
  (List.range 9).filterMap fun p => (ends.find? fun e => e.1 == n && e.2.1 == p && e.2.2 != n).map fun e => (p, e.2.2)

/-- The nodes in the order of their levels in the breadth-first tree, and by ID within one: a link goes up toward the earlier. -/
def treeOrder (found : List Found) (ids : List (W64 × BitVec 16)) : List Nat :=
  let put := fun (l : List (Nat × Nat)) (x : Nat × Nat) =>
    l.takeWhile (fun y => decide (y.1 < x.1) || (y.1 == x.1 && decide (y.2 < x.2))) ++ x ::
      l.dropWhile fun y => decide (y.1 < x.1) || (y.1 == x.1 && decide (y.2 < x.2))
  ((found.map fun f => (f.path.length, idOf ids f.hello.serial)).foldl put []).map fun x => x.2

/-- One more link than the nearest of the neighbours whose distance is known. -/
def oneFurther (nbrs : List (Nat × Nat)) (known : List (Nat × Nat)) : Option Nat :=
  (nbrs.filterMap fun n => known.lookup n.2).foldl (fun b d => some (match b with
    | some m => min m (d + 1)
    | none => d + 1)) none

/-- Links to a destination by down links alone, for the nodes that have such a path. -/
def downDist (order : List Nat) (nbrs : Nat → List (Nat × Nat)) (dest : Nat) : List (Nat × Nat) :=
  order.reverse.foldl (fun known n =>
    if n = dest then (n, 0) :: known
    else match oneFurther (nbrs n) known with
      | some d => (n, d) :: known
      | none => known) []

/-- Links to a destination by up links and then down links. -/
def routeDist (order : List Nat) (nbrs : Nat → List (Nat × Nat)) (dest : Nat) : List (Nat × Nat) :=
  let down := downDist order nbrs dest
  order.foldl (fun known n =>
    match down.lookup n with
    | some d => (n, d) :: known
    | none => match oneFurther (nbrs n) known with
      | some d => (n, d) :: known
      | none => known) []

/-- The route entry of node n for a destination: up to four ports on shortest paths, down from a node that has a down path, so that
no slip goes up after it has gone down. -/
def routeEntry (order : List Nat) (nbrs : Nat → List (Nat × Nat)) (n dest : Nat) : Option W32 :=
  let down := downDist order nbrs dest
  let dist := routeDist order nbrs dest
  match dist.lookup n with
  | none => none
  | some d =>
    let onDown := (down.lookup n).isSome
    let earlier := order.takeWhile (· != n)
    let ports := ((nbrs n).filter fun x =>
      (if onDown then !earlier.contains x.2 && down.lookup x.2 == some (d - 1)
       else earlier.contains x.2 && dist.lookup x.2 == some (d - 1))).map fun x => x.1
    let alts := padTo 0xF 4 ports
    some (BitVec.ofNat 32 (fld 31 1 + fld 16 (min d 255) + fld 12 (alts.getD 3 0) + fld 8 (alts.getD 2 0) + fld 4 (alts.getD 1 0) +
      alts.getD 0 0))

/-- The route table of node n, its own entry aside. -/
def routeTable (order : List Nat) (nbrs : Nat → List (Nat × Nat)) (n : Nat) : List (BitVec 16 × W32) :=
  (order.filter (· != n)).filterMap fun d => (routeEntry order nbrs n d).map fun e => (BitVec.ofNat 16 d, e)

/-- The entry of a node for itself (rule R306). -/
def ownEntry (s : State) : State :=
  s.setFab { s.fab with routes := tabSet 0x0000FFFF s.fab.routes s.fab.nodeId.toNat 0x8000FFFF }

/-- A table load replaces the table. -/
def loadRoutes (s : State) (es : List (BitVec 16 × W32)) : State :=
  ownEntry (s.setFab { s.fab with routes := es.foldl (fun t e => tabSet 0x0000FFFF t e.1.toNat (e.2 &&& 0x80FFFFFF)) [] })

/-- The exploration has ended: every node gets its ID, its table, the time and ROUTED (rule R303). -/
def surveyDone (s : State) : State :=
  let v := s.fab.survey
  let ids := surveyIds s v.found
  let order := treeOrder v.found ids
  let nbrs := neighbours v.links ids
  let s := s.setFab { s.fab with survey := { v with asked := [], answers := [] } }
  let s := loadRoutes s (routeTable order nbrs s.fab.nodeId.toNat)
  forEach (v.found.drop 1) s fun s f =>
    let n := idOf ids f.hello.serial
    let send := fun (s : State) (op : MgmtOp) => sendVia s f.path n op
    send (send (send (send s (.assign (BitVec.ofNat 16 n))) (.loadRoutes (routeTable order nbrs n)))
      (.setTime s.tick.epoch s.tick.n0 s.tick.period.toNat)) .setRouted

/-- A node that was asked has answered; when all of a depth have, the manager asks those one link further, in the order of
discovery, or ends. -/
def surveyAnswer (s : State) (x : Found) : State :=
  let v := s.fab.survey
  if !v.asked.contains x.path || v.answers.any fun y => y.path == x.path then s
  else
    let answers := v.answers ++ [x]
    if answers.length < v.asked.length then s.setFab { s.fab with survey := { v with answers := answers } }
    else
      let r := (v.asked.filterMap fun p => answers.find? fun y => y.path == p).foldl takeFound (v, [])
      let s := s.setFab { s.fab with survey := r.1 }
      if r.2.isEmpty then surveyDone s else askAll s r.2

/-- This node becomes manager: its clock is the fabric's time. -/
def becomeManager (s : State) : State :=
  startSurvey (ownEntry (s.setFab { s.fab with manager := true, assigned := true, routed := true, alone := false, depth := 0,
                                               nodeId := managerId s, synced := true, joined := true }))

end Sys2Proof.Machine
end

