-- ==== Sys2Proof/Machine/Remap.lean ====
section
/-! DEFINITION. Failed arrays (rules R103, R109, R110, R376): spare remaps, retirements and folds, with their records. -/

namespace Sys2Proof.Machine

/-- The Wing's spare is healthy and unused. -/
def spareFree (s : State) (w : Nat) : Bool := !(getWing s w).spareUsed && !(getWing s w).spareFailed

/-! ### Failed-array records in the Vault (Table 15.7) -/

def failOff : Nat := 0x6000

/-- A failed-array record. found: 0 start-up test, 1 Inventory, 2 in-flight check. -/
def failRecord (w p found : Nat) : List Byte :=
  let lo := bytesOf 5 (fld 35 w + fld 29 p + fld 27 found)
  let sum := sumNat (lo.map BitVec.toNat) % 256
  lo ++ bytesOf 3 (255 - sum)

/-- Whether a number is a failed-array record with a right CHECK (Table 15.7). -/
def failOk (r : Nat) : Bool :=
  bits 63 48 r == 0 && bits 26 0 r == 0 && decide (bits 34 29 r ≤ 32) && decide (bits 28 27 r ≤ 2) &&
    bits 47 40 r == 255 - sumNat ((bytesOf 5 r).map BitVec.toNat) % 256

/-- The valid records of the region, in order, as Wing and physical array; an uncorrectable word gives none. -/
def failRecords (s : State) : List (Nat × Nat) :=
  let good := (List.range 128).filter fun i => !vaultBad s (failOff + 8 * i) 8
  ((good.map fun i => natOf (memBytes 0 s.vault (failOff + 8 * i) 8)).filter failOk).map fun r => (bits 39 35 r, bits 34 29 r)

/-- Writes a record to the first free place of the region; an array that has a record gets no second one. -/
def writeFail (s : State) (w p found : Nat) : State :=
  if (failRecords s).contains (w, p) then s
  else
  match (List.range 128).find? fun i => natOf (memBytes 0 s.vault (failOff + 8 * i) 8) == 0 with
  | none => s
  | some i => vaultPut s (failOff + 8 * i) (failRecord w p found)

/-- The record and the event of a remap, retirement or fold (rule R110). b: of a remap the physical array that serves now, of a
retirement the array whose failure led to it, of a fold the host Wing; the 4 data bytes of the event are W4 of the record
(DESIGN CHOICE, notes/assumptions/89). -/
def mapRecord (s : State) (a how b : Nat) : State := mgmtEvent (logPush s (logSrc 0 0) 0x0003 [a, how, b]) 0x04 a

/-! ### Remap, retirement, fold -/

/-- The logical index that a physical array serves in its Wing; none when it serves none. -/
def servedBy (s : State) (w p : Nat) : Option Nat :=
  let x := getWing s w
  if p = 32 then (if x.spareUsed then some x.spareFor.toNat else none)
  else if x.spareUsed && x.spareFor.toNat == p then none
  else some p

/-- Rounds that use a Wing which nothing runs end with ARRAY_FAULT at the boundary where they stop (rule R109). -/
def loseWing (s : State) (w : Nat) : State :=
  forEach s.desk.queues s fun s x =>
    forEach (x.2.rounds.filter fun r => bit w r.mask.toNat && r.result.isNone && r.state != .waiting) s fun s r =>
      modRound s x.1 r.num fun r => { r with stopping := true, reexecuted := true, lostGuarantee := true }

/-- The open groups of a Wing's logical arrays that stay open when the Wing folds (rule R292): each moves with its contents from the
slot where it stood, on physical array 33·w + a, to a free slot of its logical array on the host; with none free it closes without a
drain (DESIGN CHOICE, notes/assumptions/110). old: where the logical arrays stood before. -/
def keepGroups (s : State) (w : Nat) (old : Nat → Option (Nat × Nat)) : State :=
  forEach (s.arrs.groups.filter fun g => g.1 / 128 == w && g.2.live) s fun s g =>
    let l := g.1 / 4
    match old l, physOf s l with
    | some (ow, oa), some (nw, na) =>
      match (slotsOf s l).find? fun k => !(getSlot s nw na k).held with
      | some k =>
        let z := getSlot s ow oa g.2.slot
        setGroup (setSlot (setSlot s ow oa g.2.slot Slot.reset) nw na k z) l (g.1 % 4) { g.2 with slot := k }
      | none =>
        setGroup (setSlot s ow oa g.2.slot Slot.reset) l (g.1 % 4) (groupIssued s.run.tiles l (g.1 % 4) { g.2 with live := false })
    | _, _ => s

/-- Folds a retired Wing onto the next Wing that is neither retired nor serving a fold. old: where its logical arrays stood. -/
def foldWing (s : State) (w : Nat) (old : Nat → Option (Nat × Nat)) : State :=
  match ((List.range 31).map fun i => (w + 1 + i) % 32).find? fun h => !(getWing s h).retired && !(getWing s h).hostsFold with
  | none => loseWing s w
  | some h =>
    let s := modWing s w fun x => { x with foldedTo := BitVec.ofNat 5 h }
    let s := modWing s h fun x => { x with hostsFold := true, foldWing := BitVec.ofNat 5 w }
    mapRecord (keepGroups s w old) w 2 h

/-! ### Rounds that stop for a fault (rule R105) -/

/-- Whether a round has a tile in flight or an open group on a physical array. A tile that is only fetched ahead is neither (Table
13.1 names it beside the two). -/
def roundTouches (s : State) (w a q : Nat) (num : W32) : Bool :=
  (s.run.tiles.any fun t =>
    t.id.q == q && t.id.rnd == num && t.w == w && t.a == a && opArray (dOp t.d) && (tileHeld t || t.phase == .drainWait)) ||
  s.arrs.groups.any fun g => g.2.live && g.2.owner == some q && g.2.liveRnd == num && physOf s (g.1 / 4) == some (w, a)

/-- The rounds that touch an array stop at their next tile boundary everywhere (rule R105). -/
def stopRounds (s : State) (w a : Nat) : State :=
  forEach s.desk.queues s fun s x =>
    let hit := x.2.rounds.filter fun r => r.result.isNone && roundTouches s w a x.1 r.num
    settleLoss (forEach hit s fun s r => modRound s x.1 r.num fun r => { r with stopping := true, lostGuarantee := true }) x.1

/-- Every round that touches an array of a Wing stops. -/
def stopWing (s : State) (w : Nat) : State := forEach (List.range 33) s fun s b => stopRounds s w b

/-- Whether a failure of array a retires its Wing: the spare is used or failed, or another array of the Wing waits for it
(rules R109, R377). -/
def spareTaken (s : State) (w a : Nat) : Bool :=
  !spareFree s w || (List.range 33).any fun b => b != a && (getArr s w b).fault.isSome

/-- The rounds that the failure of an array stops: those on it, and all of the Wing when the Wing retires. -/
def stopFor (s : State) (w a : Nat) : State := if spareTaken s w a then stopWing s w else stopRounds s w a

/-- Retires a Wing whose array p has failed; a Wing that it served folds again (notes/assumptions/22). Its spare serves nothing
any more (Table 4.7). -/
def retireWing (s : State) (w p found : Nat) : State :=
  let x := getWing s w
  let old := physOf s
  let s := modWing s w fun x => { x with retired := true, hostsFold := false, foldWing := 0, spareUsed := false, spareFor := 0 }
  let s := mapRecord (writeFail s w p found) w 1 p
  let s := untakeTiles s fun t => t.w == w
  let s := foldWing s w old
  if x.hostsFold then foldWing s x.foldWing.toNat old else s

/-- The contents of an array's slots go to the spare with the logical array (rule R103). -/
def moveSlots (s : State) (w p : Nat) : State :=
  forEach (List.range 8) s fun s k => setSlot (setSlot s w 32 k (getSlot s w p k)) w p k Slot.reset

/-- A test or a check has found physical array p of Wing w failed. With an array of the Wing waiting for the spare that fails now,
the Wing will retire, and its rounds stop (rules R105, R109). -/
def arrayFailed (s : State) (w p found : Nat) : State :=
  let x := getWing s w
  if x.retired then s
  else if p = 32 ∧ !x.spareUsed then
    if x.spareFailed then s
    else
      let s := writeFail (modWing s w fun x => { x with spareFailed := true }) w p found
      if (List.range 33).any fun b => (getArr s w b).fault.isSome then stopWing s w else s
  else
    match servedBy s w p with
    | none => s
    | some i =>
      let s := modWing s w fun x =>
        if p = 32 then { x with spareFailed := true } else { x with failed := x.failed ||| BitVec.ofNat 32 (2 ^ p) }
      if spareFree s w && p != 32 then
        let s := modWing s w fun x => { x with spareUsed := true, spareFor := BitVec.ofNat 5 i }
        let s := untakeTiles s fun t => t.w == w && t.a == p
        mapRecord (writeFail (moveSlots s w p) w p found) (32 * w + i) 0 32
      else retireWing s w p found

end Sys2Proof.Machine
end

