-- ==== Sys2Proof/Machine/Compress.lean ====
section
/-! DEFINITION. Compressed forms (chapter 6): MPF blocks and SPX segments, their extents, expansion and slip causes. -/

namespace Sys2Proof.Machine

/-- Header fields of an MPF block (Table 6.2). -/
def mpfPaylen (h : Nat) : Nat := bits 63 52 h
def mpfPresent (h : Nat) : Nat := bits 47 40 h
def mpfRuns (h : Nat) : Nat := bits 38 32 h
def mpfB (h : Nat) : Nat := bits 7 4 h
def mpfCode (h : Nat) : Nat := bits 3 0 h

/-- Byte i of a payload of which paylen bytes exist: bytes at or beyond it are 0 (Table 6.7, cause 0x2). -/
def payByte (paylen : Nat) (pay : List Byte) (i : Nat) : Byte := if i < paylen then pay.getD i 0 else 0

/-- The run records (ZERO, LIT) of a ZRUN block; RUNS above 64 is taken as 64 (rule R151, Table 6.7). -/
def zrunRecs (h : Nat) (pay : List Byte) : List (Nat × Nat) :=
  (List.range (min (mpfRuns h) 64)).map fun r =>
    ((payByte (mpfPaylen h) pay (2 * r + 1)).toNat, (payByte (mpfPaylen h) pay (2 * r)).toNat)

/-- The units that run records expand to: none for a zero unit, some j for literal unit j; cut at `room` units. -/
def zrunUnits : List (Nat × Nat) → Nat → Nat → List (Option Nat)
  | [], _, _ => []
  | (z, l) :: t, lit, room =>
    let zs := min z room
    let ls := min l (room - zs)
    List.replicate zs none ++ (List.range ls).map (fun i => some (lit + i)) ++ zrunUnits t (lit + l) (room - zs - ls)

/-- The payload length that the block's code needs, N_code of rule R447. -/
def mpfNeed (b h : Nat) (pay : List Byte) : Nat :=
  match mpfCode h with
  | 0 => 128 * b
  | 1 => 128 * ((List.range b).filter fun j => bit j (mpfPresent h)).length
  | 2 => 32 + 32 * b
  | 3 =>
    let us := zrunUnits (zrunRecs h pay) 0 (16 * b)
    2 * min (mpfRuns h) 64 + 8 * (us.filter Option.isSome).length
  | _ => 0

/-- Payload bytes of a block that the Runner fetches, n of rule R447. -/
def mpfPayload (b h : Nat) (pay : List Byte) : Nat := min (min (mpfPaylen h) (mpfNeed b h pay)) (128 * b)

/-- The lowest cause of Table 6.7 that applies to an MPF block; room: bytes of the folio after the header. -/
def mpfCause (b h : Nat) (pay : List Byte) (room : Nat) : Option Nat :=
  let total := ((zrunRecs h pay).map fun r => r.1 + r.2).foldl (· + ·) 0
  if 128 * b < mpfPaylen h then some 1
  else if mpfPaylen h < mpfNeed b h pay then some 2
  else if mpfCode h = 3 ∧ (total ≠ 16 * b ∨ 64 < mpfRuns h) then some 3
  else if mpfB h ≠ b ∨ (mpfCode h = 1 ∧ mpfPresent h / 2 ^ b ≠ 0) then some 4
  else if 3 < mpfCode h then some 5
  else if room < mpfPayload b h pay then some 6
  else none

/-- The pass block that an MPF block expands to (rules R150, R151, R158): always 128·b bytes. -/
def mpfExpand (b h : Nat) (pay : List Byte) : List Byte :=
  let lim := min (mpfPaylen h) (128 * b)
  let byte := payByte lim pay
  match mpfCode h with
  | 0 => (List.range (128 * b)).map byte
  | 1 =>
    let stored := fun j => ((List.range b).filter fun i => j < i && bit i (mpfPresent h)).length
    (List.range b).flatMap fun k =>
      let j := b - 1 - k
      if bit j (mpfPresent h) then (List.range 128).map fun i => byte (128 * stored j + i)
      else List.replicate 128 0
  | 2 =>
    (List.range (64 * b)).flatMap fun k =>
      let at_ := 32 + k / 2
      let c := (byte at_).toNat
      let d := if k % 2 = 0 then c % 16 else c / 16
      if lim ≤ at_ then [0, 0] else [byte (2 * d), byte (2 * d + 1)]
  | 3 =>
    let base := 2 * min (mpfRuns h) 64
    let us := zrunUnits (zrunRecs h pay) 0 (16 * b)
    padTo 0 (128 * b) (us.flatMap fun u => match u with
      | none => List.replicate 8 0
      | some j => (List.range 8).map fun i => byte (base + 8 * j + i))
  | _ => List.replicate (128 * b) 0

/-- Set bits of a 64-bit bitmap, in ascending order. -/
def setBits (v : Nat) : List Nat := (List.range 64).filter fun i => bit i v

/-- The most values that a compressed SPX segment holds (rule R154). -/
def spxLimit (four : Bool) : Nat := if four then 48 else 56

/-- Bytes of a plain segment. -/
def segBytes (four : Bool) : Nat := if four then 32 else 64

/-- Extent of an SPX segment (rule R447). -/
def spxExtent (four raw : Bool) (bitmap : Nat) : Nat :=
  if raw then segBytes four
  else
    let n := min (setBits bitmap).length (spxLimit four)
    8 + if four then ceilDiv n 2 else n

/-- The cause of Table 6.7 that applies to a segment; room: bytes of its row record from its first byte. -/
def spxCause (four raw : Bool) (bitmap room : Nat) : Option Nat :=
  if room < spxExtent four raw bitmap then some 6
  else if !raw && spxLimit four < (setBits bitmap).length then some 7
  else none

/-- The plain block that a segment expands to (rules R152, R158). seg: its bytes, those past the row record's end being 0. -/
def spxExpand (four raw : Bool) (seg : List Byte) : List Byte :=
  if raw then padTo 0 (segBytes four) seg
  else
    let on := (setBits (natOf (padTo 0 8 seg))).take (spxLimit four)
    let vals := seg.drop 8
    let nib := fun j => let v := (vals.getD (j / 2) 0).toNat; if j % 2 = 0 then v % 16 else v / 16
    let el := fun i => match on.findIdx? (· == i) with
      | none => 0
      | some j => if four then nib j else (vals.getD j 0).toNat
    if four then (List.range 32).map fun i => BitVec.ofNat 8 (el (2 * i) + 16 * el (2 * i + 1))
    else (List.range 64).map fun i => BitVec.ofNat 8 (el i)

/-- Packs 4-bit values two to a byte, the even one in the low nibble; the last high nibble of an odd number of values is 0 (rule
R152; DESIGN CHOICE, notes/assumptions/93). -/
def packNibbles : List Nat → List Byte
  | [] => []
  | [a] => [BitVec.ofNat 8 (a % 16)]
  | a :: b :: t => BitVec.ofNat 8 (a % 16 + 16 * (b % 16)) :: packNibbles t

/-- An integer element as an unsigned w-bit pattern. -/
def intBits (w : Nat) (v : Int) : Nat := (v % (2 ^ w : Nat)).toNat

/-- A plain block of integer elements (rule R32). -/
def intBytes (four : Bool) (vs : List Int) : List Byte :=
  if four then packNibbles (vs.map (intBits 4)) else vs.map fun v => BitVec.ofNat 8 (intBits 8 v)

/-- A segment as Returns writes it: its RAW flag and its bytes (rule R154). -/
def spxEncode (four : Bool) (vs : List Int) : Bool × List Byte :=
  let nz := vs.filter (· != 0)
  if spxLimit four < nz.length then (true, intBytes four vs)
  else
    let bm := (vs.zipIdx.filter fun x => x.1 != 0).foldl (fun m x => m + 2 ^ x.2) 0
    (false, bytesOf 8 bm ++ intBytes four nz)

/-- The directory size of an SPX row record (rule R153). -/
def spxDir (pr : Nat) : Nat := 64 * ceilDiv pr 16
/-- The row-record size RS (rule R153). -/
def spxRow (four : Bool) (pr : Nat) : Nat := spxDir pr + pr * segBytes four

/-- The start of a row record as Returns writes it: directory and heap in use, and the count of segments and of raw ones.
Bits 30:19 of a directory entry are 0 (rule R154; DESIGN CHOICE, notes/assumptions/93). -/
def spxRowBytes (four : Bool) (segs : List (List Int)) : List Byte × Nat × Nat :=
  let enc := segs.map (spxEncode four)
  let dir := spxDir segs.length
  let (ents, _) := enc.foldl (fun (st : List Nat × Nat) e => ((b2n e.1 * 2 ^ 31 + st.2) :: st.1, st.2 + e.2.length)) ([], dir)
  (padTo 0 dir (ents.reverse.flatMap (bytesOf 4)) ++ enc.flatMap (·.2), segs.length, (enc.filter (·.1)).length)

end Sys2Proof.Machine
end

