-- ==== Sys2Proof/Machine/RealFn.lean ====
section
/-! DEFINITION. The functions of Tables 7.1 and 7.2 at a rational argument, rounded to a format. Each value is enclosed between
two multiples of 2^−P; when both ends round to the same bits, those are the bits of the exact value (rule R168;
notes/assumptions/16). An enclosure is a pair (lo, hi) of integers in units of 2^−P. -/

namespace Sys2Proof.Machine

/-- a / b rounded down, for b > 0. -/
def fdiv (a : Int) (b : Nat) : Int := a / (b : Int)
/-- a / b rounded up, for b > 0. -/
def cdiv (a : Int) (b : Nat) : Int := -((-a) / (b : Int))

/-- The enclosure of a rational. -/
def ivRat (p : Nat) (q : Rat) : Int × Int := (fdiv (q.num * 2 ^ p) q.den, cdiv (q.num * 2 ^ p) q.den)
def ivAdd (a b : Int × Int) : Int × Int := (a.1 + b.1, a.2 + b.2)
def ivSub (a b : Int × Int) : Int × Int := (a.1 - b.2, a.2 - b.1)
/-- The product of two enclosures of values that are not negative. -/
def ivMul (p : Nat) (a b : Int × Int) : Int × Int :=
  (max 0 (fdiv (max 0 a.1 * max 0 b.1) (2 ^ p)), cdiv (a.2 * b.2) (2 ^ p))
/-- The quotient of two enclosures, the second of a positive value. -/
def ivDiv (p : Nat) (a b : Int × Int) : Int × Int :=
  (fdiv (max 0 a.1 * 2 ^ p) b.2.toNat, cdiv (a.2 * 2 ^ p) (max 1 b.1).toNat)
/-- The quotient by a positive integer. -/
def ivDivN (a : Int × Int) (n : Nat) : Int × Int := (fdiv a.1 n, cdiv a.2 n)
def ivOne (p : Nat) : Int × Int := (2 ^ p, 2 ^ p)
def ivNeg (a : Int × Int) : Int × Int := (-a.2, -a.1)
/-- The enclosure widened by one unit above, for the rest of a series. -/
def ivUp (a : Int × Int) : Int × Int := (a.1, a.2 + 1)

/-- The integer square root, by bits from 2^k down. -/
def isqrtGo (n : Nat) : Nat → Nat → Nat
  | 0, r => if (r + 1) * (r + 1) ≤ n then r + 1 else r
  | k + 1, r =>
    let c := r + 2 ^ (k + 1)
    isqrtGo n k (if c * c ≤ n then c else r)

def isqrt (n : Nat) : Nat := if n = 0 then 0 else isqrtGo n (Nat.log2 n / 2 + 1) 0

/-- The square root of a rational that is not negative. -/
def ivSqrt (p : Nat) (q : Rat) : Int × Int :=
  let r := isqrt (q.num.natAbs * 2 ^ (2 * p) / q.den)
  ((r : Int), (r : Int) + 1)

/-- The sum of r^n / n! and onward. -/
def expSeries (p : Nat) (r : Int × Int) : Nat → Nat → Int × Int → Int × Int → Int × Int
  | 0, _, _, sum => sum
  | fuel + 1, n, t, sum =>
    let t := ivDivN (ivMul p t r) (n + 1)
    expSeries p r fuel (n + 1) t (ivAdd sum t)

def ivSquares (p : Nat) : Nat → Int × Int → Int × Int
  | 0, a => a
  | k + 1, a => ivSquares p k (ivMul p a a)

/-- e^x for x ≥ 0, x below 2^7: the series at x / 2^15, squared 15 times. -/
def ivExp (p : Nat) (x : Rat) : Int × Int :=
  let r := ivRat p (x / 32768)
  ivSquares p 15 (ivUp (expSeries p r 48 0 (ivOne p) (ivOne p)))

/-- e^x for any x of magnitude below 2^7. -/
def ivExpS (p : Nat) (x : Rat) : Int × Int := if x < 0 then ivDiv p (ivOne p) (ivExp p (-x)) else ivExp p x

/-- The sum of z^(2k+1) / (2k+1). -/
def atanhSeries (p : Nat) (z2 : Int × Int) : Nat → Nat → Int × Int → Int × Int → Int × Int
  | 0, _, _, sum => sum
  | fuel + 1, n, t, sum => atanhSeries p z2 fuel (n + 2) (ivMul p t z2) (ivAdd sum (ivDivN t n))

/-- ln v for 1 ≤ v ≤ 2. -/
def ivLn (p : Nat) (v : Rat) : Int × Int :=
  let z := ivRat p ((v - 1) / (v + 1))
  let s := ivUp (atanhSeries p (ivMul p z z) (p / 3 + 8) 1 z (0, 0))
  (2 * s.1, 2 * s.2)

/-- ln of an enclosed value between 1 and 2. -/
def ivLnI (p : Nat) (v : Int × Int) : Int × Int :=
  ((ivLn p (max 1 ((v.1 : Rat) / ((2 ^ p : Nat) : Rat)))).1, (ivLn p ((v.2 : Rat) / ((2 ^ p : Nat) : Rat))).2)

/-- 2^u for 0 ≤ u ≤ 1. -/
def ivExp2 (p : Nat) (u : Rat) : Int × Int :=
  let l := ivLn p 2
  let at_ := fun (n : Int) => u * ((n : Rat) / ((2 ^ p : Nat) : Rat))
  ((ivExp p (at_ l.1)).1, (ivExp p (at_ l.2)).2)

/-- atan(1/d) as an alternating series: the sums of its positive and of its negative terms. -/
def atanSeries (d2 : Nat) : Nat → Nat → Int × Int → (Int × Int) × (Int × Int) → (Int × Int) × (Int × Int)
  | 0, _, _, s => s
  | fuel + 1, n, t, s => atanSeries d2 fuel (n + 2) (ivDivN t d2) (s.2, ivAdd s.1 (ivDivN t n))

/-- atan(1/d), an even number of terms. -/
def ivAtanInv (p d : Nat) : Int × Int :=
  let s := atanSeries (d * d) (2 * (p / 4 + 4)) 1 (ivDivN (ivOne p) d) ((0, 0), (0, 0))
  let r := ivSub s.1 s.2
  (r.1 - 1, r.2 + 1)

/-- π = 16 atan(1/5) − 4 atan(1/239). -/
def ivPi (p : Nat) : Int × Int :=
  let a := ivAtanInv p 5
  let b := ivAtanInv p 239
  (16 * a.1 - 4 * b.2, 16 * a.2 - 4 * b.1)

/-- The square root of c·π for a rational c > 0. -/
def ivSqrtPi (p : Nat) (c : Rat) : Int × Int :=
  let a := ivPi p
  let at_ := fun (n : Int) => c * ((n : Rat) / ((2 ^ p : Nat) : Rat))
  ((ivSqrt p (at_ a.1)).1, (ivSqrt p (at_ a.2)).2)

/-- The sum of (−1)^n y^n / (n! (2n+1)), as the sums of its even and of its odd terms. -/
def erfSeries (p : Nat) (y : Int × Int) : Nat → Nat → Int × Int → (Int × Int) × (Int × Int) → (Int × Int) × (Int × Int)
  | 0, _, _, s => s
  | fuel + 1, n, t, s =>
    erfSeries p y fuel (n + 1) (ivDivN (ivMul p t y) (n + 1)) (s.2, ivAdd s.1 (ivDivN t (2 * n + 1)))

def ivErfSum (p : Nat) (y : Rat) : Int × Int :=
  let s := erfSeries p (ivRat p y) 420 0 (ivOne p) ((0, 0), (0, 0))
  let r := ivSub s.1 s.2
  (r.1 - 1, r.2 + 1)

/-- erf x for x > 0, x ≤ 7. -/
def ivErf (p : Nat) (x : Rat) : Int × Int :=
  let m := ivMul p (ivRat p (2 * x)) (ivErfSum p (x * x))
  ivDiv p m (ivSqrtPi p 1)

/-- x·Φ(x): x/2 + x²·S(x²/2)/√(2π) (Table 7.1, GELU). -/
def ivGelu (p : Nat) (x : Rat) : Int × Int :=
  let m := ivDiv p (ivMul p (ivRat p (x * x)) (ivErfSum p (x * x / 2))) (ivSqrtPi p 2)
  ivAdd (ivRat p (x / 2)) m

/-- 1/(1 + e^−x). -/
def ivSigmoid (p : Nat) (x : Rat) : Int × Int := ivDiv p (ivOne p) (ivAdd (ivOne p) (ivExpS p (-x)))

/-- tanh x for x > 0: 1 − 2/(e^2x + 1). -/
def ivTanh (p : Nat) (x : Rat) : Int × Int :=
  let e := ivExp p (2 * x)
  ivSub (ivOne p) (ivDiv p (ivRat p 2) (ivAdd e (ivOne p)))

/-- x times an enclosed value that is not negative. -/
def ivScale (p : Nat) (x : Rat) (a : Int × Int) : Int × Int :=
  if x < 0 then ivNeg (ivMul p (ivRat p (-x)) a) else ivMul p (ivRat p x) a

/-- ln(1 + e^x). -/
def ivSoftplus (p : Nat) (x : Rat) : Int × Int :=
  let l := ivLnI p (ivAdd (ivOne p) (ivExpS p (if x < 0 then x else -x)))
  if x < 0 then l else ivAdd (ivRat p x) l

/-- The GELU approximation of Table 7.7: 0.5x(1 + tanh(0.7978845608(x + 0.044715x³))). -/
def ivGeluTanh (p : Nat) (x : Rat) : Int × Int :=
  let a := ratAbs x
  let t := ivTanh p ((7978845608 / 10000000000) * (a + (44715 / 1000000) * a * a * a))
  let s := if x < 0 then ivSub (ivOne p) t else ivAdd (ivOne p) t
  ivScale p (x / 2) s

/-- The tabled function of a GFUNC at x: 1, 2 the fraction of a power of two; 3 ln; 5 v^(−1/2); 6 to 11 as Table 7.1;
0x18 the GELU of Table 7.7. -/
def ivFunc (g p : Nat) (x : Rat) : Int × Int :=
  match g with
  | 1 | 2 => ivExp2 p (x - 1)
  | 3 => ivLn p x
  | 5 => ivSqrt p (1 / x)
  | 6 => ivSigmoid p x
  | 7 => if x < 0 then ivNeg (ivTanh p (-x)) else ivTanh p x
  | 8 => ivGelu p x
  | 9 => ivScale p x (ivSigmoid p x)
  | 10 => ivSoftplus p x
  | 11 => if x < 0 then ivNeg (ivErf p (-x)) else ivErf p x
  | 0x18 => ivGeluTanh p x
  | _ => ivRat p (1 / x)

/-- The value of a GFUNC's tabled function, transformed by y ↦ a + b·y, rounded to a format, from the first of three
precisions at which both ends of the enclosure round alike. -/
def roundFunc (f : Fmt) (g : Nat) (x a b : Rat) : XV :=
  let ends := fun p =>
    let i := ivFunc g p x
    let u := encodeF f (.fin (a + b * ((i.1 : Rat) / ((2 ^ p : Nat) : Rat))) false)
    let v := encodeF f (.fin (a + b * ((i.2 : Rat) / ((2 ^ p : Nat) : Rat))) false)
    (u, v)
  let r := ends 200
  if r.1 = r.2 then decodeF f r.1
  else
    let r := ends 400
    if r.1 = r.2 then decodeF f r.1 else decodeF f (ends 800).1

/-- Values of a tabled function that are exact: they need no enclosure. -/
def exactFunc (g : Nat) (x : Rat) : Option Rat :=
  match g with
  | 3 => if x = 1 then some 0 else none
  | 4 => some (1 / x)
  | 6 => if x = 0 then some (1 / 2) else none
  | 7 | 8 | 9 | 11 | 0x18 => if x = 0 then some 0 else none
  | 1 | 2 => if x = 1 then some 1 else if x = 2 then some 2 else none
  | 5 => if x = 1 then some 1 else if x = 4 then some (1 / 2) else none
  | _ => none

/-- a + b·f(x), rounded to nearest (rule R168). -/
def tabled (f : Fmt) (g : Nat) (x a b : Rat) : XV :=
  match exactFunc g x with
  | some y => decodeF f (encodeF f (.fin (a + b * y) false))
  | none => roundFunc f g x a b

/-- 1/√q rounded to FP32, for q > 0 (rule R180). -/
def rsqrtF32 (q : Rat) : XV :=
  let s := floorLog2 q / 2
  tabled fp32 5 (q / pow2 (2 * s)) 0 (pow2 (-s))

end Sys2Proof.Machine
end

