-- ==== Sys2Proof/Machine/Rows.lean ====
section
/-! DEFINITION. The Glossary and the Ledger on one value or one row (chapter 7): built-in functions, user tables, Marl
compatibility mode, row statistics, normalisation and soft maximum. -/

namespace Sys2Proof.Machine

/-! ### Extended arithmetic -/

/-- The exact product. -/
def xvMul : XV → XV → XV
  | .nan, _ => .nan
  | _, .nan => .nan
  | .fin p np, .fin q nq =>
    let s := (decide (p < 0) || (p == 0 && np)) != (decide (q < 0) || (q == 0 && nq))
    .fin (p * q) (p * q == 0 && s)
  | a, b =>
    let zero := fun x => match x with
      | XV.fin q _ => q == 0
      | _ => false
    if zero a || zero b then .nan else .inf (xvNeg a != xvNeg b)

def xvSub (a b : XV) : XV := xvAdd a (xvFlip b)
/-- A positive or zero rational as a value. -/
def xvQ (q : Rat) : XV := .fin q false
/-- Whether a < b; false when one is a NaN. Zeros are equal. -/
def xvLt : XV → XV → Bool
  | .nan, _ => false
  | _, .nan => false
  | .inf a, .inf b => a && !b
  | .inf a, .fin _ _ => a
  | .fin _ _, .inf b => !b
  | .fin p _, .fin q _ => decide (p < q)
/-- The magnitude. -/
def xvAbs : XV → XV
  | .nan => .nan
  | .inf _ => .inf false
  | .fin q _ => .fin (ratAbs q) false
/-- Rounded once to a format, to nearest, as a value. -/
def xvRound (f : Fmt) (x : XV) : XV := decodeF f (encodeF f x)
def isNan : XV → Bool
  | .nan => true
  | _ => false

/-! ### Tables -/

/-- What a Glossary result counts as (rule R185): nothing, limited, or made NaN by its domain. -/
inductive GRes where | plain | limited | domain
  deriving DecidableEq, Repr

/-- The evaluation of a direct table of n segments, spb in each binade, at a magnitude within its range (rules R165, R166).
knot and c2 give the knots and the coefficients; quad: the table has coefficients. A sum that is exactly zero takes its sign as
rule R63 has it, and infinite knots or coefficients give a NaN where infinities cancel or meet a zero factor, also at t = 0 (DESIGN
CHOICE, notes/assumptions/95). -/
def tableAt (spb : Nat) (emin : Int) (z : XV) (knot c2 : Nat → XV) (quad : Bool) (n : Nat) (a : Rat) : XV :=
  if a < pow2 emin then xvAdd z (xvMul (xvSub (knot 0) z) (xvQ (a / pow2 emin)))
  else
    let e := floorLog2 a
    let r := (a / pow2 e - 1) * (spb : Rat)
    let k := r.num.natAbs / r.den
    let t := r - (k : Rat)
    let j := spb * (e - emin).toNat + k
    if n ≤ j then knot n
    else
      let v := xvAdd (knot j) (xvMul (xvSub (knot (j + 1)) (knot j)) (xvQ t))
      if quad then xvAdd v (xvMul (c2 j) (.fin (t * (t - 1)) false)) else v

/-- Seam j of a table with spb segments in each binade (rule R165). -/
def seamAt (spb : Nat) (emin : Int) (j : Nat) : Rat :=
  pow2 (emin + (j / spb : Nat)) * (((spb + j % spb : Nat) : Rat) / ((spb : Nat) : Rat))

/-- Knot j of a built-in table on one side: the exact value at the seam, rounded (rule R168). -/
def builtinKnot (f : Fmt) (g spb : Nat) (emin : Int) (neg : Bool) (j : Nat) : XV :=
  tabled f g (if neg then -seamAt spb emin j else seamAt spb emin j) 0 1

/-- Coefficient j of a built-in table, clamped for a function that is monotone on its side (rule R168). -/
def builtinC2 (g : Nat) (emin : Int) (neg mono : Bool) (j : Nat) : XV :=
  match builtinKnot fp32 g 16 emin neg j, builtinKnot fp32 g 16 emin neg (j + 1) with
  | .fin y _, .fin y' _ =>
    let m := (seamAt 16 emin j + seamAt 16 emin (j + 1)) / 2
    let c := tabled fp32 g (if neg then -m else m) (2 * (y + y')) (-4)
    if mono then
      let d := ratAbs (y' - y)
      match c with
      | .fin q _ => .fin (if q < -d then -d else if d < q then d else q) false
      | x => x
    else c
  | _, _ => .nan

/-- A built-in table side at a magnitude (rules R165 to R168). -/
def builtinAt (g : Nat) (emin : Int) (z : XV) (neg mono : Bool) (n : Nat) (a : Rat) : XV :=
  tableAt 16 emin z (builtinKnot fp32 g 16 emin neg) (builtinC2 g emin neg mono) true n a

/-- The constants of rule R167. -/
def log2e : Rat := match decodeF fp32 0x3FB8AA3B with
  | .fin q _ => q
  | _ => 0
def ln2c : Rat := match decodeF fp32 0x3F317218 with
  | .fin q _ => q
  | _ => 0

def ratFloor (q : Rat) : Int := q.num / (q.den : Int)

/-- A reduced function, formed exactly (rules R167, R170; Tables 7.2 and 7.4). at_ g n v evaluates the tabled function with n
segments at the reduced argument; round z for the EXP and EXP2 flush, which compatibility mode tests on z. -/
def reducedFn (g : Nat) (at_ : Nat → Rat → XV) (expFlush : Rat → Rat → Bool) (x : XV) : XV × GRes :=
  match g, x with
  | _, .nan => (.nan, .plain)
  | 1, .inf n => (if n then xvQ 0 else .inf false, .limited)
  | 2, .inf n => (if n then xvQ 0 else .inf false, .limited)
  | 3, .inf n => if n then (.nan, .domain) else (.inf false, .limited)
  | 4, .inf n => (.fin 0 n, .limited)
  | _, .inf n => if n then (.nan, .domain) else (xvQ 0, .limited)
  | 1, .fin q _ | 2, .fin q _ =>
    let z := if g = 1 then q * log2e else q
    if q = 0 then (xvQ 1, .plain)
    else if expFlush q z then (xvQ 0, .limited)
    else if 128 ≤ z then (.inf false, .limited)
    else
      let n := ratFloor z
      (xvMul (xvQ (pow2 n)) (at_ 16 (1 + z - (n : Rat))), .plain)
  | 3, .fin q _ =>
    if q = 0 then (.inf true, .plain)
    else if q < 0 then (.nan, .domain)
    else
      let n := floorLog2 q
      (xvAdd (xvQ ((n : Rat) * ln2c)) (at_ 16 (q / pow2 n)), .plain)
  | 4, .fin q nz =>
    if q = 0 then (.inf nz, .plain)
    else if pow2 126 < ratAbs q then (.fin 0 (decide (q < 0)), .limited)
    else
      let n := floorLog2 (ratAbs q)
      let v := xvMul (xvQ (pow2 (-n))) (at_ 16 (ratAbs q / pow2 n))
      (if q < 0 then xvFlip v else v, .plain)
  | _, .fin q nz =>
    if q = 0 then (.inf nz, .plain)
    else if q < 0 then (.nan, .domain)
    else
      let n := floorLog2 q / 2
      (xvMul (xvQ (pow2 (-n))) (at_ 32 (q / pow2 (2 * n))), .plain)

/-- Rounded once to FP32; below 2^−126 a zero with the sign of the value (rule R166). -/
def glossaryRound (v : XV) : XV :=
  match xvRound fp32 v with
  | .fin q nz => if q ≠ 0 ∧ ratAbs q < pow2 (-126) then .fin 0 (decide (q < 0)) else .fin q nz
  | x => x

/-- A subnormal argument is taken as a zero of the same sign (rule R166). -/
def glossaryArg (x : XV) : XV :=
  match x with
  | .fin q _ => if q ≠ 0 ∧ ratAbs q < pow2 (-126) then .fin 0 (decide (q < 0)) else x
  | _ => x

/-- A direct built-in function's shape (Table 7.3): odd, knot at 0, positive and negative segments, positive limit (none: x),
negative limit (none: handover), flush threshold and its result, whether the negative side is monotone. -/
structure DirectFn where
  odd : Bool
  spos : Nat
  sneg : Nat
  limX : Bool
  handover : Bool
  flush : Option (Rat × XV)
  negMono : Bool

def directFn (g : Nat) : DirectFn :=
  match g with
  | 6 => { odd := false, spos := 162, sneg := 160, limX := false, handover := true, flush := some (-88, xvQ 0), negMono := true }
  | 7 => { odd := true, spos := 148, sneg := 0, limX := false, handover := false, flush := none, negMono := true }
  | 8 => { odd := false, spos := 144, sneg := 148, limX := true, handover := false, flush := some (-10, .fin 0 true),
           negMono := false }
  | 9 => { odd := false, spos := 162, sneg := 160, limX := true, handover := true, flush := some (-92, .fin 0 true),
           negMono := false }
  | 10 => { odd := false, spos := 162, sneg := 160, limX := true, handover := true, flush := some (-88, xvQ 0), negMono := true }
  | _ => { odd := true, spos := 128, sneg := 0, limX := false, handover := false, flush := none, negMono := true }

/-- GFUNC EXP of an FP32 argument (rules R167, R170). -/
def glossaryExp (x : XV) : XV × GRes :=
  let r := reducedFn 1 (fun n v => builtinAt 1 0 (xvQ 0) false true n v) (fun q _ => decide (q < -88)) (glossaryArg x)
  (glossaryRound r.1, r.2)

/-- A direct built-in function: the flush test, then the range test, then the table (rules R170, R171). -/
def directAt (g : Nat) (x : XV) : XV × GRes :=
  let d := directFn g
  let z := tabled fp32 g 0 0 1
  let flushed := match d.flush with
    | some f => if xvLt x (.fin f.1 false) then some f.2 else none
    | none => none
  match flushed with
  | some v => (v, .limited)
  | none =>
    let neg := xvNeg x
    let mag := xvAbs x
    let n := if neg && !d.odd then d.sneg else d.spos
    let inRange := match mag with
      | .fin q _ => decide (q ≤ seamAt 16 (-6) n)
      | _ => false
    if inRange then
      let v := match mag with
        | .fin q _ => builtinAt g (-6) z (neg && !d.odd) (if neg && !d.odd then d.negMono else true) n q
        | _ => .nan
      (if neg && d.odd then xvFlip v else v, .plain)
    else if !neg || d.odd then
      let v := if d.limX then mag else xvQ 1
      (if neg then xvFlip v else v, .limited)
    else
      let knot := builtinKnot fp32 g 16 (-6) true n
      let e := (glossaryExp x).1
      if g = 9 then
        let v := xvRound fp32 (xvMul x e)
        (if xvLt v knot then knot else v, .limited)
      else (if xvLt e knot then e else knot, .limited)

/-- A built-in GFUNC of one FP32 value outside compatibility mode (rules R165 to R171, R185). -/
def glossaryFn (g : Nat) (x : XV) : XV × GRes :=
  match x with
  | .nan => (.nan, .plain)
  | _ =>
    let x := glossaryArg x
    if g = 1 then glossaryExp x
    else if g ≤ 5 then
      let r := reducedFn g (fun n v => builtinAt g 0 (xvQ 0) false true n v) (fun q _ => decide (q < -126)) x
      (glossaryRound r.1, r.2)
    else
      let r := directAt g x
      (glossaryRound r.1, r.2)

/-! ### Marl compatibility mode (rules R177, R178) -/

/-- Rounded toward zero to BF16. -/
def truncBf16 : XV → XV
  | .fin q nz =>
    if q = 0 then .fin 0 nz
    else
      let (base, k) := ulpParts bf16 (ratAbs q)
      decodeF bf16 (b2n (decide (q < 0)) * fmtSign bf16 + min (base + k.num.natAbs / k.den) (fmtInf bf16 - 1))
  | x => x

/-- A computed result in compatibility mode: rounded toward zero, +0 below 2^−126. -/
def compatRound (v : XV) : XV :=
  match truncBf16 v with
  | .fin q _ => if ratAbs q < pow2 (-126) then xvQ 0 else .fin q false
  | x => x

/-- Whether compatibility mode has the function (rule R177). -/
def compatHas (g : Nat) : Bool := g == 1 || g == 4 || g == 5 || g == 6 || g == 7 || g == 8

/-- A linear table of 8 segments a binade with BF16 knots (rule R178). -/
def compatAt (g : Nat) (emin : Int) (z : XV) (neg : Bool) (n : Nat) (a : Rat) : XV :=
  tableAt 8 emin z (builtinKnot bf16 g 8 emin neg) (fun _ => xvQ 0) false n a

/-- A built-in GFUNC in compatibility mode (rule R178, Table 7.7). -/
def compatFn (g : Nat) (x : XV) : XV × GRes :=
  match glossaryArg (xvRound bf16 x) with
  | .nan => (.nan, .plain)
  | x =>
    if g ≤ 5 then
      let r := reducedFn g (fun n v => compatAt g 0 (xvQ 0) false (n / 2) v) (fun _ z => decide (z < -126)) x
      if r.2 = .plain ∧ !xvBad x then (compatRound r.1, r.2) else r
    else
      let fn := if g = 8 then 0x18 else g
      let last : Rat := if g = 6 then 12 else 6
      let n := if g = 6 then 60 else 52
      let odd := g == 7
      let neg := xvNeg x
      match xvAbs x with
      | .fin q _ =>
        if q ≤ last then
          let v := compatAt fn (-4) (tabled bf16 fn 0 0 1) (neg && !odd) n q
          (compatRound (if neg && odd then xvFlip v else v), .plain)
        else if neg then (if g = 6 then xvQ 0 else if g = 7 then .fin (-1) false else .fin 0 true, .limited)
        else (if g = 8 then .fin q false else xvQ 1, .limited)
      | _ =>
        if neg then (if g = 6 then xvQ 0 else if g = 7 then .fin (-1) false else .fin 0 true, .limited)
        else (if g = 8 then .inf false else xvQ 1, .limited)

/-! ### User tables (rules R172 to R176) -/

def tblSym (h : List W32) : Nat := bits 11 10 (wordAt h 0)
def tblQuad (h : List W32) : Bool := bit 9 (wordAt h 0)
def tblEmin (h : List W32) : Int := signed 8 (wordAt h 0)
def tblSpos (h : List W32) : Nat := bits 15 0 (wordAt h 1)
def tblSneg (h : List W32) : Nat := bits 31 16 (wordAt h 1)
def tblLkPos (h : List W32) : Nat := bits 1 0 (wordAt h 5)
def tblLkNeg (h : List W32) : Nat := bits 3 2 (wordAt h 5)

/-- The header check of rule R174. -/
def tblOk (h : List W32) : Bool :=
  bits 31 12 (wordAt h 0) == 0 && !bit 8 (wordAt h 0) && bits 31 4 (wordAt h 5) == 0 &&
  ((h.take 16).drop 8).all (· == 0) && tblSym h != 3 && decide (tblLkPos h ≤ 1) && decide (tblLkNeg h ≤ 1) &&
  decide (-126 ≤ tblEmin h) && decide (tblSpos h ≤ 256) && decide (tblSneg h ≤ 256) &&
  (tblSneg h == 0 || tblSym h == 0) && decide (seamAt 16 (tblEmin h) (tblSpos h) ≤ pow2 127) &&
  decide (seamAt 16 (tblEmin h) (tblSneg h) ≤ pow2 127)

/-- The table's size in bytes from its header (rule R173); 64 for a header that fails its check. -/
def tblSize (h : List W32) : Nat :=
  if tblOk h then
    let side := fun n => n + 1 + if tblQuad h then n else 0
    64 + 4 * (side (tblSpos h) + if tblSym h = 0 then side (tblSneg h) else 0)
  else 64

/-- FP32 word i of a table. -/
def tblVal (ws : List W32) (i : Nat) : XV := decodeF fp32 (wordAt ws i)

/-- Evaluation of a user table at a value that is not a NaN (rules R165, R166, R173, R185). ws: the words of the table. A −0 argument
counts as negative, and FTZ_POS decides the sign of the zero of an argument past both thresholds (DESIGN CHOICE,
notes/assumptions/95). -/
def userAt (ws : List W32) (x : XV) : XV × GRes :=
  let sym := tblSym ws
  let neg := xvNeg x
  let arg := if sym ≠ 0 ∧ neg then xvAbs x else x
  let flip := fun v => if sym = 1 ∧ neg then xvFlip v else v
  let argNeg := xvNeg arg
  let qn := if tblQuad ws then tblSpos ws else 0
  let base := if argNeg then 16 + tblSpos ws + 1 + qn else 16
  let n := if argNeg then tblSneg ws else tblSpos ws
  let lk := if argNeg then tblLkNeg ws else tblLkPos ws
  let lim := tblVal ws (if argNeg then 4 else 3)
  let flush := (sym = 0 ∧ xvLt arg (tblVal ws 7)) ∨ xvLt (tblVal ws 6) arg
  if flush then
    let onNeg := !decide (xvLt (tblVal ws 6) arg)
    let sg := if onNeg then (if tblLkNeg ws = 1 then true else xvSignBit ws 4)
      else (if tblLkPos ws = 1 then false else xvSignBit ws 3)
    (flip (.fin 0 sg), .limited)
  else
    match xvAbs arg with
    | .fin q _ =>
      if q ≤ seamAt 16 (tblEmin ws) n then
        (flip (tableAt 16 (tblEmin ws) (tblVal ws 2) (fun j => tblVal ws (base + j)) (fun j => tblVal ws (base + n + 1 + j))
          (tblQuad ws) n q), .plain)
      else (flip (if lk = 1 then arg else lim), .limited)
    | _ => (flip (if lk = 1 then arg else lim), .limited)
where
  xvSignBit (ws : List W32) (i : Nat) : Bool := bit 31 (wordAt ws i)

/-- A user table's result, rounded, with its class (rules R166, R174, R185). -/
def userFn (ws : List W32) (x : XV) : XV × GRes :=
  match x with
  | .nan => (.nan, .plain)
  | _ =>
    let r := userAt ws (glossaryArg x)
    let v := glossaryRound r.1
    (v, if isNan v then .domain else r.2)

/-! ### The Ledger (rules R179 to R182) -/

def f64 : Fmt := { eb := 11, mb := 52 }

/-- The signs of the zeros of a row, in the row's order. -/
def rowSigns (row : List XV) : List Bool := row.filterMap fun x => match x with
  | .fin q nz => if q = 0 then some nz else none
  | _ => none

/-- The zero that is a row's maximum or minimum: with zeros of one sign, that zero; between zeros of both signs the manual states no
choice (DESIGN CHOICE, notes/assumptions/19), and the free value decides. -/
def rowZero (row : List XV) : XV :=
  let signs := rowSigns row
  .fin 0 (if signs.all id then true else if signs.any id then Config.zeroTie signs else false)

/-- The largest of a row in numeric order (rule R179). -/
def rowMax (row : List XV) : XV :=
  let m := row.foldl (fun a b => if xvLt a b then b else a) (row.headD .nan)
  match m with
  | .fin q _ => if q = 0 then rowZero row else m
  | x => x

/-- The smallest of a row in numeric order (rule R179). -/
def rowMin (row : List XV) : XV :=
  let m := row.foldl (fun a b => if xvLt b a then b else a) (row.headD .nan)
  match m with
  | .fin q _ => if q = 0 then rowZero row else m
  | x => x

def rowMaxAbs (row : List XV) : XV := row.foldl (fun a b => if xvLt a (xvAbs b) then xvAbs b else a) (xvAbs (row.headD .nan))

/-- sum, mean and variance of a row (rule R179). An exact sum of zero, of negative zeros too, is +0, as in an accumulator (DESIGN
CHOICE, notes/assumptions/114). -/
def rowMoments (row : List XV) : XV × XV × XV :=
  let n := row.length
  let inv := xvQ (1 / ((n : Nat) : Rat))
  let c := row.headD .nan
  let s := row.foldl (fun (s : XV × XV) x =>
    let d := xvRound fp32 (xvSub x c)
    (xvRound f64 (xvAdd s.1 d), xvRound f64 (xvAdd s.2 (xvMul d d)))) (xvQ 0, xvQ 0)
  let var := xvRound fp32 (xvMul (xvSub s.2 (xvMul (xvMul s.1 s.1) inv)) inv)
  (xvRound fp32 (xvAdd (xvMul (xvQ ((n : Nat) : Rat)) c) s.1), xvRound fp32 (xvAdd c (xvMul s.1 inv)),
    match var with
    | .fin q _ => if q ≤ 0 then xvQ 0 else var
    | _ => var)

def rowAny (p : XV → Bool) (row : List XV) : Bool := row.any p
def isPosInf : XV → Bool
  | .inf n => !n
  | _ => false
def isNegInf : XV → Bool
  | .inf n => n
  | _ => false

/-- STATS: one row of 16 (rules R179, R182). -/
def ledgerStats (row : List XV) : List XV :=
  let tail := List.replicate 10 (xvQ 0)
  if rowAny isNan row then List.replicate 6 .nan ++ tail
  else if rowAny xvBad row then
    let sm := if rowAny isPosInf row && rowAny isNegInf row then XV.nan else .inf (rowAny isNegInf row)
    [rowMax row, rowMin row, sm, sm, .nan, rowMaxAbs row] ++ tail
  else
    let m := rowMoments row
    [rowMax row, rowMin row, m.1, m.2.1, m.2.2, rowMaxAbs row] ++ tail

/-- Each element less the centre, times 1/√den (rule R180). A NORM_EPS outside the positive finite numbers goes through the same
formula: a negative or NaN denominator gives NaN, an infinite one the factor 0 (DESIGN CHOICE, notes/assumptions/114). -/
def ledgerScale (row : List XV) (den : XV) (centre : Option XV) : List XV :=
  let r := match den with
    | .fin q _ => if q ≤ 0 then XV.nan else rsqrtF32 q
    | .inf false => xvQ 0
    | _ => .nan
  row.map fun x => xvRound fp32 (xvMul (match centre with
    | some m => xvSub x m
    | none => x) r)

def ledgerLayernorm (eps : XV) (row : List XV) : List XV :=
  if rowAny xvBad row then row.map fun _ => .nan
  else
    let m := rowMoments row
    ledgerScale row (xvAdd m.2.2 eps) (some m.2.1)

def ledgerRmsnorm (eps : XV) (row : List XV) : List XV :=
  if rowAny xvBad row then row.map fun _ => .nan
  else
    let q := row.foldl (fun s x => xvRound f64 (xvAdd s (xvMul x x))) (xvQ 0)
    ledgerScale row (xvAdd (xvMul q (xvQ (1 / ((row.length : Nat) : Rat)))) eps) none

/-- SOFTMAX of a row and the EXP results that count in the Glossary (rules R181, R182, R185). -/
def ledgerSoftmax (compat : Bool) (row : List XV) : List XV × List GRes :=
  if rowAny isNan row then (row.map fun _ => .nan, [])
  else if rowAny isPosInf row then
    let c := (row.filter isPosInf).length
    let v := xvRound fp32 (xvQ (1 / ((c : Nat) : Rat)))
    (row.map fun x => if isPosInf x then v else xvQ 0, [])
  else if row.all isNegInf then (row.map fun _ => xvQ 0, [])
  else
    let m := rowMax row
    let e := row.map fun x =>
      let d := xvRound fp32 (xvSub x m)
      if compat then compatFn 1 d else glossaryExp d
    let s := e.foldl (fun s v => xvRound f64 (xvAdd s v.1)) (xvQ 0)
    let r := match s with
      | .fin q _ => if q = 0 then XV.nan else xvRound fp32 (xvQ (1 / q))
      | _ => .nan
    (e.map fun v => xvRound fp32 (xvMul v.1 r), e.map (·.2))

/-- LFUNC of one row (rule R161, Table 7.1), with the EXP results of a SOFTMAX. -/
def ledgerFn (lfunc : Nat) (compat : Bool) (eps : XV) (row : List XV) : List XV × List GRes :=
  match lfunc with
  | 1 => (ledgerStats row, [])
  | 2 => (ledgerLayernorm eps row, [])
  | 3 => (ledgerRmsnorm eps row, [])
  | _ => ledgerSoftmax compat row

/-- Cycles of a Ledger tile of m rows (rule R183). first: cycles of the first pass of a row; w: its elements. -/
def ledgerCycles (lfunc first w m : Nat) : Nat :=
  let later := (if lfunc = 4 then 2 else if lfunc = 1 then 0 else 1) * ceilDiv w 64
  let lat := if lfunc = 4 then 16 else 8
  first + later + lat + (m - 1) * max first (later + lat)

end Sys2Proof.Machine
end

