-- ==== Sys2Proof/Machine/Tiles.lean ====
section
/-! DEFINITION. Taking up tiles (rules R112 to R126, R219, R237, R89 to R93): which tile a Runner takes up next, and
the checks of Table 5.7. -/

namespace Sys2Proof.Machine

/-! ### Descriptors of a round (rules R112 to R114) -/

/-- Device address of descriptor i of a round. -/
def descAddr (s : State) (r : Round) (i : Nat) : Nat :=
  let f := getFolio s r.descFolio.toNat
  (if f.valid then folioBase f + r.descOffset else r.descBase) + 64 * i

/-- The 16 words of descriptor i of a round. -/
def descOf (s : State) (r : Round) (i : Nat) : List W32 := wordsOf (readMem s (descAddr s r i) 64)

/-- A tile that a Runner may take up next. -/
structure Cand where
  q : Nat
  rnd : Round
  idx : Nat
  d : List W32
  deriving DecidableEq, Repr

/-! ### The issue unit (rules R113, R127, Table 5.9)

It reads the descriptors of the admitted rounds in order and forwards each to the descriptor queue of its Runner, 64 tiles deep, of
which one place is kept for C0 while a reservation is in force. A round whose next descriptor finds its queue full stalls. The model
computes what stands in the queues from the admitted rounds, the higher class first (DESIGN CHOICE, notes/assumptions/111). -/

/-- How far the issue unit has come in a round: the index of the next descriptor, and whether its Runner's queue is full. -/
structure Issue where
  q : Nat
  rnd : W32
  upTo : Nat
  full : Bool
  deriving DecidableEq, Repr

/-- Tiles in the descriptor queues: of all classes by Runner, 4·w + r, and of the classes other than C0 by 128 + 4·w + r. -/
def queueFull (s : State) (cls k : Nat) (c : Tab Nat) : Bool :=
  decide (64 ≤ tabGet 0 c k) || (reservedAny s && cls != 0 && decide (63 ≤ tabGet 0 c (128 + k)))

def queuePut (cls k : Nat) (c : Tab Nat) : Tab Nat :=
  let c := tabSet 0 c k (tabGet 0 c k + 1)
  if cls = 0 then c else tabSet 0 c (128 + k) (tabGet 0 c (128 + k) + 1)

/-- Forwards the descriptors of a round from index i on, with what stands in the queues before and after. -/
def issueRound (s : State) (cls : Nat) (rd : Round) : Nat → Nat → Tab Nat → Nat × Bool × Tab Nat
  | 0, i, c => (i, false, c)
  | fuel + 1, i, c =>
    let d := descOf s rd i
    match if rd.taken.contains i then none else runnerOf s (dLarray d) with
    | none => if dLast d then (i + 1, false, c) else issueRound s cls rd fuel (i + 1) c
    | some (w, r) =>
      if queueFull s cls (4 * w + r) c then (i, true, c)
      else
        let c := queuePut cls (4 * w + r) c
        if dLast d then (i + 1, false, c) else issueRound s cls rd fuel (i + 1) c

/-- The rounds that the issue unit reads, with their queues, by class and order of admission. -/
def issueOrder (s : State) : List (Nat × Round) :=
  let key := fun (x : Nat × Round) => (ranClass x.2, x.2.order)
  sortBy (fun a b => decide ((key a).1 < (key b).1) || ((key a).1 == (key b).1 && decide ((key a).2 < (key b).2)))
    (s.desk.queues.flatMap fun x =>
      (x.2.rounds.filter fun r => r.state == .running && r.result.isNone && !r.stopping).map fun r => (x.1, r))

/-- What the issue unit has forwarded of every round, and what stands in the descriptor queues. -/
def issueAll (s : State) : List Issue × Tab Nat :=
  (issueOrder s).foldl (fun st x =>
    let r := issueRound s (ranClass x.2) x.2 (x.2.descCount - x.2.done) x.2.done st.2
    ({ q := x.1, rnd := x.2.num, upTo := r.1, full := r.2.1 } :: st.1, r.2.2)) ([], [])

def forwarded (iss : List Issue) (q : Nat) (rnd : W32) (i : Nat) : Bool :=
  iss.any fun x => x.q == q && x.rnd == rnd && decide (i < x.upTo)

def issueStalls (iss : List Issue) (q : Nat) (rnd : W32) : Bool := iss.any fun x => x.q == q && x.rnd == rnd && x.full

/-- What a scan of a stream for a Runner finds: a tile, that nothing may be taken up, or that the scan goes on, behind a FENCE
or not. -/
inductive Scan where
  | tile (c : Cand)
  | stop
  | on (fenced : Bool)
  deriving DecidableEq, Repr

/-- The first tile of a round from index i on that a Runner serves and nobody has taken up. An incomplete FENCE fills the window
for its stream, except for the B fetches of MATMUL tiles behind a FENCE with FUNC bit 0 = 1 (rules R119, R125). -/
def scanRound (s : State) (w r q : Nat) (rd : Round) : Nat → Nat → Bool → Scan
  | 0, _, fenced => .on fenced
  | fuel + 1, i, fenced =>
    let d := descOf s rd i
    if !rd.taken.contains i && runnerOf s (dLarray d) == some (w, r) then
      if fenced && dOp d != 1 then .stop else .tile { q := q, rnd := rd, idx := i, d := d }
    else if opFence (dOp d) && dFunc d % 2 == 0 then .stop
    else if dLast d then .on (fenced || opFence (dOp d))
    else scanRound s w r q rd fuel (i + 1) (fenced || opFence (dOp d))

/-- The next tile of a stream at a Runner, over its rounds in issue order (rules R105, R125, R254): a round that is not running
holds back the tiles behind it at a Runner that serves one of its own, except a round that stops for its re-execution. iss: how far
the issue unit has come in each round; a tile that it has not forwarded yet, or that follows a round in which it stalls, waits. -/
def scanStream (s : State) (iss : List Issue) (w r q : Nat) : List Round → Bool → Option Cand
  | [], _ => none
  | rd :: rest, fenced =>
    if rd.result.isSome || rd.stopping then scanStream s iss w r q rest fenced
    else
      match scanRound s w r q rd (rd.descCount - rd.done) rd.done fenced with
      | .tile c =>
        if cutShort s { q := q, rnd := rd.num, idx := c.idx } then scanStream s iss w r q rest fenced
        else if rd.state = .running && forwarded iss q rd.num c.idx then some c else none
      | .stop => none
      | .on f => if issueStalls iss q rd.num then none else scanStream s iss w r q rest f

/-- Class, place of the round and index decide between streams (rules R125, R128). -/
def candBefore (a b : Cand) : Bool :=
  let ka := ranClass a.rnd
  let kb := ranClass b.rnd
  decide (ka < kb) || (ka == kb && (decide (a.rnd.order < b.rnd.order) || (a.rnd.order == b.rnd.order && decide (a.idx < b.idx))))

/-- The tile that Runner r of Wing w takes up next; none of a queue that is being destroyed (rule R290). -/
def nextTile (s : State) (w r : Nat) : Option Cand :=
  let iss := (issueAll s).1
  (s.desk.queues.filterMap fun x => if x.2.state = 4 then none else scanStream s iss w r x.1 x.2.rounds false).foldl
    (fun b c => match b with
      | none => some c
      | some x => if candBefore c x then some c else b) none

/-! ### Order in a stream (rules R92, R105, R128) -/

/-- Whether tile x stands before tile y in their stream: rnds are the round numbers of the stream in order. -/
def streamBefore (rnds : List W32) (x y : TileId) : Bool :=
  if x.rnd = y.rnd then decide (x.idx < y.idx) else (rnds.takeWhile fun n => n != y.rnd).contains x.rnd

def streamRounds (s : State) (q : Nat) : List W32 := (getQ s q).rounds.map fun r => r.num

/-- Whether the tiles of an earlier round may hold back those of a later one: not while the earlier round stops for a fault or
runs again, except before a round that does so too. Only completion then stays in issue order (rule R105). -/
def mayHold (s : State) (q : Nat) (r later : W32) : Bool :=
  r == later || match findRound s q r, findRound s q later with
    | some x, some y => !x.stopping && (!x.reexecuted || y.reexecuted)
    | _, _ => true

/-- Whether one of n descriptors of a round from i on that no Runner has taken up satisfies a test. -/
def untakenAny (s : State) (rd : Round) (p : List W32 → Bool) : Nat → Nat → Bool
  | 0, _ => false
  | n + 1, i =>
    let d := descOf s rd i
    (!rd.taken.contains i && !rd.loanDone.contains i && p d) || (!dLast d && untakenAny s rd p n (i + 1))

/-- Whether a descriptor before a tile in its stream that no Runner has taken up satisfies a test on its round and itself. -/
def untakenBefore (s : State) (x : Tile) (p : Round → List W32 → Bool) : Bool :=
  let rounds := (getQ s x.id.q).rounds
  ((rounds.takeWhile fun r => r.num != x.id.rnd).any fun r =>
      r.result.isNone && mayHold s x.id.q r.num x.id.rnd && untakenAny s r (p r) (r.descCount - r.done) r.done) ||
    rounds.any fun r => r.num == x.id.rnd && untakenAny s r (p r) (x.id.idx - r.done) r.done

/-! ### The window (rules R125, R126, Table 5.14) -/

/-- Tiles ahead at a Runner. -/
def aheadCount (s : State) (w r : Nat) : Nat :=
  (s.run.tiles.filter fun t => t.w == w && t.r == r && t.phase == .ahead).length

def windowOf (s : State) (w r : Nat) : Nat := max 2 (min 64 (getRun s w r).window.toNat)

/-- Whether the window has a place for a tile of a class. While a C0 reservation is in force the tiles of the other classes leave
one place to C0 (rule R126). -/
def windowFree (s : State) (w r cls : Nat) : Bool :=
  let others := (s.run.tiles.filter fun t => t.w == w && t.r == r && t.phase == .ahead && t.cls != 0).length
  decide (aheadCount s w r < windowOf s w r) && (!reservedAny s || cls == 0 || decide (others + 1 < windowOf s w r))

/-! ### Shelfmarks (rules R143, R172, R219, R317, R319) -/

def hintOf (s : State) (fid : Nat) : Nat := (getFolio s fid).hint.toNat

def useOk (s : State) (f : Nat) (u : ShelfUse) : Bool :=
  folioOk s u.folio f && u.hints.contains (hintOf s u.folio) &&
    u.ends.all fun e => decide (e ≤ folioSize (getFolio s u.folio))

/-- The binding that a tile's GFUNC selects: folio and byte offset. -/
def tableBinding (at_ : Attrs) (d : List W32) : Option (Nat × Nat) :=
  if hasSt d 2 && decide (0xC ≤ dGfunc d) then
    let b := at_.tables.getD (dGfunc d - 0xC) (0, 0)
    some (b.1.toNat, 64 * b.2.toNat)
  else none

/-- The user table that a tile needs lies whole in a folio of the tenant (rule R172). -/
def tableOk (s : State) (f : Nat) (b : Option (Nat × Nat)) : Bool :=
  match b with
  | none => true
  | some (fid, off) =>
    folioOk s fid f && decide (off + 64 ≤ folioSize (getFolio s fid)) &&
      decide (off + tblSize (wordsOf (folioData s fid off 64)) ≤ folioSize (getFolio s fid))

/-- The ring record at C's AUX (rule R319). -/
def ringRecord (s : State) (d : List W32) : List Byte := folioData s (dFolio d 2) (dAux d 2) 256
def ringCount (rec_ : List Byte) : Nat := (rec_.getD 0 0).toNat
def ringRank (rec_ : List Byte) : Nat := (rec_.getD 1 0).toNat
def ringMember (rec_ : List Byte) (i : Nat) : Nat := natOf ((rec_.drop (4 + 2 * i)).take 2)

/-- Whether a collective's ring record lies in a folio that its tenant may name. -/
def ringHere (s : State) (f : Nat) (d : List W32) : Bool :=
  opColl (dOp d) && folioOk s (dFolio d 2) f && decide (dAux d 2 + 256 ≤ folioSize (getFolio s (dFolio d 2)))

/-- Where a collective's ring record stands. -/
def ringAddr (s : State) (d : List W32) : Nat := folioBase (getFolio s (dFolio d 2)) + dAux d 2

/-- A ring record that cannot be read. -/
def ringLost (s : State) (f : Nat) (d : List W32) : Bool := ringHere s f d && !(ueIn s (ringAddr s d) 256).isEmpty

/-- A readable ring record that rule R319 rejects. -/
def ringBad (s : State) (f : Nat) (d : List W32) : Bool :=
  ringHere s f d && !ringLost s f d &&
    (let rec_ := ringRecord s d
     let n := ringCount rec_
     let r := ringRank rec_
     decide (n < 2) || decide (126 < n) || decide (n ≤ r) || (rec_.getD 2 0) != 0 || (rec_.getD 3 0) != 0 ||
       ringMember rec_ r != selfNode s)

/-- Every folio that the tile names on this node is the tenant's, large enough and of an accepted hint (rules R219, R317). -/
def shelfOk (s : State) (f : Nat) (at_ : Attrs) (d : List W32) : Bool :=
  let op := dOp d
  (shelfUses (hintOf s) (ringCount (ringRecord s d)) d).all (useOk s f) &&
    (if (op = 0x0A ∨ op = 0x0B) ∧ dDest d = selfNode s then
       let other := getFolio s (dFolio d (if op = 0x0A then 2 else 0))
       !other.valid || other.hint == (getFolio s (dFolio d (if op = 0x0A then 0 else 2))).hint
     else true) &&
    tableOk s f (tableBinding at_ d)

/-- The folios that the tile's lookups read. -/
def lookups (at_ : Attrs) (d : List W32) : List Nat :=
  folioNames d ++ match tableBinding at_ d with
    | some b => [b.1]
    | none => []

/-! ### Groups (rules R89 to R93, Table 4.3) -/

/-- The first group check that fails, as a status of Table 5.7; 0 when none does. res: a C0 reservation is in force. -/
def groupCheck (g : Group) (q cls : Nat) (res : Bool) (d : List W32) : Nat :=
  let mine := g.owner == some q
  if g.issuedOpen && mine && !opening d && shapeOf d != g.shape then 4
  else if g.owner.isSome && !mine then 5
  else if opening d && g.issuedOpen then 6
  else if !opening d && !g.issuedOpen then 7
  else if opening d && dGroup d == 3 && cls != 0 && res then 8
  else 0

/-- The group is an open I48 group of the stream, which takes no accumulator write (rule R95). -/
def i48Open (g : Group) (q : Nat) : Bool := g.issuedOpen && g.owner == some q && g.shape.mode == 3

/-! ### Take-up -/

/-- Whether the issue unit cannot read the descriptor (rules R113, R200). -/
def descBad (s : State) (c : Cand) : Bool := !(ueIn s (descAddr s c.rnd c.idx) 64).isEmpty

/-- The status that an unreadable descriptor or the Runner's checks, in the order of Table 5.7, give a tile; 0 when nothing fails. -/
def takeUpStatus (s : State) (c : Cand) : Nat :=
  let f := c.q / 32
  let at_ := c.rnd.attrs
  if descBad s c then 0x0B
  else if !formatOk compatHas at_ c.rnd.cls.toNat c.rnd.mask c.d || ringBad s f c.d ||
      (dOp c.d == 3 && i48Open (getGroup s (dLarray c.d) (dGroup c.d)) c.q) then 1
  else if ringLost s f c.d then 0x0B
  else if !routeOk (selfNode s) c.d then 2
  else if (lookups at_ c.d).any (entryBad s) then 0x0B
  else if !shelfOk s f at_ c.d then 3
  else if opArray (dOp c.d) then
    groupCheck (getGroup s (dLarray c.d) (dGroup c.d)) c.q (ranClass c.rnd) (reservedAny s) c.d
  else 0

/-- Whether a tile is ahead once it is taken up, so that it needs a place of the window: not a FENCE, one that its checks reject, or
one that a re-execution does not perform again (rules R106, R125). -/
def needsPlace (s : State) (c : Cand) : Bool :=
  takeUpStatus (closeKept s c.q) c == 0 && !opFence (dOp c.d) && !c.rnd.loanDone.contains c.idx

/-- Whether a Runner takes up tiles as far as its window goes: with as many tiles ahead as WINDOW says it takes up none (rules R125,
R126). -/
def placeFor (s : State) (w r : Nat) (c : Cand) : Bool :=
  if needsPlace s c then windowFree s w r (ranClass c.rnd) else decide (aheadCount s w r < windowOf s w r)

/-- A tile as its take-up leaves it: a collective keeps its ring record as it stands then (rule R319). -/
def newTile (s : State) (w r : Nat) (c : Cand) (st : Nat) (phase : Phase) : Tile :=
  { id := { q := c.q, rnd := c.rnd.num, idx := c.idx }, d := c.d, w := w, r := r,
    a := match physOf s (dLarray c.d) with
      | some x => x.2
      | none => dLarray c.d % 32,
    cls := BitVec.ofNat 2 (ranClass c.rnd), order := c.rnd.order, phase := phase, hop := 0, wtGot := 0, actGot := 0,
    auxGot := false, fetched := [0, 0, 0], passDone := 0, tableReady := false, table := none, rows := [], status := BitVec.ofNat 8 st,
    sat := false, replayed := false, nonfinite := false, maxabs := 0, clip := 0, startCyc := none, charged := 0,
    stamp := s.clk.now, waitFrom := none, rerun := false, fifo := false, readyFrom := none,
    loan := { LoanSt.reset with ring := if opColl (dOp c.d) then ringRecord s c.d else [] } }

/-- Cycles of a stall that ends now, added to its counter. -/
def stallCycles (s : State) (from_ : Option Nat) : Nat :=
  match from_ with
  | some t => (s.clk.acyc - t) / 1000
  | none => 0

/-- The Runner's Shelfmark cache after a lookup: 512 entries, the latest first (rule R219). -/
def cacheLook (cache : List Nat) (ids : List Nat) : List Nat := (ids ++ cache.filter fun i => !ids.contains i).take 512

/-- The Shelfmark entries that a Runner looks up for a tile and does not hold in its cache; an uncorrectable one is in no cache. -/
def looked (s : State) (w r : Nat) (c : Cand) : List Nat :=
  (lookups c.rnd.attrs c.d).filter fun i => entryBad s i || !(getRun s w r).cache.contains i

/-- The errors that the lookups and the ring record of a tile meet (rules R368, R370). -/
def lookErrors (s : State) (w r : Nat) (c : Cand) (t : TileId) : State :=
  let s := forEach (looked s w r c) s fun s i => (readErrors s (entryAddr i) 16 .station (some t)).2
  if ringHere s (c.q / 32) c.d then (readErrors s (ringAddr s c.d) 256 .station (some t)).2 else s

/-- Whether a closed slot of a group still drains. -/
def groupDrains (s : State) (l g : Nat) : Bool := s.arrs.slots.any fun z => z.2.draining && z.2.larray == l && z.2.group == g

/-- A snapshot that names a group neither open nor draining: the Wing's window buffer is zeros, and RESULT is NOT_OPEN (rule R98). No
transfer ends, so DONE stays (DEDUCED, notes/assumptions/100). -/
def snapshotNone (s : State) (w : Nat) : State := modWing s w fun x => { x with winBuf := [], accResult := 1, accTokens := 0 }

/-- The Runner takes the tile up (rules R119, R124, R125, R292). -/
def takeUp (s : State) (w r : Nat) (c : Cand) : State :=
  let s := closeKept s c.q
  let st := takeUpStatus s c
  let l := dLarray c.d
  let skip := c.rnd.loanDone.contains c.idx
  let phase : Phase := if st ≠ 0 || skip then .finished else if opFence (dOp c.d) then .fenced else .ahead
  let t := newTile s w r c st phase
  let s := s.setRun { s.run with tiles := s.run.tiles ++ [t] }
  let s := modRound s c.q c.rnd.num fun x => { x with taken := c.idx :: x.taken }
  let bad := descBad s c
  let s := (readErrors s (descAddr s c.rnd c.idx) 64 .desk (some t.id)).2
  let look := !bad && st != 1 && st != 2
  let s := if look then lookErrors s w r c t.id else s
  let s := modRun s w r fun x =>
    { x with cntWin := satAdd x.cntWin (stallCycles s x.stallWin), stallWin := none,
             cache := if look then cacheLook x.cache ((lookups c.rnd.attrs c.d).filter fun i => !entryBad s i) else x.cache }
  let s := if st ≠ 0 then loseRound s c.q c.rnd.num else s
  let s := if st = 5 then modArr s w t.a fun x => { x with ownFaults := satAdd x.ownFaults 1 } else s
  let s := if st = 7 && dOp c.d == 2 && !groupDrains s l (dGroup c.d) then snapshotNone s w else s
  if phase == .ahead && opArray (dOp c.d) then modGroup s l (dGroup c.d) fun g => claimGroup g c.q c.rnd.num c.d else s

end Sys2Proof.Machine
end

