-- ==== Sys2Proof/Machine/Fetch.lean ====
section
/-! DEFINITION. Fetches (rules R123, R125, R126, R136, R145, R146, R148, R157, R447, R450): what the Runner brings into a
partition of a Carrel bank for each pass or slab, and the commands SLAB_ARRIVE and PSPLIT_CHANGE. -/

namespace Sys2Proof.Machine

/-! ### Partitions (Table 5.6) -/

/-- WT, ACT, AUX and IN in KiB. -/
def partSizes (split : Nat) : List Nat :=
  if split = 0 then [128, 64, 32, 32] else if split = 1 then [208, 16, 16, 16] else if split = 2 then [64, 128, 32, 32]
  else [16, 176, 16, 48]

def partNo : Part → Nat
  | .wt => 0
  | .act => 1
  | .aux => 2
  | .inp => 3

/-- Bank offset and bytes of a partition. -/
def partRange (split : Nat) (p : Part) : Nat × Nat :=
  let ks := partSizes split
  (1024 * sumNat (ks.take (partNo p)), 1024 * ks.getD (partNo p) 0)

/-- Bytes of a transfer unit (rule R126). -/
def unitBytes : Nat := 8192

/-- Bytes of a partition that a buffer holds: whole transfer units, or whole 64-byte lines (rules R126, R136, R450). -/
def bufSpan (b : Buf) : Nat := roundUp b.len (if b.unit then unitBytes else 64)

/-- Whether a range of a bank is free. -/
def spanFree (bufs : List Buf) (off n : Nat) : Bool :=
  bufs.all fun b => decide (b.off + bufSpan b ≤ off) || decide (off + n ≤ b.off)

/-- The units of a partition, by number, that a buffer at off stands in. -/
def unitsOf (lo : Nat) (b : Buf) : List Nat :=
  let first := (b.off - lo) / unitBytes
  (List.range ((b.off + bufSpan b - lo + unitBytes - 1) / unitBytes - first)).map (first + ·)

/-- Where a buffer may begin in a partition: at a transfer unit for one that takes units, else at a line. -/
def startsOf (bufs : List Buf) (lo size : Nat) (b : Buf) : List Nat :=
  let units := (List.range (size / unitBytes)).map fun i => lo + unitBytes * i
  if b.unit then units else (bufs.filter (!·.unit)).map (fun x => x.off + bufSpan x) ++ units

/-- The first free place of a partition that takes a buffer (notes/assumptions/14): beside data of other passes in a unit that
holds such data, else from the lowest free unit on. A buffer never crosses from one unit into another that it does not fill
(rule R136: a fetch fits one unit). kept: the units that other classes leave to C0 tiles, and whose data counts against them. -/
def placeIn (bufs : List Buf) (lo size : Nat) (kept : Option (Buf → Bool)) (b : Buf) : Option Nat :=
  let n := bufSpan b
  let fits := fun o =>
    let c := { b with off := o }
    decide (o + n ≤ lo + size) && (b.unit || decide ((o - lo) / unitBytes = (o + n - 1 - lo) / unitBytes)) && spanFree bufs o n &&
      match kept with
      | none => true
      | some other => decide ((((c :: bufs.filter other).flatMap (unitsOf lo)).eraseDups).length + 1 ≤ size / unitBytes)
  (startsOf bufs lo size b).find? fits

/-- Places data in a partition; none when the partition has no room for it. other: while a C0 reservation is in force, whether a
buffer is of a tile of another class, for data of such a tile: it leaves one transfer unit for C0 tiles (rule R126). -/
def placeBuf (y : Arr) (other : Option (Buf → Bool)) (b : Buf) : Option Arr :=
  let (lo, size) := partRange y.split.toNat b.part
  (placeIn (y.bufs.filter fun x => x.part == b.part) lo size other b).map fun o => { y with bufs := y.bufs ++ [{ b with off := o }] }

/-- What rule R126 keeps from a tile's data in the partitions of a bank. -/
def keptFrom (s : State) (x : Tile) : Option (Buf → Bool) :=
  if reservedAny s && x.cls != 0 then
    some fun b => match findTile s b.t with
      | some y => y.cls != 0
      | none => false
  else none

/-! ### Operand bytes in memory -/

/-- Bytes of a folio; a byte past its end is not read and counts as 0. -/
def folioRead (s : State) (fid off n : Nat) : List Byte :=
  padTo 0 n (folioData s fid off (min n (folioSize (getFolio s fid) - off)))

/-- What one read of a folio brings: bytes, the tags kept beside them, the ranges read (folio offset, bytes), and the format
slip that an expansion of it counts. -/
structure Got where
  bytes : List Byte
  tag : List Byte
  reads : List (Nat × Nat)
  slip : Option Nat
  deriving DecidableEq, Repr

/-- Index-side block (c, p) of operand B: a plain pass block, or an MPF block with its header and the bytes of the folio after
its header as tag (rules R25, R145, R148, R447). -/
def getBlock (s : State) (d : List W32) (c p : Nat) : Got :=
  let fid := dFolio d 1
  let b := planesOf (dIfmt d)
  let kt := dKtot d
  if hintOf s fid = 1 then
    let e := dOff d 1 + 4 * (c * kt + p)
    let off := dOff d 1 + 8 * (natOf (folioRead s fid e 4) % 2 ^ 24)
    let h := natOf (folioRead s fid off 8)
    let room := folioSize (getFolio s fid) - (off + 8)
    let all := folioRead s fid (off + 8) (128 * b)
    let n := min room (mpfPayload b h all)
    { bytes := all.take n, tag := bytesOf 8 h ++ bytesOf 4 room,
      reads := [(e, 4), (off, min 8 (folioSize (getFolio s fid) - off)), (off + 8, n)], slip := mpfCause b h all room }
  else
    let off := dOff d 1 + idxOff b kt c p
    { bytes := folioData s fid off (128 * b), tag := [], reads := [(off, 128 * b)], slip := none }

/-- The pass block that fetched bytes stand for, and its slip (rule R158): packed when they carry a tag. -/
def blockOf (d : List W32) (bytes tag : List Byte) : List Byte × Option Nat :=
  if tag.isEmpty then (bytes, none)
  else
    let b := planesOf (dIfmt d)
    let h := natOf (tag.take 8)
    (mpfExpand b h bytes, mpfCause b h bytes (natOf (tag.drop 8)))

/-- The table-side segment of token row m for pass p: a plain block, or an SPX segment with its directory entry and its
length as tag (rules R32, R152, R153, R447). -/
def getSeg (s : State) (d : List W32) (m p : Nat) : Got :=
  let fid := dFolio d 0
  let tf := dTfmt d
  let kt := dKtot d
  if hintOf s fid = 2 then
    let four := tf % 2 == 1
    let rec_ := dOff d 0 + m * spxRow four kt
    let e := natOf (folioData s fid (rec_ + 4 * p) 4)
    let off := e % 2 ^ 19
    let room := spxRow four kt - off
    let bitmap := natOf (folioData s fid (rec_ + off) (min 8 room))
    let n := min room (spxExtent four (bit 31 e) bitmap)
    { bytes := folioData s fid (rec_ + off) n, tag := bytesOf 4 e ++ bytesOf 2 n, reads := [(rec_ + 4 * p, 4), (rec_ + off, n)],
      slip := none }
  else
    let off := dOff d 0 + actOff tf kt m p
    { bytes := folioData s fid off (tfBytes tf), tag := [], reads := [(off, tfBytes tf)], slip := none }

/-- The 64 integers that a fetched segment stands for, and its slip. -/
def segOf (d : List W32) (bytes tag : List Byte) : List Int × Option Nat :=
  let four := dTfmt d % 2 == 1
  if tag.isEmpty then (blockInts four bytes, none)
  else
    let e := natOf (tag.take 4)
    let bitmap := natOf (bytes.take 8)
    (blockInts four (spxExpand four (bit 31 e) bytes),
      spxCause four (bit 31 e) bitmap (spxRow four (dKtot d) - e % 2 ^ 19))

/-- The preload tile: folio, first byte, bytes (rules R87, R450). -/
def preRange (d : List W32) : Nat × Nat × Nat :=
  (dFolio d (if dDsel d then 2 else 1), dDoff d,
    (if dPreBcast d then 1 else dM d) * (16 * dBlocks d) * (if dPreBf d then 2 else 4))

/-- Bytes of an element of an ACC_WRITE source. -/
def srcEl (d : List W32) : Nat := if dIfmt d = 1 then 2 else 4
/-- Where row m of an ACC_WRITE source stands in its folio (rules R95, R121). -/
def srcOff (d : List W32) (m : Nat) : Nat := dOff d 0 + ((dM0 d + m) * (16 * dNtot d) + 16 * dC0 d) * srcEl d

/-- Rows of a slab, and slabs of a row tile (rule R136). -/
def slabRows (d : List W32) : Nat := min (dM d) (8192 / rowBytes d)
def slabCount (d : List W32) : Nat := ceilDiv (dM d) (slabRows d)
/-- First row and rows of slab k. -/
def slabRange (d : List W32) (k : Nat) : Nat × Nat := (k * slabRows d, min (slabRows d) (dM d - k * slabRows d))

/-- Bytes of exponents of one input row in an integer format. -/
def rowExps (d : List W32) : Nat := if intRowExp (dIfmt d) then 1 else dKtot d / 4

/-! ### The passes of a tile (rules R71, R100) -/

/-- The passes that a MATMUL tile runs on its array, in order, each with its column blocks: the passes of its descriptor, or those
of its saturation replay, first over column block 0, then over column block 1. -/
def seqOf (x : Tile) : List (Nat × List Nat) :=
  if x.rerun then [0, 1].flatMap fun c => (dPasses x.d).map fun p => (p, [c])
  else (dPasses x.d).map fun p => (p, List.range (dBlocks x.d))

/-- The i-th of them. -/
def seqAt (x : Tile) (i : Nat) : Nat × List Nat := (seqOf x).getD i (0, [])

/-! ### Lines of scales and exponents (rule R450) -/

/-- Removes later repeats of a list. -/
def nub {α : Type} [DecidableEq α] (l : List α) : List α := l.foldl (fun a x => if x ∈ a then a else a ++ [x]) []

/-- The lines that a pass needs: folio offset and bytes. -/
def linesOf (d : List W32) (p : Part) (pass : Nat × List Nat) : List (Nat × Nat) :=
  match p with
  | .wt =>
    if dSmode d = 3 then [(dAux d 1 + 32 * (dC0 d + pass.2.headD 0), 32 * pass.2.length)]
    else
      nub (pass.2.map fun c =>
        ((dAux d 1 + (scaleOff (dSmode d) (dKtot d) (dC0 d + c) 0 pass.1).1) / 64 * 64, 64))
  | .act =>
    if tfRow (dTfmt d) then [(dAux d 0 + dM0 d, dM d)]
    else
      nub ((List.range (dM d)).map fun m => ((dAux d 0 + expOff (dTfmt d) (dKtot d) (dM0 d + m) pass.1) / 64 * 64, 64))
  | _ => []

/-- The run that the i-th pass belongs to: a saturation replay runs twice, and fetches what it needs in each run (rule R71). -/
def runNo (x : Tile) (i : Nat) : Nat := if x.rerun then i / dP x.d else 0

/-- The passes of that run before the i-th, and those after it. -/
def runBefore (x : Tile) (i : Nat) : List (Nat × List Nat) := ((seqOf x).take i).drop (runNo x i * dP x.d)
def runAfter (x : Tile) (i : Nat) : List (Nat × List Nat) := ((seqOf x).take ((runNo x i + 1) * dP x.d)).drop (i + 1)

/-- The lines fetched with the i-th pass: those that no pass of its run before it needed. -/
def linesAt (x : Tile) (p : Part) (i : Nat) : List (Nat × Nat) :=
  let before := (runBefore x i).flatMap (linesOf x.d p)
  (linesOf x.d p (seqAt x i)).filter fun l => !before.contains l

/-- Whether a pass of its run after the i-th needs a line. -/
def lineLater (x : Tile) (p : Part) (i off : Nat) : Bool :=
  (runAfter x i).any fun pass => (linesOf x.d p pass).any fun l => l.1 == off

/-- Whether the i-th pass needs a line buffer. -/
def lineUsed (x : Tile) (i : Nat) (b : Buf) : Bool :=
  b.line && b.blk == runNo x i && (linesOf x.d b.part (seqAt x i)).any fun l => l.1 == b.idx

/-! ### What is fetched next -/

/-- A piece of a fetch: the buffer it becomes, its bytes, and the ranges of its folio that it reads. -/
structure Piece where
  buf : Buf
  bytes : List Byte
  folio : Nat
  reads : List (Nat × Nat)
  slip : Option Nat
  deriving DecidableEq, Repr

/-- unit: the piece takes transfer units for itself, as slabs, preloads and ACC_WRITE sources do. -/
def piece (t : TileId) (part : Part) (idx blk : Nat) (line unit : Bool) (folio : Nat) (g : Got) : Piece :=
  { buf := { t := t, part := part, idx := idx, blk := blk, off := 0, len := g.bytes.length, line := line, unit := unit, tag := g.tag },
    bytes := g.bytes, folio := folio, reads := g.reads, slip := g.slip }

/-- A plain range of a folio. -/
def plainGot (s : State) (fid off n : Nat) : Got :=
  { bytes := folioData s fid off n, tag := [], reads := [(off, n)], slip := none }

/-- The lines of the i-th pass as pieces. -/
def linePieces (s : State) (x : Tile) (p : Part) (fid i : Nat) : List Piece :=
  (linesAt x p i).map fun l => piece x.id p l.1 (runNo x i) true false fid (plainGot s fid l.1 l.2)

/-- A block written expanded (WEXPAND = 1, rule R145): the tag goes, and its slip counts at the fetch. -/
def expandGot (d : List W32) (g : Got) : Got :=
  if dWexp d && !g.tag.isEmpty then { g with bytes := (blockOf d g.bytes g.tag).1, tag := [] }
  else { g with slip := none }

/-- The segments of all tokens for a pass as one buffer. -/
def segsGot (s : State) (d : List W32) (p : Nat) : Got :=
  let gs := (List.range (dM d)).map fun m => getSeg s d (dM0 d + m) p
  { bytes := gs.flatMap fun g => g.bytes, tag := gs.flatMap fun g => g.tag, reads := gs.flatMap fun g => g.reads, slip := none }

/-- The next fetch of a tile into a partition; none when it has nothing more to fetch there. What comes into IN comes from the
Aisles or the Loan station, not by a fetch from memory. The exponents of an integer row slab stand beside it as its tag and take no
room in the partition (DESIGN CHOICE, notes/assumptions/14). -/
def nextFetch (s : State) (x : Tile) (part : Part) : Option (List Piece) :=
  let d := x.d
  let op := dOp d
  let rows := opRow op || op == 8 || op == 0x0A || opColl op
  match part with
  | .wt =>
    if op = 1 ∧ x.wtGot < (seqOf x).length then
      let p := seqAt x x.wtGot
      let blocks := p.2.map fun c =>
        piece x.id .wt x.wtGot c false false (dFolio d 1) (expandGot d (getBlock s d (dC0 d + c) p.1))
      some (blocks ++ linePieces s x .wt (dFolio d 1) x.wtGot)
    else none
  | .act =>
    if op = 1 ∧ x.actGot < (seqOf x).length then
      some (piece x.id .act x.actGot 0 false false (dFolio d 0) (segsGot s d (seqAt x x.actGot).1) ::
        linePieces s x .act (dFolio d 0) x.actGot)
    else if rows ∧ x.actGot < slabCount d then
      let (r, n) := slabRange d x.actGot
      let at_ := dOff d 0 + (dM0 d + r) * rowBytes d
      let g := plainGot s (dFolio d 0) at_ (n * rowBytes d)
      let e := if opRow op && isInt (dIfmt d) then [(dAux d 0 + (dM0 d + r) * rowExps d, n * rowExps d)] else []
      some [piece x.id .act x.actGot 0 false true (dFolio d 0)
        { g with tag := e.flatMap fun x => folioData s (dFolio d 0) x.1 x.2, reads := g.reads ++ e }]
    else none
  | .aux =>
    if x.auxGot then none
    else if op = 1 ∧ dPre d then
      let (fid, off, n) := preRange d
      some [piece x.id .aux 0 0 false true fid (plainGot s fid off n)]
    else if op = 3 then
      let rs := (List.range (dM d)).map fun m => (srcOff d m, dN d * srcEl d)
      some [piece x.id .aux 0 0 false true (dFolio d 0)
        { bytes := rs.flatMap fun r => folioData s (dFolio d 0) r.1 r.2, tag := [], reads := rs, slip := none }]
    else none
  | .inp => none

/-! ### Errors and counts -/

/-- Reads ranges of a folio under the memory's check codes. -/
def readFolioErrors (s : State) (fid : Nat) (rs : List (Nat × Nat)) (rd : Reader) (t : Option TileId) : Bool × State :=
  rs.foldl (fun (a : Bool × State) r =>
    let (bad, s) := readErrors a.2 (folioBase (getFolio s fid) + r.1) r.2 rd t
    (a.1 || bad, s)) (false, s)

/-- A format slip at the weight port or the activation port of a physical array (rule R158). -/
def addSlip (s : State) (w a : Nat) (weight : Bool) (slip : Option Nat) : State :=
  match slip with
  | none => s
  | some c =>
    modArr s w a fun y =>
      if weight then { y with wSlips := satAdd y.wSlips 1, wSlip := true, wCause := BitVec.ofNat 4 c }
      else { y with aSlips := satAdd y.aSlips 1, aSlip := true, aCause := BitVec.ofNat 4 c }

/-- Which count of a tile's fetched bytes a partition's fetch belongs to (rule R223). -/
def fetchedAt (x : Tile) (part : Part) : Nat :=
  match part with
  | .wt => 1
  | .aux => if dOp x.d = 3 then 0 else 2
  | _ => 0

/-! ### When a Runner may fetch (rules R119, R123) -/

/-- Whether a FENCE that no Runner has taken up yet stands before a tile in its stream. -/
def fenceAhead (s : State) (x : Tile) : Bool := untakenBefore s x fun _ d => opFence (dOp d)

/-- The FENCEs, taken up and not complete, that stand before a tile in its stream. -/
def fencesBefore (s : State) (x : Tile) : List Tile :=
  let rnds := streamRounds s x.id.q
  s.run.tiles.filter fun f => f.phase == .fenced && f.id.q == x.id.q && streamBefore rnds f.id x.id && mayHold s x.id.q f.id.rnd x.id.rnd

/-- Whether no FENCE holds a tile back. -/
def unfenced (s : State) (x : Tile) : Bool := (fencesBefore s x).isEmpty && !fenceAhead s x

/-- A tile taken up before x on the same array still waits for another split. -/
def splitBlocked (s : State) (x : Tile) : Bool :=
  let y := getArr s x.w x.a
  dSplit x.d != y.split.toNat ||
    (s.run.tiles.takeWhile fun z => z.id != x.id).any fun z =>
      z.w == x.w && z.a == x.a && z.phase == .ahead && dSplit z.d != y.split.toNat

/-- Whether the Runner may fetch for a tile into a partition. -/
def mayFetch (s : State) (x : Tile) (part : Part) : Bool :=
  (x.phase == .ahead || x.phase == .held || x.phase == .aside) && x.hop == 0 && x.status == 0 && !splitBlocked s x &&
    ((fencesBefore s x).all fun f => dFunc f.d % 2 == 1 && part == .wt) && (part == .wt || !fenceAhead s x)

/-! ### Room and stalls (rules R125, R142) -/

/-- The bank with the pieces of a fetch placed; none when a partition has no room. -/
def roomFor (s : State) (x : Tile) (y : Arr) (ps : List Piece) : Option Arr :=
  ps.foldl (fun (y : Option Arr) p => y.bind fun y => placeBuf y (keptFrom s x) p.buf) (some y)

/-- A Runner whose fetch waits no more: the cycles of the stall count (Table 5.17). -/
def endStall (s : State) (r : Runner) : Runner :=
  { r with cntPart := satAdd r.cntPart (stallCycles s r.stallPart), stallPart := none, stallAt := none }

/-- Whether a Runner has a tile to take up that its window has no place for. -/
def windowFull (s : State) (w r : Nat) : Bool :=
  match nextTile s w r with
  | none => false
  | some c => !placeFor s w r c

/-- Whether a tile has something to fetch into a partition. -/
def wantsFetch (s : State) (x : Tile) (p : Part) : Bool := mayFetch s x p && (nextFetch s x p).isSome

/-- The tile whose fetch is a Runner's next: of the highest class, then the first taken up. -/
def fetchFor (s : State) (w r : Nat) : Option Tile :=
  let mine := s.run.tiles.filter fun x => x.w == w && x.r == r
  ((mine.filter fun x => x.cls == 0) ++ mine.filter fun x => x.cls != 0).find? fun x =>
    [Part.wt, .act, .aux].any (wantsFetch s x)

/-- A fetch of that tile that finds its partition full. -/
def stuckFetch (s : State) (w r : Nat) : Option (TileId × Part) :=
  match fetchFor s w r with
  | none => none
  | some x => ([Part.wt, .act, .aux].find? fun p =>
      mayFetch s x p && (nextFetch s x p).any fun ps => (roomFor s x (getArr s x.w x.a) ps).isNone).map fun p => (x.id, p)

/-- The stalls of a Runner as they stand now: a cause that is there starts one, or lets it go on, and one without a cause ends
(Tables 5.15 to 5.17). -/
def stallRunner (s : State) (w r : Nat) : State :=
  let y := getRun s w r
  let stuck := stuckFetch s w r
  let z := if stuck.isNone then (if y.stallPart.isSome then endStall s y else y)
    else { y with stallPart := y.stallPart.orElse fun _ => some s.clk.acyc, stallAt := stuck }
  let z := if windowFull s w r then { z with stallWin := z.stallWin.orElse fun _ => some s.clk.acyc }
    else if z.stallWin.isSome then { z with cntWin := satAdd z.cntWin (stallCycles s z.stallWin), stallWin := none }
    else z
  if z = y then s else putRun s w r z

/-- The stalls of every Runner; one that has no tile and no stall has none. -/
def settleStalls (s : State) : State :=
  let listed := (s.run.runners.filter fun x => x.2.stallPart.isSome || x.2.stallWin.isSome).map fun x => x.1
  forEach (nub (listed ++ s.run.tiles.map fun x => 4 * x.w + x.r)) s fun s k => stallRunner s (k / 4) (k % 4)

/-! ### SLAB_ARRIVE -/

/-- A range of a bank and who last used it, without the part that another range takes. -/
def cutRange (off n : Nat) (r : Nat × Nat × Nat) : List (Nat × Nat × Nat) :=
  let lo := r.1
  let hi := r.1 + r.2.1
  (if lo < off then [(lo, min hi off - lo, r.2.2)] else []) ++
    (if off + n < hi then [(max lo (off + n), hi - max lo (off + n), r.2.2)] else [])

/-- A range last used by a tile of function f (rule R393 step 4). -/
def markUsed (f : Nat) (used : List (Nat × Nat × Nat)) (b : Buf) : List (Nat × Nat × Nat) :=
  used.flatMap (cutRange b.off b.len) ++ [(b.off, b.len, f)]

/-- Bytes that come into a partition: the transfer writes the words that they reach whole, filling their last word up with zeros, so
that these words are good again (rules R199, R200). -/
def landBytes (s : State) (w a off : Nat) (bs : List Byte) : State :=
  (storeBytes s (carrelAddr w a off) (padTo 0 (roundUp bs.length 8) bs)).2

/-- The fetched pieces stand in the partition. -/
def landPieces (s : State) (w a : Nat) (bufs : List Buf) (ps : List Piece) : State :=
  forEach (bufs.zip ps) s fun s x => landBytes s w a x.1.off x.2.bytes

/-- Data of the next pass or slab of a tile becomes resident (rules R136, R145, R146, R450, R223); with no room in its partition it
waits (Table 5.17). tagOk: the tag store's parity is good (Table 15.1). -/
def slabArrive (t : TileId) (part : Part) (tagOk : Bool) (hits : List EccHit) (s : State) : State :=
  match findTile s t with
  | none => s
  | some x =>
    if !mayFetch s x part || unitReset s x.w (0x22 + x.r) then s
    else
      match nextFetch s x part with
      | none => s
      | some ps =>
        let y := getArr s x.w x.a
        match roomFor s x y ps with
        | none => s
        | some y' =>
          let s := addHits s hits
          let k := fetchedAt x part
          let (bad, s, n) := ps.foldl (fun (b : Bool × State × Nat) p =>
            let e := readFolioErrors b.2.1 p.folio p.reads .station (some t)
            let had := x.fetched.getD k 0 + b.2.2
            let n := sumNat (p.reads.map fun r => r.2)
            (b.1 || e.1, countFetch e.2 p.folio had n (x.cls == 0), b.2.2 + n)) (false, s, 0)
          if bad then failTile s t 0x0B
          else if !tagOk then
            let s := logPush s (logSrc 2 (37 * x.w + x.a)) 0x0011 (errData (carrelAddr x.w x.a 0) 7 .station (some t))
            failTile (s.setRel { s.rel with errUe := satAdd s.rel.errUe 1, totalUe := s.rel.totalUe + 1 }) t 0x0B
          else
            let placed := y'.bufs.drop y.bufs.length
            let s := landPieces (setArr s x.w x.a { y' with used := placed.foldl (markUsed (x.id.q / 32)) y'.used }) x.w x.a placed ps
            let s := forEach ps s fun s p => addSlip s x.w x.a true p.slip
            let g := if part = .wt then { x with wtGot := x.wtGot + 1 } else if part = .act then { x with actGot := x.actGot + 1 }
              else { x with auxGot := true }
            setTile s { g with fetched := addAt x.fetched k n }

/-! ### PSPLIT_CHANGE (rule R123) -/

/-- The first tile of a Runner that waits for another split of its bank, whose partitions are all empty, gets it. A tile taken
up before it that still works from the bank under its present split keeps that split. -/
def psplitChange (w r : Nat) (s : State) : State :=
  match s.run.tiles.find? fun x =>
      x.w == w && x.r == r && x.phase == .ahead && dSplit x.d != (getArr s w x.a).split.toNat &&
        (getArr s w x.a).bufs.isEmpty &&
        !((s.run.tiles.takeWhile fun z => z.id != x.id).any fun z =>
            z.w == w && z.a == x.a && (z.phase == .ahead || z.phase == .held || z.phase == .aside) && z.hop == 0 &&
              dSplit z.d == (getArr s w x.a).split.toNat) with
  | none => s
  | some x =>
    modArr s w x.a fun y => { y with split := BitVec.ofNat 2 (dSplit x.d) }

/-- Whether a tile of a Runner waits for another split (Table 5.15). -/
def splitWait (s : State) (w r : Nat) : Bool :=
  s.run.tiles.any fun z => z.w == w && z.r == r && z.phase == .ahead && dSplit z.d != (getArr s w z.a).split.toNat

def execPsplitChange (w : Fin 32) (r : Fin 4) (s : State) : Host.Outcome State Fault Refusal :=
  .next (finish s (psplitChange w r s))

end Sys2Proof.Machine
end

