-- ==== Sys2Proof/Machine/TakeUp.lean ====
section
/-! DEFINITION. The fourteen tile operations of Table 5.3: a Runner takes up its next tile (rules R119, R125, R126). -/

namespace Sys2Proof.Machine

/-- Whether the partition that a Runner's next fetch needs is full, for a candidate of a class: a candidate of a higher class than
the tile whose fetch waits comes before it, and its own fetch is the next (rules R125, R126; notes/assumptions/14). -/
def fetchFull (s : State) (w r cls : Nat) : Bool :=
  let y := getRun s w r
  y.stallPart.isSome && match y.stallAt.bind fun x => findTile s x.1 with
    | some x => decide (x.cls.toNat ≤ cls)
    | none => false

/-- A Runner takes up its next tile when it is one of the named operation, or of a reserved operation code, which any of the tile
commands takes up, the window lets it, and no perturbation delays it (Table 15.9). While the partition that its next fetch needs is
full it takes up nothing (rule R125). -/
def takeUpOp (op : Nat) (w r : Nat) (s : State) : State :=
  match if unitReset s w (0x22 + r) then none else nextTile s w r with
  | none => s
  | some c =>
    if (dOp c.d = op || !opKnown (dOp c.d)) && !fetchFull s w r (ranClass c.rnd) && placeFor s w r c then
      if waitOver s w (0x22 + r) (getRun s w r).readyFrom && !creditHeld s w (0x22 + r) then
        settleStalls (modRun (takeUp s w r c) w r fun x => { x with readyFrom := none })
      else modRun s w r fun x => { x with readyFrom := x.readyFrom.orElse fun _ => some s.clk.acyc }
    else s

def execMatmul (w : Fin 32) (r : Fin 4) (s : State) : Host.Outcome State Fault Refusal := .next (finish s (takeUpOp 0x01 w r s))
def execAccRead (w : Fin 32) (r : Fin 4) (s : State) : Host.Outcome State Fault Refusal := .next (finish s (takeUpOp 0x02 w r s))
def execAccWrite (w : Fin 32) (r : Fin 4) (s : State) : Host.Outcome State Fault Refusal := .next (finish s (takeUpOp 0x03 w r s))
def execMap (w : Fin 32) (r : Fin 4) (s : State) : Host.Outcome State Fault Refusal := .next (finish s (takeUpOp 0x04 w r s))
def execRowstat (w : Fin 32) (r : Fin 4) (s : State) : Host.Outcome State Fault Refusal := .next (finish s (takeUpOp 0x05 w r s))
def execCopy (w : Fin 32) (r : Fin 4) (s : State) : Host.Outcome State Fault Refusal := .next (finish s (takeUpOp 0x06 w r s))
def execSend (w : Fin 32) (r : Fin 4) (s : State) : Host.Outcome State Fault Refusal := .next (finish s (takeUpOp 0x08 w r s))
def execRecv (w : Fin 32) (r : Fin 4) (s : State) : Host.Outcome State Fault Refusal := .next (finish s (takeUpOp 0x09 w r s))
def execPut (w : Fin 32) (r : Fin 4) (s : State) : Host.Outcome State Fault Refusal := .next (finish s (takeUpOp 0x0A w r s))
def execGet (w : Fin 32) (r : Fin 4) (s : State) : Host.Outcome State Fault Refusal := .next (finish s (takeUpOp 0x0B w r s))
def execSignal (w : Fin 32) (r : Fin 4) (s : State) : Host.Outcome State Fault Refusal := .next (finish s (takeUpOp 0x0C w r s))
def execAllreduce (w : Fin 32) (r : Fin 4) (s : State) : Host.Outcome State Fault Refusal :=
  .next (finish s (takeUpOp 0x0D w r s))
def execAllgather (w : Fin 32) (r : Fin 4) (s : State) : Host.Outcome State Fault Refusal :=
  .next (finish s (takeUpOp 0x0E w r s))
def execFence (w : Fin 32) (r : Fin 4) (s : State) : Host.Outcome State Fault Refusal := .next (finish s (takeUpOp 0x3F w r s))

end Sys2Proof.Machine
end

