-- ==== Sys2Proof/Machine/Routes.lean ====
section
/-! DEFINITION. Stations on a tile's route, and the credits between them (rules R116, R123, R126, R127, Table 5.9): what a station
holds, and whether and where the rows of a tile can go on to its next station. -/

namespace Sys2Proof.Machine

/-! ### Stations of a route (rule R116) -/

def kindOf (st : Nat) : StKind :=
  if st = 1 then .array else if st = 2 then .glossary else if st = 3 then .ledger else if st = 4 then .returns else .loan

/-- A hop of a tile whose logical array stands in Wing w on physical array a, as a station of this node. -/
def hopSt (w a : Nat) (d : List W32) (h : Hop) : StRef :=
  let v := if h.wsel = 0 then w else dAlt d
  { kind := kindOf h.st, wing := ⟨v % 32, Nat.mod_lt _ (by decide)⟩,
    unit := if h.st = 1 then a else if h.st = 5 then 0 else h.unit }

/-- The TARGET code of a station in RST_REQ (Table 13.12). -/
def stationCode (st : StRef) : Nat :=
  match st.kind with
  | .array => 1 + st.unit
  | .glossary => 0x26 + st.unit
  | .ledger => 0x28 + st.unit
  | .returns => 0x2A + st.unit
  | .loan => 0x2C

/-- The station at which a tile is, or to which it goes next. -/
def stOf (x : Tile) : Option StRef :=
  if x.hop < (dLocal x.d).length then some (hopSt x.w x.a x.d (hopAt x)) else none

def unitTile (s : State) (st : StRef) : Option TileId :=
  match st.kind with
  | .array => (getArr s st.wing st.unit).tile
  | .glossary => (getGlo s st.wing st.unit).tile
  | .ledger => (getLed s st.wing st.unit).tile
  | .returns => (getRet s st.wing st.unit).tile
  | .loan => none

def unitAside (s : State) (st : StRef) : Option TileId :=
  match st.kind with
  | .array => (getArr s st.wing st.unit).aside
  | .glossary => (getGlo s st.wing st.unit).aside
  | .ledger => (getLed s st.wing st.unit).aside
  | .returns => (getRet s st.wing st.unit).aside
  | .loan => none

/-- Sets the tile that a unit holds and the one it has set aside. -/
def putUnit (s : State) (st : StRef) (t a : Option TileId) : State :=
  match st.kind with
  | .array => modArr s st.wing st.unit fun y => { y with tile := t, aside := a }
  | .glossary => modGlo s st.wing st.unit fun y => { y with tile := t, aside := a }
  | .ledger => modLed s st.wing st.unit fun y => { y with tile := t, aside := a }
  | .returns => modRet s st.wing st.unit fun y => { y with tile := t, aside := a }
  | .loan => s

/-! ### Credits (rule R127, Table 5.9)

Rows that pass from a drain or a station to a station of the same Wing stand in its input: 64 token rows, or at a Loan station two
transfer units. Rows that cross to another Wing stand in transfer units of an IN partition there, two for each class and direction
(notes/assumptions/98). -/

/-- Depth of a station's input in its credit units, and of the Aisles in transfer units for a class and a direction. -/
def inputDepth (st : StRef) : Nat := if st.kind = .loan then 2 else 64
def aislesDepth : Nat := 2

/-- What is left of a depth for a class: one credit is kept for C0 while a reservation is in force. -/
def depthFor (s : State) (cls : BitVec 2) (depth : Nat) : Nat := if reservedAny s && cls != 0 then depth - 1 else depth

/-- Rows as the Aisles and a Loan station's input carry them: FP32 values (notes/assumptions/98), and their transfer units. -/
def rowsF32 (rows : List (List XV)) : List Byte := rows.flatMap fun r => r.flatMap fun v => bytesOf 4 (encodeF fp32 v)
def rowUnits (rows : List (List XV)) : Nat := max 1 (ceilDiv (4 * sumNat (rows.map fun r => r.length)) unitBytes)

/-- Credits of a station's input that a tile's rows take. -/
def inputUse (st : StRef) (y : Tile) : Nat := if st.kind = .loan then rowUnits y.rows else y.rows.length

/-- The tiles whose rows stand in the input of a station. -/
def inputOf (s : State) (st : StRef) : List Tile := s.run.tiles.filter fun y => y.fifo && stOf y == some st

def creditsIn (st : StRef) (l : List Tile) : Nat := sumNat (l.map (inputUse st))

/-- Whether a station's input has credits for all rows of a tile: within its depth, and within what other classes may use. -/
def rowCredit (s : State) (st : StRef) (x : Tile) : Bool :=
  let held := inputOf s st
  decide (creditsIn st held + inputUse st x ≤ inputDepth st) &&
    (x.cls == 0 || decide (creditsIn st (held.filter fun y => y.cls != 0) + inputUse st x ≤ depthFor s x.cls (inputDepth st)))

/-- Transfer units that rows take on the Aisles: at most the units of their class. -/
def aislesUnits (s : State) (x : Tile) (n : Nat) : Nat := max 1 (min (depthFor s x.cls aislesDepth) (ceilDiv n unitBytes))

/-- Whether a buffer of a tile of this node holds rows that came over the Aisles to the bank of Wing v: not the unit in which a
RECV, a GET or a collective gathers what the fabric brings. -/
def fromAisles (v : Nat) (y : Tile) (b : Buf) : Bool := b.part == .inp && (!opLoan (dOp y.d) || v != y.w)

/-- The units of a class that rows from Wing w hold in Wing v; such a buffer keeps w as its blk. -/
def aislesHeld (s : State) (w v : Nat) (cls : BitVec 2) : Nat :=
  sumNat ((List.range 33).map fun a => sumNat ((getArr s v a).bufs.map fun b =>
    match findTile s b.t with
    | some y => if fromAisles v y b && y.cls == cls && b.blk == w then ceilDiv b.len unitBytes else 0
    | none => 0))

/-- Rows, as bytes, cross to Wing v from Wing w into IN units of the bank there with the index of the tile's array; none when the
Aisles or the partition have no credit. More bytes than the units hold pass through them (rules R123, R127). -/
def crossTo (s : State) (x : Tile) (w v : Nat) (bs : List Byte) : Option State :=
  let n := aislesUnits s x bs.length
  if decide (aislesHeld s w v x.cls + n ≤ depthFor s x.cls aislesDepth) then
    let b : Buf := { t := x.id, part := .inp, idx := x.hop, blk := w, off := 0, len := min bs.length (n * unitBytes), line := false,
                     unit := true, tag := [] }
    (placeBuf (getArr s v x.a) (keptFrom s x) b).map fun y =>
      let placed := y.bufs.drop (getArr s v x.a).bufs.length
      let s := setArr s v x.a { y with used := placed.foldl (markUsed (x.id.q / 32)) y.used }
      forEach placed s fun s b => landBytes s v x.a b.off (bs.take b.len)
  else none

/-- The rows of a tile go on to the station that it goes to next, as far as credits allow: into its input, into IN units of its
Wing, or straight through a station that is idle and whose input is empty. from_: the Wing they come from. none: the station behind
them stalls. -/
def passOn (s : State) (from_ : Nat) (x : Tile) : Option (State × Tile) :=
  match stOf x with
  | none => some (s, x)
  | some st =>
    if st.wing.val ≠ from_ then (crossTo s x from_ st.wing (rowsF32 x.rows)).map fun s => (s, x)
    else if rowCredit s st x || ((unitTile s st).isNone && (inputOf s st).isEmpty) then some (s, { x with fifo := true })
    else none

end Sys2Proof.Machine
end

