-- ==== Sys2Proof/Machine/Passes.lean ====
section
/-! DEFINITION. What runs on a Lookup Array (chapters 3 and 4): passes with their safeguards and the saturation replay, in-flight
array faults, and drains. The commands PASS_START and DRAIN_START. -/

namespace Sys2Proof.Machine

/-! ### Data in a Carrel bank -/

/-- The bytes of a buffer. -/
def bufBytes (s : State) (w a : Nat) (b : Buf) : List Byte := readMem s (carrelAddr w a b.off) b.len

/-- The buffer of a tile's pass or slab. -/
def passBuf (y : Arr) (t : TileId) (part : Part) (idx blk : Nat) : Option Buf :=
  y.bufs.find? fun b => b.t == t && b.part == part && b.idx == idx && b.blk == blk && !b.line

/-- Bytes that a line of a run in the bank holds, by their byte offset in the folio. -/
def lineBytes (s : State) (w a : Nat) (t : TileId) (part : Part) (run off n : Nat) : List Byte :=
  match (getArr s w a).bufs.find? fun b =>
      b.t == t && b.part == part && b.line && b.blk == run && decide (b.idx ≤ off) && decide (off + n ≤ b.idx + b.len) with
  | some b => readMem s (carrelAddr w a (b.off + (off - b.idx))) n
  | none => List.replicate n 0

/-- A buffer that may be absent, as bytes and tag. -/
def bufData (s : State) (w a : Nat) (b : Option Buf) : List Byte × List Byte :=
  match b with
  | some b => (bufBytes s w a b, b.tag)
  | none => ([], [])

/-- The tokens' segments in a pass buffer: plain blocks of equal length, or SPX segments whose lengths the tags give. -/
def splitSegs (d : List W32) (bytes tag : List Byte) : List (List Byte × List Byte) :=
  if tag.isEmpty then (chunksOf (tfBytes (dTfmt d)) (dM d) bytes).map fun b => (b, [])
  else
    ((chunksOf 6 (dM d) tag).foldl (fun (st : List (List Byte × List Byte) × List Byte) g =>
      let n := natOf (g.drop 4)
      ((st.2.take n, g) :: st.1, st.2.drop n)) ([], bytes)).1.reverse

/-! ### Operands of a pass -/

/-- What a pass works on: the columns' plane indices, a scale for each column, each token's integers and exponent, and the format
slips that the Collators count. -/
structure PassData where
  cols : List (List (List Nat))
  scales : List (List Byte)
  toks : List (List Int × Nat)
  wSlips : List (Option Nat)
  aSlips : List (Option Nat)
  deriving DecidableEq, Repr

/-- The scale bytes of every column of blocks cs in pass p; at_ gives bytes of operand B's scale array by folio offset. -/
def scalesOf (d : List W32) (cs : List Nat) (p : Nat) (at_ : Nat → Nat → List Byte) : List (List Byte) :=
  cs.flatMap fun c => (List.range 16).map fun n =>
    let o := scaleOff (dSmode d) (dKtot d) (dC0 d + c) n p
    at_ (dAux d 1 + o.1) o.2

/-- The exponent of token m in pass p; at_ gives bytes of operand A's exponent array by folio offset. -/
def expByte (d : List W32) (m p : Nat) (at_ : Nat → Nat → List Byte) : Nat :=
  natOf (at_ (dAux d 0 + expOff (dTfmt d) (dKtot d) (dM0 d + m) p) 1)

/-- The pass blocks of a tile's i-th pass in its bank, expanded, with their slips. -/
def passBlocks (s : State) (x : Tile) (i : Nat) : List (List Byte × Option Nat) :=
  (seqAt x i).2.map fun c =>
    let b := bufData s x.w x.a (passBuf (getArr s x.w x.a) x.id .wt i c)
    blockOf x.d b.1 b.2

/-- The plane indices that pass blocks spell, column after column. -/
def blockCols (d : List W32) (blocks : List (List Byte × Option Nat)) : List (List (List Nat)) :=
  blocks.flatMap fun b => blockIdx (planesOf (dIfmt d)) b.1

/-- The i-th pass of a tile out of its Carrel bank. -/
def bankPass (s : State) (x : Tile) (i : Nat) : PassData :=
  let d := x.d
  let p := (seqAt x i).1
  let blocks := passBlocks s x i
  let seg := bufData s x.w x.a (passBuf (getArr s x.w x.a) x.id .act i 0)
  let segs := (splitSegs d seg.1 seg.2).map fun g => segOf d g.1 g.2
  { cols := blockCols d blocks, scales := scalesOf d (seqAt x i).2 p fun o n => lineBytes s x.w x.a x.id .wt (runNo x i) o n,
    toks := segs.zipIdx.map fun g => (g.1.1, expByte d g.2 p fun o n => lineBytes s x.w x.a x.id .act (runNo x i) o n),
    wSlips := blocks.map fun b => b.2, aSlips := segs.map fun g => g.2 }

/-- Runs a pass on rows of accumulators (rules R47 to R67, R76). -/
def runPass (mode ifmt smode nOut : Nat) (q : PassData) (rows : List (List (BitVec 48))) (gen : W32) :
    List (List (BitVec 48)) × W32 × PassStat :=
  passRun mode ifmt nOut q.cols (q.scales.map (scaleVal smode)) q.toks rows gen

/-- Counts the format slips of an expansion (rule R158). -/
def addSlips (s : State) (w a : Nat) (q : PassData) : State :=
  let s := forEach q.wSlips s fun s c => addSlip s w a true c
  forEach q.aSlips s fun s c => addSlip s w a false c

/-! ### In-flight array faults (rules R104, R105, R108) -/

def chkCode : ChkFault → Nat
  | .residue => 0
  | .parity => 1
  | .store => 2

/-- A round that a station holds a tile of. -/
def roundHeld (s : State) (q : Nat) (num : W32) : Bool := s.run.tiles.any fun t => t.id.q == q && t.id.rnd == num && tileHeld t

/-- Re-executed rounds that have stopped for another fault end with ARRAY_FAULT at the tile where they stop (rule R108). -/
def settleFaults (s : State) (q : Nat) : State :=
  forEach (getQ s q).rounds s fun s r =>
    if r.stopping && !r.returned && r.reexecuted && r.result.isNone && !roundHeld s q r.num then resultRound s q r.num 0x09 r.done
    else s

/-- Tiles of a physical array that its stop ends: those it holds, set aside or still has to drain. -/
def onArray (w a : Nat) (t : Tile) : Bool :=
  t.w == w && t.a == a && opArray (dOp t.d) && ((tileHeld t && t.hop == 0) || t.phase == .drainWait)

/-- The array stops at once, and the affected rounds stop at their next tile boundary. An uncorrectable error of its store also
counts as one (rule R370). -/
def arrayFault (s : State) (w a l : Nat) (f : ChkFault) : State :=
  let s := modArr s w a fun y => { y with checkErrs := satAdd y.checkErrs 1, fault := some 2 }
  let s := logPush s (logSrc 1 (33 * w + a)) 0x0012 [chkCode f, l]
  let s := if f = .store then s.setRel { s.rel with errUe := satAdd s.rel.errUe 1, totalUe := s.rel.totalUe + 1 } else s
  let s := stopFor s w a
  let s := dropTiles s (onArray w a)
  forEach s.desk.queues s fun s x => settleFaults s x.1

/-! ### The accumulators of a slot under their check code (rules R84, R104) -/

/-- Addresses and lengths of the words that hold a slot's accumulators: M token rows of 64 bytes, and in I48 of 32 more. -/
def accRanges (w a k : Nat) (z : Slot) : List (Nat × Nat) :=
  (accAddr w a k 0, 64 * z.shape.m) :: if z.shape.mode = 3 then [(accAddr w a k 4096, 32 * z.shape.m)] else []

/-- What a read of a slot's accumulators meets: corrections count; an uncorrectable word is an array fault, and the answer true. -/
def accErrors (s : State) (w a k : Nat) (z : Slot) : Bool × State :=
  let rs := accRanges w a k z
  let s := forEach (rs.flatMap fun r => inOrder (ceIn s r.1 r.2)) s fun s x => reportCe s x .station none
  if rs.any fun r => !(ueIn s r.1 r.2).isEmpty then (true, arrayFault s w a z.larray .store) else (false, s)

/-- A slot whose accumulators are all written; its words are good again. -/
def putAcc (s : State) (w a k : Nat) (z : Slot) : State :=
  let out := fun x => !(accRanges w a k z).any fun r => meets r.1 r.2 x
  setSlot (s.setEcc { ue := s.ecc.ue.filter out, ce := s.ecc.ce.filter out }) w a k z

/-! ### Opening values (rules R59, R87, R88) -/

/-- The words of a tile's buffers in the bank that an uncorrectable error meets when it reads them. -/
def bankErrors (s : State) (x : Tile) (p : Buf → Bool) (rd : Reader) : Bool × State :=
  ((getArr s x.w x.a).bufs.filter fun b => b.t == x.id && p b).foldl (fun (st : Bool × State) b =>
    let e := readErrors st.2 (carrelAddr x.w x.a b.off) b.len rd (some x.id)
    (st.1 || e.1, e.2)) (false, s)

/-- What a station meets when it takes a tile's rows out of the IN units of a bank of Wing v (rules R123, R199, R200). -/
def inputErrors (s : State) (x : Tile) (v : Nat) : Bool × State :=
  ((getArr s v x.a).bufs.filter fun b => b.t == x.id && b.part == .inp).foldl (fun (st : Bool × State) b =>
    let e := readErrors st.2 (carrelAddr v x.a b.off) b.len .station (some x.id)
    (st.1 || e.1, e.2)) (false, s)

/-- The rows of accumulators of a preload tile (bytes as stored), in a mode. -/
def openRows (d : List W32) (mode : Nat) (bytes : List Byte) : List (List (BitVec 48)) :=
  let cols := 16 * dBlocks d
  let el := if dPreBf d then 2 else 4
  (List.range (dM d)).map fun m =>
    let row := (bytes.drop ((if dPreBcast d then 0 else m) * cols * el)).take (cols * el)
    (chunksOf el cols row).map fun b => preloadVal mode (dPreBf d) (natOf b)

/-- The preload of a tile moves from its bank into its group's slot as soon as the slot is claimed and the data is resident. -/
def preloadIn (s : State) (t : TileId) : State :=
  match findTile s t with
  | none => s
  | some x =>
    let g := getGroup s (dLarray x.d) (dGroup x.d)
    match passBuf (getArr s x.w x.a) x.id .aux 0 0 with
    | none => s
    | some b =>
      if dOp x.d != 1 || !tileHeld x || x.hop != 0 || !g.live then s
      else
        let (bad, s) := bankErrors s x (fun b => b.part == .aux) .station
        if bad then failTile s x.id 0x0B
        else
          let z := getSlot s x.w x.a g.slot
          let s := putAcc s x.w x.a g.slot { z with acc := (openRows x.d z.shape.mode.toNat (bufBytes s x.w x.a b)).flatten }
          modArr s x.w x.a fun y => { y with bufs := y.bufs.filter fun b => !(b.t == x.id && b.part == .aux) }

/-! ### The weight registers (rules R80, R82) -/

/-- Plane indices as the cells' registers hold them. -/
def regBytes (cols : List (List (List Nat))) : List Byte := cols.flatten.flatMap fun ix => ix.map (BitVec.ofNat 8)

/-- The Collator loads the next pass of the array's tile into the idle registers once its index side is resident. -/
def loadIdle (s : State) (w a : Nat) : State :=
  match (getArr s w a).tile.bind (findTile s) with
  | none => s
  | some x =>
    if dOp x.d == 1 && x.phase == .held && x.hop == 0 && decide (x.passDone < x.wtGot) then
      modArr s w a fun y => { y with idle := regBytes (blockCols x.d (passBlocks s x x.passDone)) }
    else s

/-! ### The saturation replay (rules R70 to R75) -/

/-- Whether a tile is eligible for saturation replay. -/
def replayable (d : List W32) : Bool := dReplay d && dMode d == 2 && dOpen d && dClose d

/-- Whether a tile's replay is under way. -/
def inReplay (x : Tile) : Bool := x.rerun && !x.replayed

/-- The replay of a tile begins: its group opens again, in A32S, and its operands and its preload tile are fetched again. Its passes
are those of `seqOf`. The slot holds the columns of both runs until they drain (notes/assumptions/24). -/
def startReplay (s : State) (x : Tile) : State :=
  let l := dLarray x.d
  let g := getGroup s l (dGroup x.d)
  let z := getSlot s x.w x.a g.slot
  let z := { z with shape := { z.shape with mode := 1 }, acc := List.replicate (dM x.d * z.cols) 0, steps := 0 }
  let s := setGroup (putAcc s x.w x.a g.slot z) l (dGroup x.d) { g with steps := 0 }
  setTile s { x with rerun := true, passDone := 0, wtGot := 0, actGot := 0, auxGot := false, fetched := [0, 0, 0], maxabs := 0 }

/-- The replay of a tile ends. -/
def endReplay (s : State) (x : Tile) : State :=
  setTile (modArr s x.w x.a fun y => { y with replays := satAdd y.replays 1 }) { x with replayed := true }

/-! ### PASS_START -/

/-- A window transfer of a group is in progress (rule R96). -/
def windowBusy (s : State) (l g : Nat) : Bool :=
  s.wings.any fun w => match w.2.accRun with
    | some r => r.2.1 == l && r.2.2 == g
    | none => false

/-- Whether the array's tile can start its next pass (rules R83, R88, R96, R99): operands resident, its group in a slot and not being
copied, the preload in. -/
def passReady (s : State) (x : Tile) : Bool :=
  (inReplay x || !windowBusy s (dLarray x.d) (dGroup x.d)) &&
  dOp x.d == 1 && x.phase == .held && x.hop == 0 && decide (x.passDone < (seqOf x).length) && decide (x.passDone < x.wtGot) &&
    decide (x.passDone < x.actGot) && (!dPre x.d || (x.auxGot && (passBuf (getArr s x.w x.a) x.id .aux 0 0).isNone)) &&
    (getGroup s (dLarray x.d) (dGroup x.d)).live

/-- Buffers that the end of the i-th pass frees. -/
def passFrees (x : Tile) (i : Nat) (b : Buf) : Bool :=
  b.t == x.id && if b.line then b.blk == runNo x i && !lineLater x b.part i b.idx else b.part != .aux && b.idx == i

/-- The exact bit pattern of a scale as the slot keeps it for an I48 drain. -/
def sigBits (b : List Byte) : BitVec 16 := BitVec.ofNat 16 (natOf b)

/-- What the i-th pass of a tile runs in: mode, first column, columns that the tile writes, and the step of its run. -/
structure PassRun where
  mode : Nat
  col : Nat
  nOut : Nat
  step : Nat
  deriving DecidableEq, Repr

def passRunOf (x : Tile) (i : Nat) : PassRun :=
  let d := x.d
  if x.rerun then
    let c := (seqAt x i).2.headD 0
    { mode := 1, col := 16 * c, nOut := if c = 0 then min 16 (dN d) else dN d - 16, step := i % dP d }
  else { mode := dMode d, col := 0, nOut := dN d, step := i }

/-- The accumulators of a slot after a pass over the columns from col on, with the generator and what the pass counts. -/
def slotPass (d : List W32) (u : PassRun) (q : PassData) (z : Slot) (gen : W32) : Slot × W32 × PassStat :=
  let rows := chunksOf z.cols (dM d) z.acc
  let n := q.cols.length
  let r := runPass u.mode (dIfmt d) (dSmode d) u.nOut q (rows.map fun row => (row.drop u.col).take n) gen
  let acc := (rows.zip r.1).flatMap fun p => p.1.take u.col ++ p.2 ++ p.1.drop (u.col + n)
  ({ z with acc := acc, sig := q.scales.map sigBits, exps := q.toks.map fun t => BitVec.ofNat 8 t.2 }, r.2)

/-- The next pass of the tile on a physical array runs (rules R80 to R83, R100); it returns the credit of its slabs, so perturbation
may hold it (Table 15.9). Of an I48 group the slot keeps the scales and row exponents of its last pass, with which it drains (DESIGN
CHOICE, notes/assumptions/91). chk: what its checks find. -/
def passStart (w a : Nat) (chk : Option ChkFault) (hits : List EccHit) (s : State) : State :=
  let y := getArr s w a
  match y.tile.bind (findTile s) with
  | none => s
  | some x =>
    if y.fault.isSome || unitReset s w (1 + a) || creditHeld s w (1 + a) || !passReady s x then s
    else
      match chk with
      | some f => arrayFault s w a (dLarray x.d) f
      | none =>
        let d := x.d
        let i := x.passDone
        let s := addHits s hits
        let (bad, s) := bankErrors s x (fun b => lineUsed x i b || (!b.line && b.part != .aux && b.idx == i)) .station
        if bad then failTile s x.id 0x0B
        else
          let g := getGroup s (dLarray d) (dGroup d)
          let (broken, s) := accErrors s w a g.slot (getSlot s w a g.slot)
          if broken then s
          else
            let s := loadIdle s w a
            let u := passRunOf x i
            let q := bankPass s x i
            let gen := if x.rerun && u.step == 0 then seedGen (dSeed d) (dLarray d) else g.gen
            let (z, gen, st) := slotPass d u q (getSlot s w a g.slot) gen
            let steps := if x.rerun then BitVec.ofNat 32 (u.step + 1) else g.steps + 1
            let s := addSlips (putAcc s w a g.slot { z with steps := steps }) w a q
            let s := setGroup s (dLarray d) (dGroup d) { g with gen := gen, steps := steps }
            let s := modArr s w a fun y =>
              { y with gen := gen, satPasses := satAdd y.satPasses st.sats, bufs := y.bufs.filter fun b => !passFrees x i b,
                       active := y.idle, idle := y.active,
                       conc := (q.toks.getLast?.map fun t => (concordance t.1).flatten.map (BitVec.ofInt 10)).getD [] }
            let x := { x with passDone := i + 1, sat := x.sat || st.sats != 0, maxabs := max x.maxabs st.maxabs }
            let s := setTile s x
            let last := decide (i + 1 = (seqOf x).length)
            if last && x.rerun then endReplay s x
            else if last && x.sat && replayable d then startReplay s x
            else loadIdle s w a

/-! ### Drains (rules R60, R61, R85, R86) -/

/-- The drained rows of a slot: M rows of the tile's N columns. -/
def slotRows (z : Slot) : List (List XV) :=
  (chunksOf z.cols z.shape.m z.acc).zipIdx.map fun r =>
    (r.1.take z.shape.n).zipIdx.map fun c =>
      drainVal z.shape.mode.toNat c.1 (decodeF bf16 (z.sig.getD c.2 0).toNat) (z.exps.getD r.2 0).toNat

/-- The slots of a physical array that satisfy a test, with their numbers. -/
def slotsWith (s : State) (w a : Nat) (p : Slot → Bool) : List (Nat × Slot) :=
  ((List.range 8).map fun k => (k, getSlot s w a k)).filter fun x => p x.2

/-- The slot that closed first of those that wait for their drain. -/
def drainNext (s : State) (w a : Nat) : Option (Nat × Slot) :=
  (slotsWith s w a fun z => z.draining && !z.started).foldl (fun b x =>
    match b with
    | none => some x
    | some y => if x.2.closeOrder < y.2.closeOrder then some x else b) none

/-- The oldest closed slot of an array begins to drain when no other slot of it drains. -/
def drainStart (w a : Nat) (hits : List EccHit) (s : State) : State :=
  if unitReset s w (1 + a) || !(slotsWith s w a fun z => z.draining && z.started).isEmpty then s
  else
    match drainNext s w a with
    | none => s
    | some (k, z) =>
      let (broken, s) := accErrors (addHits s hits) w a k z
      if broken then s
      else
        let s := setSlot s w a k { z with started := true }
        match z.tile.bind (findTile s) with
        | none => s
        | some x =>
          let rows := slotRows z
          if x.phase = .drainWait then
            setTile s { x with rows := rows, phase := .between, hop := 1, nonfinite := x.nonfinite || rows.any (·.any xvBad) }
          else s

def execDrainStart (w : Fin 32) (a : Fin 33) (s : State) (ecc : List EccHit := []) : Host.Outcome State Fault Refusal :=
  .next (finish s (drainStart w a ecc s))

end Sys2Proof.Machine
end

