-- ==== Sys2Proof/Machine/RowUnits.lean ====
section
/-! DEFINITION. What the Glossary, Ledger and Returns do with a tile's rows (rules R36 to R43, R77, R152 to R154, R161 to R185):
their effect on the rows, on their counters and on operand C. -/

namespace Sys2Proof.Machine

/-! ### Attributes and user tables (rules R162, R172, R176) -/

/-- The attributes that a tile's round keeps. -/
def tileAttrs (s : State) (x : Tile) : Attrs :=
  match findRound s x.id.q x.id.rnd with
  | some r => r.attrs
  | none => Attrs.reset

/-- The user table that a tile's GFUNC selects: folio and byte offset. -/
def tileTable (s : State) (x : Tile) : Option (Nat × Nat) := tableBinding (tileAttrs s x) x.d

/-- Whether a cached table is the one of a tenant at a folio and byte offset. -/
def isTable (tenant : Nat) (b : Nat × Nat) (e : TableEnt) : Bool :=
  e.tenant == tenant && e.folio.toNat == b.1 && 64 * e.offset.toNat == b.2

/-- The bytes of a table in memory, as a fill reads them. -/
def tableMem (s : State) (b : Nat × Nat) : List Byte :=
  folioData s b.1 b.2 (tblSize (wordsOf (folioData s b.1 b.2 64)))

/-- The plain-view address of an offset in Wing-store bank k of Wing w (Table 8.2). -/
def storeAddr (w k off : Nat) : Nat := 0x40000000000 + w * 0x2000000 + 0x1000000 + k * 0x200000 + off

/-- The place of a cached table in the Wing-store bank of Glossary u: sixteen places of 8 KiB (DESIGN CHOICE,
notes/assumptions/99). -/
def tableAddr (w u place : Nat) : Nat := storeAddr w u (0x2000 * place)

/-- The place of a row that Ledger u keeps in its Wing-store bank for its later passes: two places of 64 KiB, by turns (rule R183;
DESIGN CHOICE, notes/assumptions/99). -/
def ledgerAddr (w u m : Nat) : Nat := storeAddr w (2 + u) (0x10000 * (m % 2))

/-- The words of the table that a tile uses, out of the bank of Glossary u: a tile in progress goes on with its copy there after the
cache has dropped the entry (rule R176; DESIGN CHOICE, notes/assumptions/96). -/
def tableWords (s : State) (w u : Nat) (x : Tile) : List W32 :=
  match x.table with
  | none => []
  | some (place, n) => wordsOf (readMem s (tableAddr w u place) n)

/-- A cached table of a Glossary unit. -/
def heldTable (s : State) (w u tenant : Nat) (b : Nat × Nat) : Option TableEnt := (getGlo s w u).cache.find? (isTable tenant b)

/-- The places of the tables that the unit's tile and its set-aside tile use. -/
def busyPlaces (s : State) (w u : Nat) : List Nat :=
  let g := getGlo s w u
  ((g.tile.toList ++ g.aside.toList).filterMap (findTile s)).filterMap fun x => x.table.map fun p => p.1

/-- The place for a table that is filled, and what the cache keeps beside it: a free place, else that of the least recently used
table that no tile uses. -/
def fillPlace (s : State) (w u : Nat) : Nat × List TableEnt :=
  let g := getGlo s w u
  let busy := busyPlaces s w u
  match if g.cache.length < 16 then (List.range 16).find? fun p => !busy.contains p && g.cache.all fun e => e.place != p else none with
  | some p => (p, g.cache)
  | none =>
    match g.cache.reverse.find? fun e => !busy.contains e.place with
    | some e => (e.place, g.cache.erase e)
    | none => (0, g.cache.drop 1)

/-- A Glossary unit fills a user table into its bank. The answer: a tile status, 0 when the table is good, 1 when its header breaks a
condition (rule R174); and its place and bytes. -/
def fillTable (s : State) (w u tenant : Nat) (b : Nat × Nat) (rd : Reader) (t : Option TileId) (c0 : Bool) :
    Nat × State × Option (Nat × Nat) :=
  let bytes := tableMem s b
  let (bad, s) := readFolioErrors s b.1 [(b.2, bytes.length)] rd t
  if bad then (0x0B, s, none)
  else if !tblOk (wordsOf (bytes.take 64)) then (1, s, none)
  else
    let s := countFetch s b.1 0 bytes.length c0
    let (place, kept) := fillPlace s w u
    let e : TableEnt :=
      { tenant := tenant, folio := BitVec.ofNat 20 b.1, offset := BitVec.ofNat 19 (b.2 / 64), place := place, len := bytes.length }
    let a := tableAddr w u place
    let s := (storeBytes (storeErrors s a bytes.length rd t) a bytes).2
    (0, modGlo s w u fun g => { g with cache := e :: kept, fetches := satAdd g.fetches 1 }, some (place, bytes.length))

/-- A cached table becomes the most recently used one. -/
def touchTable (s : State) (w u : Nat) (e : TableEnt) : State :=
  modGlo s w u fun g => { g with cache := e :: g.cache.erase e }

/-! ### Glossary (rules R163 to R178, R185) -/

/-- One element under a GFUNC. tbl: the words of the user table for GFUNC 0xC to 0xF. An element whose exact value exceeds the FP32
range becomes an infinity (DESIGN CHOICE, notes/assumptions/94). -/
def gloElement (g : Nat) (compat : Bool) (tbl : List W32) (x : XV) : XV × GRes :=
  let v := xvRound fp32 x
  if 0xC ≤ g then userFn tbl v else if compat then compatFn g v else glossaryFn g v

def countRes (l : List GRes) (r : GRes) : Nat := (l.filter (· == r)).length

/-- Adds results to a Glossary unit's counters. -/
def gloCount (s : State) (w u : Nat) (res : List GRes) : State :=
  modGlo s w u fun y => { y with limited := satAdd y.limited (countRes res .limited),
                                 domain := satAdd y.domain (countRes res .domain) }

/-- A Glossary unit's work on a tile's rows; t: the tile that an error names. The answer is false when its table could not be read
(rules R199, R200). -/
def gloApply (s : State) (at_ : Attrs) (t : Option TileId) (x : Tile) (w u : Nat) (hits : List EccHit) : Bool × State × Tile :=
  let s := addHits s hits
  let (bad, s) := match x.table with
    | none => (false, s)
    | some (place, n) => readErrors s (tableAddr w u place) n .station t
  let out := x.rows.map fun r => r.map (gloElement (dGfunc x.d) at_.compat (tableWords s w u x))
  let rows := out.map fun r => r.map (·.1)
  let s := if bad then s else gloCount s w u (out.flatMap fun r => r.map (·.2))
  (!bad, s, { x with rows := rows, table := none, nonfinite := x.nonfinite || rows.any (·.any xvBad) })

/-! ### Ledger (rules R179 to R183, R185) -/

/-- The rows that a Ledger unit keeps in its bank for their later passes; STATS has none. -/
def ledgerKeep (s : State) (t : Option TileId) (w u : Nat) (x : Tile) : State :=
  if dLfunc x.d = 1 then s
  else forEach x.rows.zipIdx s fun s r =>
    let a := ledgerAddr w u r.2
    (storeBytes (storeErrors s a (4 * r.1.length) .station t) a (r.1.flatMap fun v => bytesOf 4 (encodeF fp32 v))).2

/-- What the later passes' reads of those rows meet. -/
def ledgerErrors (s : State) (t : Option TileId) (w u : Nat) (x : Tile) : Bool × State :=
  if dLfunc x.d = 1 then (false, s)
  else (x.rows.take 2).zipIdx.foldl (fun (st : Bool × State) r =>
    let e := readErrors st.2 (ledgerAddr w u r.2) (4 * r.1.length) .station t
    (st.1 || e.1, e.2)) (false, s)

/-- A Ledger unit's work on a tile's rows; the exponentials of a SOFTMAX run in Glossary unit u of the same Wing (rule R181). An
element whose exact value exceeds the FP32 range becomes an infinity (DESIGN CHOICE, notes/assumptions/94). -/
def ledApply (s : State) (at_ : Attrs) (t : Option TileId) (x : Tile) (w u : Nat) (hits : List EccHit) : Bool × State × Tile :=
  let (bad, s) := ledgerErrors (addHits (ledgerKeep s t w u x) hits) t w u x
  let eps := decodeF fp32 at_.normEps.toNat
  let out := x.rows.map fun r => ledgerFn (dLfunc x.d) at_.compat eps (r.map (xvRound fp32))
  let rows := out.map (·.1)
  let s := if bad then s
    else
      let s := modLed s w u fun y =>
        { y with rows := satAdd y.rows rows.length, nonfinite := satAdd y.nonfinite (rows.filter (·.any xvBad)).length,
                 rowsOpen := 0 }
      gloCount s w u (out.flatMap (·.2))
  (!bad, s, { x with rows := rows, nonfinite := x.nonfinite || rows.any (·.any xvBad) })

/-! ### Returns (rules R36 to R43, R77, R154) -/

/-- The float format of an output code (Table 2.5). -/
def fmtOf (f : Nat) : Fmt := if f = 1 then bf16 else if f = 2 then fp16 else fp32

/-- What one row becomes: writes to operand C's folio, clipped elements, SPX segments and raw ones, and whether an element is
written as a NaN or an infinity. -/
structure OutRow where
  writes : List (Nat × List Byte)
  clip : Nat
  segs : Nat
  raws : Nat
  bad : Bool
  deriving DecidableEq, Repr

/-- A row in a float format, at tensor row m (rule R40, Table 2.5). -/
def floatRow (d : List W32) (m : Nat) (row : List XV) : OutRow :=
  let f := dOfmt d
  let vs := (row.take (outCols d).2).map (encodeF (fmtOf f))
  { writes := [(dOff d 2 + elBytes f (m * outWidth d + (outCols d).1), vs.flatMap (bytesOf (halfBytes f / 2)))],
    clip := 0, segs := 0, raws := 0, bad := vs.any fun v => xvBad (decodeF (fmtOf f) v) }

/-- A row in an integer format, plain or compressed, at tensor row m (rules R38, R41 to R43, R152 to R154). -/
def intRow (d : List W32) (m : Nat) (row : List XV) : OutRow :=
  let f := dOfmt d
  let four := intFour f
  let pr := ceilDiv row.length 64
  let full := padTo (xvQ 0) (64 * pr) row
  let parts := if intRowExp f then [full] else chunksOf 64 pr full
  let qs := parts.map (quantBlock (if four then 4 else 8))
  let blocks := chunksOf 64 pr (qs.flatMap fun q => q.2.1)
  let exps := (dAux d 2 + expOff (tfOf f) pr m 0, qs.map fun q => BitVec.ofNat 8 q.1)
  let clip := sumNat (qs.map fun q => q.2.2)
  if dComp d then
    let r := spxRowBytes four blocks
    { writes := [exps, (dOff d 2 + m * spxRow four pr, r.1)], clip := clip, segs := r.2.1, raws := r.2.2, bad := false }
  else
    { writes := [exps, (dOff d 2 + actOff (tfOf f) pr m 0, blocks.flatMap (intBytes four))], clip := clip, segs := 0, raws := 0,
      bad := false }

/-- A row as Returns writes it. -/
def outRow (d : List W32) (m : Nat) (row : List XV) : OutRow := if isInt (dOfmt d) then intRow d m row else floatRow d m row

/-- Every row of a tile as Returns or a Loan station writes it. -/
def outRows (x : Tile) : List OutRow := x.rows.zipIdx.map fun r => outRow x.d (dM0 x.d + r.2) r.1

/-- Adds what a Returns unit counts. -/
def retCount (s : State) (w u : Nat) (os : List OutRow) : State :=
  modRet s w u fun y =>
    { y with clip := satAdd y.clip (sumNat (os.map fun o => o.clip)), spxSegs := satAdd y.spxSegs (sumNat (os.map fun o => o.segs)),
             spxRaw := satAdd y.spxRaw (sumNat (os.map fun o => o.raws)) }

/-- A tile after its rows have been converted for operand C. -/
def outTile (x : Tile) (os : List OutRow) : Tile :=
  { x with clip := x.clip + sumNat (os.map fun o => o.clip), nonfinite := x.nonfinite || os.any fun o => o.bad }

/-- Writes to a folio of this node by a station, for a tile of this node (t) or of another; a write of part of an uncorrectable
word is discarded, reported, and ends the tile (Table 15.2). Answers whether every write took effect. -/
def folioWrites (s : State) (rd : Reader) (t : Option TileId) (fid : Nat) (ws : List (Nat × List Byte)) : Bool × State :=
  ws.foldl (fun (st : Bool × State) w =>
    let (ok, s) := storeFolioAs st.2 rd t fid w.1 w.2
    (st.1 && ok, s)) (true, s)

def tileWrites (s : State) (x : Tile) (fid : Nat) (ws : List (Nat × List Byte)) : Bool × State :=
  folioWrites s .station (some x.id) fid ws

/-- A Returns unit's work: it writes a tile's rows to operand C's folio on this node. -/
def retApply (s : State) (t : Option TileId) (x : Tile) (w u : Nat) : Bool × State × Tile :=
  let os := outRows x
  let s := retCount s w u os
  let (ok, s) := folioWrites s (if t.isSome then .station else .remote) t (dFolio x.d 2) (os.flatMap fun o => o.writes)
  (ok, s, outTile x os)

end Sys2Proof.Machine
end

