-- ==== Sys2Proof/Machine/Loan.lean ====
section
/-! DEFINITION. The Loan stations (rules R309 to R322, R449): what a tile's take-up sends, how its slabs leave and come, the
collectives, and what arriving slips and responses do to a tile. Layouts that the manual does not give are the model's
(notes/assumptions/11). -/

namespace Sys2Proof.Machine

/-! ### Small parts -/

/-- Whether a node can be reached: the route table is loaded and its entry is valid (rules R303, R304, R309). -/
def peerOk (s : State) (node : Nat) : Bool := s.fab.routed && routeValid s node

/-- Bytes that a row-moving Loan tile moves (rule R122). -/
def loanBytes (d : List W32) : Nat := dM d * rowBytes d

/-- Whether a tile waits for responses to slips that it has sent. -/
def unanswered (x : Tile) : Bool := decide (x.loan.acked < x.loan.slips)

/-- A request slip of a tile that its Loan station holds, counted in the tile; a tile that waited for nothing waits from now on
(rule R312). -/
def loanSend (s : State) (t : TileId) (sl : Slip) : State :=
  match (findTile s t).filter tileHeld with
  | none => s
  | some x =>
    let from_ := if unanswered x then x.waitFrom else some s.clk.now
    let s := setTile s { x with loan := { x.loan with slips := x.loan.slips + 1 }, waitFrom := from_ }
    sendRequest s sl (some t) (loanWing x) t.q

/-- A slip of a tile with nothing set but its destination, class, function and kind. -/
def tileSlip (s : State) (x : Tile) (node kind : Nat) : Slip := newSlip s node x.cls.toNat (x.id.q / 32) kind

/-- The hint of a folio as a slip's RANK carries it, so that the far side can hold it against its own folio's (rule R317; DESIGN
CHOICE, notes/assumptions/11). -/
def rankHint (s : State) (fid : Nat) : Byte := BitVec.ofNat 8 (hintOf s fid + 1)

/-- WRITE slips that carry bytes, at most 4,096 each (rule R298), to a folio of the destination from an offset on. No folio reaches
past what a slip's OFFSET can say, so a tile whose rows do ends BAD_SHELFMARK as rule R316 says. -/
def sendWrites (s : State) (x : Tile) (base : Slip) (off : Nat) (bs : List Byte) : State :=
  if 2 ^ 25 < off + bs.length then failTile s x.id 3
  else
    forEach ((chunksOf 4096 bs.length bs).zipIdx) s fun s c =>
      loanSend s x.id { base with offset := BitVec.ofNat 25 (off + 4096 * c.2), len := BitVec.ofNat 13 c.1.length, payload := c.1 }

/-! ### Rows for stations of another node (rules R19, R315)

The sending Loan station carries the rows in WRITE slips that name no folio. What the far stations need beside the rows, the
descriptor and the round's attributes, goes before them (DESIGN CHOICE, notes/assumptions/11). -/

/-- Bytes of a value in those slips: a signed mantissa of 8 bytes and an exponent of 2, with codes for zeros, infinities and NaN. -/
def xvBytes : XV → List Byte
  | .nan => bytesOf 8 0 ++ bytesOf 2 0x7FFF
  | .inf neg => bytesOf 8 (1 + b2n neg) ++ bytesOf 2 0x7FFF
  | .fin q neg =>
    if q = 0 then bytesOf 8 (b2n neg) ++ bytesOf 2 0x7FFE
    else
      let e := floorLog2 (ratAbs q) - 62
      bytesOf 8 (BitVec.ofInt 64 (q * pow2 (-e)).num).toNat ++ bytesOf 2 (BitVec.ofInt 16 e).toNat

def xvOfBytes (b : List Byte) : XV :=
  let m := natOf (b.take 8)
  let e := natOf (b.drop 8)
  if e = 0x7FFF then (if m = 0 then .nan else .inf (m == 2))
  else if e = 0x7FFE then .fin 0 (m == 1)
  else .fin ((signed 64 m : Rat) * pow2 (signed 16 e)) false

def attrBytes (a : Attrs) : List Byte :=
  bytesOf 1 (b2n a.compat) ++ bytesOf 4 a.normEps.toNat ++ a.tables.flatMap fun t => bytesOf 4 t.1.toNat ++ bytesOf 4 t.2.toNat

def attrsOf (b : List Byte) : Attrs :=
  { compat := b.getD 0 0 != 0, normEps := BitVec.ofNat 32 (natOf ((b.drop 1).take 4)),
    tables := (chunksOf 8 4 (b.drop 5)).map fun t => (BitVec.ofNat 20 (natOf (t.take 4)), BitVec.ofNat 19 (natOf (t.drop 4))) }

/-- A tile on its way to the stations of another node. -/
def farBytes (s : State) (x : Tile) : List Byte :=
  wordBytes x.d ++ attrBytes (tileAttrs s x) ++ bytesOf 4 (x.rows.headD []).length ++ x.rows.flatMap fun r => r.flatMap xvBytes

/-- The rows that those bytes carry. -/
def farRows (b : List Byte) : List (List XV) :=
  let n := natOf ((b.drop 101).take 4)
  let vs := (chunksOf 10 b.length (b.drop 105)).map xvOfBytes
  chunksOf n vs.length vs

/-- The COUNT_LEN of such a slip: its top bit, and the bytes in all. -/
def farLen (n : Nat) : W32 := BitVec.ofNat 32 (2 ^ 31 + n)
def isFar (sl : Slip) : Bool := sl.folio == 0 && bit 31 sl.countLen.toNat

/-- What follows at DEST_NODE leaves this node's Loan station: rows for its stations, or the writes of a route whose last hop is the
far Loan station, which are plain data (rule R449). -/
def sendRemote (s : State) (x : Tile) : State :=
  if (dRemote x.d).length = 1 then
    let os := outRows x
    let s := setTile s (outTile x os)
    let base := { tileSlip s x (dDest x.d) kWrite with folio := BitVec.ofNat 20 (dFolio x.d 2), rank := 1 }
    forEach (os.flatMap fun o => o.writes) s fun s w => sendWrites s x base w.1 w.2
  else
    let bs := farBytes s x
    sendWrites s x { tileSlip s x (dDest x.d) kWrite with countLen := farLen bs.length } 0 bs

/-- A tile of another node as the stations here see it, on the Wing that its ALT_WING names (notes/assumptions/20). -/
def farTile (f : FarTile) : Tile :=
  let d := wordsOf (f.data.take 64)
  { id := { q := 32 * f.func, rnd := 0, idx := 0 }, d := d, w := dAlt d, r := 0, a := 0, cls := BitVec.ofNat 2 f.cls, order := 0,
    phase := .held, hop := 0, wtGot := 0, actGot := 0, auxGot := false, fetched := [0, 0, 0], passDone := 0, tableReady := true,
    table := none, rows := farRows f.data, status := 0, sat := false, replayed := false, nonfinite := false, maxabs := 0, clip := 0,
    startCyc := none, charged := 0, stamp := 0, waitFrom := none, rerun := false, fifo := false, readyFrom := none, loan := LoanSt.reset }

/-- One station's work for a tile of another node, as a tile status. The work takes its turn between the unit's own tiles
(notes/assumptions/98). last: whether the hop is the route's last. -/
def farHop (at_ : Attrs) (last : Bool) (st : Nat × State × Tile) (h : Hop) : Nat × State × Tile :=
  let (code, s, x) := st
  if code ≠ 0 then st
  else if h.st = 2 then
    let (code, s, x) := match tableBinding at_ x.d with
      | none => (0, s, x)
      | some b =>
        match heldTable s x.w h.unit (x.id.q / 32) b with
        | some e => (0, touchTable s x.w h.unit e, { x with table := some (e.place, e.len) })
        | none =>
          let r := fillTable s x.w h.unit (x.id.q / 32) b .remote none (x.cls == 0)
          (r.1, r.2.1, { x with table := r.2.2 })
    if code ≠ 0 then (code, s, x)
    else
      let r := gloApply s at_ none x x.w h.unit []
      (if r.1 then 0 else 0x0B, r.2)
  else if h.st = 3 then
    let r := ledApply s at_ none x x.w h.unit []
    (if r.1 then 0 else 0x0B, r.2)
  else if h.st = 4 then
    let r := retApply s none x x.w h.unit
    (if r.1 then 0 else 0x0B, r.2)
  else if last then
    let os := outRows x
    let r := folioWrites s .remote none (dFolio x.d 2) (os.flatMap fun o => o.writes)
    (if r.1 then 0 else 0x0B, r.2, outTile x os)
  else st

/-- The stations here carry out what is left of a tile of another node (rules R19, R315): the folios that it names on this node are
checked as rules R143, R172, R316 and Table 15.2 say, then each hop acts in turn. Answers a tile status. -/
def farRun (s : State) (f : FarTile) : Nat × State × Tile :=
  let x := farTile f
  let at_ := attrsOf ((f.data.drop 64).take 37)
  let hs := dRemote x.d
  let named := (outUse x.d).folio :: ((tableBinding at_ x.d).map fun b => b.1).toList
  let bad := named.any (entryBad s)
  let s := forEach named s fun s i => (readErrors s (entryAddr i) 16 .remote none).2
  if bad then (0x0B, s, x)
  else if !useOk s f.func (outUse x.d) || !tableOk s f.func (tableBinding at_ x.d) then (3, s, x)
  else hs.zipIdx.foldl (fun st h => farHop at_ (h.2 + 1 == hs.length) st h.1) (0, s, x)

/-! ### Rows that come into an IN unit (rules R123, R136, R138) -/

/-- The transfer unit of the tile's bank in which a RECV or GET gathers a slab, and through which the data of a collective comes. -/
def inBuf (x : Tile) : Buf :=
  { t := x.id, part := .inp, idx := x.hop, blk := 0, off := 0, len := unitBytes, line := false, unit := true, tag := [] }

/-- The tile's bank with that unit taken; none when its IN partition has none free. -/
def inRoom (s : State) (x : Tile) : Option Arr := placeBuf (getArr s x.w x.a) (keptFrom s x) (inBuf x)

/-- The tile takes its IN unit. -/
def holdUnit (s : State) (x : Tile) : State :=
  match inRoom s x with
  | none => s
  | some y =>
    setArr s x.w x.a { y with used := (y.bufs.drop (getArr s x.w x.a).bufs.length).foldl (markUsed (x.id.q / 32)) y.used }

/-- The IN unit that a tile holds. -/
def unitHeld (s : State) (x : Tile) : Option Buf := (getArr s x.w x.a).bufs.find? fun b => b.t == x.id && b.part == .inp

/-- First byte of the slab that a tile gathers, and its bytes. -/
def slabNow (x : Tile) : Nat × Nat :=
  let size := slabRows x.d * rowBytes x.d
  let k := x.loan.got / size
  (k * size, (slabRange x.d k).2 * rowBytes x.d)

/-- What a read of n bytes of a tile's IN unit from an offset on meets. -/
def unitErrors (s : State) (x : Tile) (off n : Nat) : Bool × State :=
  match unitHeld s x with
  | none => (false, s)
  | some b => readErrors s (carrelAddr x.w x.a (b.off + off)) n .station (some x.id)

/-- Bytes come into a tile's IN unit at an offset; the words that they reach in part are read first (rules R200, R370). -/
def unitPut (s : State) (x : Tile) (off : Nat) (bs : List Byte) : State :=
  match unitHeld s x with
  | none => s
  | some b =>
    let a := carrelAddr x.w x.a (b.off + off)
    (storeBytes (storeErrors s a bs.length .station (some x.id)) a bs).2

/-- A whole slab goes out of the unit to operand C. -/
def slabOut (s : State) (x : Tile) (start n : Nat) (b : Buf) : State :=
  let (bad, s) := unitErrors s x 0 n
  if bad then failTile s x.id 0x0B
  else
    let bs := readMem s (carrelAddr x.w x.a b.off) n
    let (ok, s) := tileWrites s x (dFolio x.d 2) [(dOff x.d 2 + dM0 x.d * rowBytes x.d + start, bs)]
    if ok then s else failTile s x.id 0x0B

/-- Bytes come to a place of the slab that a tile gathers; the slab goes out when it is whole. -/
def putRows (s : State) (t : TileId) (pos : Nat) (bs : List Byte) : State :=
  match (findTile s t).filter tileHeld with
  | none => s
  | some x =>
    match unitHeld s x with
    | none => s
    | some b =>
      let (start, n) := slabNow x
      let got := x.loan.got + bs.length
      let s := unitPut s x pos bs
      let s := setTile s { x with loan := { x.loan with got := got }, waitFrom := some s.clk.now }
      if got = start + n then slabOut s x start n b else s

/-- The bytes of a slip of a SEND, cut where the slabs of the RECV end; fuel: as many cuts as bytes. -/
def takeRows (s : State) (t : TileId) : Nat → List Byte → State
  | _, [] => s
  | 0, _ => s
  | fuel + 1, bs =>
    match findTile s t with
    | none => s
    | some x =>
      let (start, n) := slabNow x
      let k := start + n - x.loan.got
      if k = 0 then s else takeRows (putRows s t (x.loan.got - start) (bs.take k)) t fuel (bs.drop k)

/-- A GET asks for its next slab. -/
def getNext (s : State) (t : TileId) : State :=
  match (findTile s t).filter tileHeld with
  | none => s
  | some x =>
    let d := x.d
    if x.loan.asked = x.loan.got ∧ x.loan.got < loanBytes d then
      let (start, n) := slabNow x
      let from_ := dOff d 0 + dM0 d * rowBytes d + start
      if 2 ^ 25 < from_ + n then failTile s t 3
      else
        let s := setTile s { x with loan := { x.loan with asked := start + n } }
        forEach (List.range (ceilDiv n 4096)) s fun s i =>
          loanSend s t { tileSlip s x (dDest d) kRead with
                         folio := BitVec.ofNat 20 (dFolio d 0), offset := BitVec.ofNat 25 (from_ + 4096 * i),
                         rank := rankHint s (dFolio d 2), countLen := BitVec.ofNat 32 (min 4096 (n - 4096 * i)) }
    else s

/-! ### Rendezvous (rules R317, R318) -/

/-- Whether the RTS of a SEND is for a RECV of function f in a class. -/
def recvTakes (f cls : Nat) (d : List W32) (r : Slip) : Bool :=
  dOp d == 9 && dDest d == r.src.toNat && dSeed d == r.tag && f == r.func.toNat && cls == slipClass r

/-- Whether a RECV that an RTS is for stands before a tile in its stream and has none yet. -/
def recvBefore (s : State) (x : Tile) (r : Slip) : Bool :=
  let rnds := streamRounds s x.id.q
  (s.run.tiles.any fun y =>
    y.id.q == x.id.q && y.phase != .finished && !y.loan.granted && recvTakes (y.id.q / 32) y.cls.toNat y.d r &&
      streamBefore rnds y.id x.id && mayHold s x.id.q y.id.rnd x.id.rnd) ||
    untakenBefore s x fun rd d => recvTakes (x.id.q / 32) (ranClass rd) d r

/-- The earliest RECV in issue order that an RTS is for, when its Loan station holds it. -/
def recvFor (s : State) (r : Slip) : Option Tile :=
  (s.run.tiles.filter fun x =>
    x.phase == .held && !x.loan.granted && recvTakes (x.id.q / 32) x.cls.toNat x.d r && !recvBefore s x r).foldl
    (fun b x => match b with
      | none => some x
      | some y => if x.order < y.order ∨ (x.order = y.order ∧ x.id.idx < y.id.idx) then some x else b) none

/-- The data of a RECV or of a collective that comes from now on is for a live tile again. -/
def liveAgain (s : State) (ring : Bool) (f : Nat) (tag : W32) (from_ : LateRx → Bool) : State :=
  s.setFab { s.fab with late := s.fab.late.filter fun e => !(e.ring == ring && e.func == f && e.tag == tag && from_ e) }

/-- An RTS meets a RECV: the CTS goes to the sender. With different byte counts both tiles end with BAD_FORMAT, with different hints
with BAD_SHELFMARK (rules R317, R318). -/
def grantRecv (s : State) (x : Tile) (r : Slip) : State :=
  let st := if r.countLen.toNat ≠ loanBytes x.d then 1 else if r.rank != 0 && r.rank != rankHint s (dFolio x.d 2) then 3 else 0
  let c := answerTo s r kCts st
  let fl := getRx s r.src.toNat (slipClass r)
  let s := setRx s r.src.toNat (slipClass r) { fl with answers := ((r.seq, c) :: fl.answers).take 32768 }
  let s := liveAgain (sendResponse s c) false (x.id.q / 32) (dSeed x.d) fun e =>
    e.src == r.src && e.cls == slipClass r && e.rts == r.seq
  if st ≠ 0 then failTile s x.id st
  else setTile s { x with loan := { x.loan with granted := true, rts := r.seq }, waitFrom := some s.clk.now }

/-- The data of a SEND names the RTS that it follows, by its SEQ in the fields that no WRITE slip of a SEND uses otherwise, so that
it finds the RECV which that RTS met (rule R318; DESIGN CHOICE, notes/assumptions/11). -/
def nameRts (sl : Slip) (rts : BitVec 16) : Slip := { sl with rank := (rts >>> 8).setWidth 8, status := rts.setWidth 8 }
def rtsOf (sl : Slip) : BitVec 16 := sl.rank ++ sl.status

/-- Whether an RTS is one of a collective: its COUNT_LEN carries a ring COUNT. -/
def isRing (sl : Slip) : Bool := bits 31 24 sl.countLen.toNat != 0 && !bit 31 sl.countLen.toNat

/-- RTS that wait meet the RECVs that are there for them, in the order in which they came. -/
def matchRts (s : State) : State :=
  forEach (s.fab.rtsWait.filter fun r => !isRing r) s fun s r =>
    match recvFor s r with
    | none => s
    | some x => grantRecv (s.setFab { s.fab with rtsWait := s.fab.rtsWait.erase r }) x r

/-! ### Collectives (rules R319 to R322) -/

/-- Steps of a collective: n − 1 for ALLGATHER, twice that for ALLREDUCE. -/
def collSteps (op n : Nat) : Nat := if op = 0x0D then 2 * (n - 1) else n - 1
/-- (a − b) mod n for ring positions. -/
def ringSub (n a b : Nat) : Nat := (a + n - b % n) % n
/-- The chunk that member r sends at a step, and the one it receives. -/
def chunkSent (op n r t : Nat) : Nat :=
  if op = 0x0D then (if t < n - 1 then ringSub n r (1 + t) else ringSub n r (t - (n - 1))) else ringSub n r t
def chunkGot (op n r t : Nat) : Nat := chunkSent op n (ringSub n r 1) t

/-- Elements of a tile, and where chunk j begins (rule R321). -/
def collElems (d : List W32) : Nat := dM d * (16 * dKtot d)
def chunkStart (d : List W32) (n j : Nat) : Nat := j * collElems d / n
/-- Words of chunk or block j. -/
def chunkWords (d : List W32) (n j : Nat) : Nat :=
  if dOp d = 0x0D then chunkStart d n (j + 1) - chunkStart d n j else loanBytes d / 4

/-- Bytes of a word as a step's slips carry it: an element in IFMT, so that a member sends 2(n − 1)/n of the tile's bytes. Where
IFMT is BF16, 4 bytes carry what 2 bytes cannot: the FP32 partial sums that rule R321 has a member send on, and results in F32
(notes/assumptions/21). -/
def stepBytes (d : List W32) (n t : Nat) : Nat :=
  if dOp d ≠ 0x0D ∨ dIfmt d = 0 then 4 else if t = 0 then 2 else if t < n - 1 then 4 else elBytes (dOfmt d) 1

/-- Words as el bytes each, and back: two bytes are the upper half of an FP32 pattern. -/
def packWords (el : Nat) (ws : List W32) : List Byte := ws.flatMap fun v => bytesOf el (if el = 2 then v.toNat / 65536 else v.toNat)
def unpackWords (el : Nat) (bs : List Byte) : List W32 :=
  (chunksOf el bs.length bs).map fun c => BitVec.ofNat 32 (if el = 2 then 65536 * natOf c else natOf c)

/-- The words of this member's own rows: FP32 patterns of the elements for ALLREDUCE, the bytes for ALLGATHER. -/
def ownWords (d : List W32) (bs : List Byte) : List W32 :=
  unpackWords (if dOp d = 0x0D then elBytes (dIfmt d) 1 else 4) bs

def getChunk (x : Tile) (j : Nat) : List W32 := tabGet [] x.loan.chunks j
def putChunk (x : Tile) (j : Nat) (ws : List W32) : Tile :=
  { x with loan := { x.loan with chunks := tabSet [] x.loan.chunks j ws } }

/-- One FP32 addition, rounded to nearest (rule R321). -/
def addF32 (a b : W32) : W32 := BitVec.ofNat 32 (encodeF fp32 (xvAdd (decodeF fp32 a.toNat) (decodeF fp32 b.toNat)))

/-- A result in OFMT, as the FP32 pattern of its value. -/
def toOfmt (d : List W32) (a : W32) : W32 :=
  if dOfmt d = 1 then BitVec.ofNat 32 (65536 * encodeF bf16 (decodeF fp32 a.toNat)) else a

/-- This member's own rows stand beside its chunks, under the key n. -/
def ownChunk (x : Tile) (n j : Nat) : List W32 :=
  ((getChunk x n).drop (chunkStart x.d n j)).take (chunkWords x.d n j)

/-- Writes a finished chunk or block to operand C. -/
def writeChunk (s : State) (x : Tile) (n j : Nat) (ws : List W32) : Bool × State :=
  let d := x.d
  if dOp d = 0x0D then
    let el := elBytes (dOfmt d) 1
    tileWrites s x (dFolio d 2) [(dOff d 2 + (dM0 d * (16 * dKtot d) + chunkStart d n j) * el, packWords el ws)]
  else tileWrites s x (dFolio d 2) [(dOff d 2 + j * loanBytes d, wordBytes ws)]

/-- Whether all of a collective's own rows are loaded. -/
def collLoaded (x : Tile) : Bool := x.passDone == slabCount x.d

/-- COUNT_LEN of a tile's slips: ring COUNT and total tile bytes. -/
def collLen (x : Tile) : W32 := BitVec.ofNat 32 (fld 24 (ringCount x.loan.ring) + loanBytes x.d)

/-- A slip to the successor. -/
def collSlip (s : State) (x : Tile) (kind : Nat) : Slip :=
  let ring := x.loan.ring
  let r := ringRank ring
  { tileSlip s x (ringMember ring ((r + 1) % ringCount ring)) kind with
    tag := dSeed x.d, rank := BitVec.ofNat 8 r, countLen := collLen x }

/-- Data of a collective comes through its IN unit, byte after byte around it, and waits for its step (rule R123; DESIGN CHOICE,
notes/assumptions/98). -/
def collPut (s : State) (x : Tile) (bs : List Byte) : State :=
  let at_ := x.loan.got % unitBytes
  let s := unitPut (unitPut s x at_ (bs.take (unitBytes - at_))) x 0 (bs.drop (unitBytes - at_))
  setTile s { x with loan := { x.loan with inq := x.loan.inq ++ bs, got := x.loan.got + bs.length }, waitFrom := some s.clk.now }

/-- What the read of the next k bytes that wait meets in the IN unit. -/
def collErrors (s : State) (x : Tile) (k : Nat) : Bool × State :=
  let at_ := (x.loan.got - x.loan.inq.length) % unitBytes
  let n := min k unitBytes
  let (bad, s) := unitErrors s x at_ (min n (unitBytes - at_))
  let (bad', s) := unitErrors s x 0 (n - (unitBytes - at_))
  (bad || bad', s)

/-- Sends the next step's chunk to the successor. -/
def collSend (s : State) (x : Tile) : State :=
  let n := ringCount x.loan.ring
  let t := x.loan.sentSteps
  let j := chunkSent (dOp x.d) n (ringRank x.loan.ring) t
  let ws := if t = 0 && dOp x.d == 0x0D then ownChunk x n j else getChunk x j
  let x := { x with loan := { x.loan with sentSteps := t + 1 } }
  let s := setTile s x
  sendWrites s x (collSlip s x kWrite) 0 (packWords (stepBytes x.d n t) ws)

/-- Uses what the next step to come brought: a sum in ALLREDUCE's first n − 1 steps, else a finished chunk or block. -/
def collTake (s : State) (x : Tile) : State :=
  let n := ringCount x.loan.ring
  let t := x.loan.step
  let j := chunkGot (dOp x.d) n (ringRank x.loan.ring) t
  let el := stepBytes x.d n t
  let k := el * chunkWords x.d n j
  let got := unpackWords el (x.loan.inq.take k)
  let (bad, s) := collErrors s x k
  let x := { x with loan := { x.loan with inq := x.loan.inq.drop k, step := t + 1 }, waitFrom := some s.clk.now }
  let keep := fun (ws : List W32) =>
    let x := putChunk x j ws
    let (ok, s) := writeChunk (setTile s x) x n j ws
    if ok then s else failTile s x.id 0x0B
  if bad then failTile s x.id 0x0B
  else if dOp x.d = 0x0D ∧ t < n - 1 then
    let sum := (got.zip (ownChunk x n j)).map fun p => addF32 p.1 p.2
    if t + 1 = n - 1 then keep (sum.map (toOfmt x.d)) else setTile s (putChunk x j sum)
  else keep got

/-- Goes on with a collective as far as what has arrived allows. fuel: twice its steps. -/
def collPump (s : State) (t : TileId) : Nat → State
  | 0 => s
  | fuel + 1 =>
    match findTile s t with
    | none => s
    | some x =>
      let n := ringCount x.loan.ring
      let total := collSteps (dOp x.d) n
      let need := stepBytes x.d n x.loan.step * chunkWords x.d n (chunkGot (dOp x.d) n (ringRank x.loan.ring) x.loan.step)
      if x.phase ≠ .held || !collLoaded x then s
      else if x.loan.rtsSeen && decide (x.loan.sentSteps < total) && decide (x.loan.sentSteps ≤ x.loan.step) then
        collPump (collSend s x) t fuel
      else if decide (x.loan.step < total) && decide (need ≤ x.loan.inq.length) then collPump (collTake s x) t fuel
      else s

def collGo (s : State) (t : TileId) : State :=
  match findTile s t with
  | none => s
  | some x => collPump s t (2 * collSteps (dOp x.d) (ringCount x.loan.ring) + 2)

/-- Whether a slip's TAG is that of a collective tile of its function that a Loan station holds (rule R320). -/
def collTag (x : Tile) (sl : Slip) : Bool :=
  opColl (dOp x.d) && x.phase == .held && dSeed x.d == sl.tag && x.id.q / 32 == sl.func.toNat

/-- Whether a slip's sender is the ring neighbour that it says: the predecessor (back) or the successor. -/
def collFrom (x : Tile) (sl : Slip) (back : Bool) : Bool :=
  let n := ringCount x.loan.ring
  let r := ringRank x.loan.ring
  let at_ := if back then ringSub n r 1 else (r + 1) % n
  sl.rank.toNat == at_ && ringMember x.loan.ring at_ == sl.src.toNat

/-- An RTS with the TAG of a collective tile. COUNT or bytes that differ end the tile BAD_FORMAT; the successor's RTS lets data go
(rule R320; notes/assumptions/21). -/
def collRts (s : State) (x : Tile) (sl : Slip) : State :=
  if sl.countLen != collLen x then failTile s x.id 1
  else
    let seen := x.loan.rtsSeen || collFrom x sl false
    collGo (setTile s { x with loan := { x.loan with rtsSeen := seen }, waitFrom := some s.clk.now }) x.id

/-- The tile of a collective that an RTS is for: one that has the successor's RTS takes no second one. -/
def collFor (s : State) (sl : Slip) : Option Tile :=
  s.run.tiles.find? fun x => collTag x sl && !(x.loan.rtsSeen && collFrom x sl false)

/-- RTS that wait for a collective meet its tile at its take-up: the first of each sender. -/
def collWaiting (s : State) (t : TileId) : State :=
  forEach s.fab.rtsWait s fun s r =>
    match findTile s t with
    | none => s
    | some x =>
      let first := (s.fab.rtsWait.find? fun y => isRing y && collTag x y && y.src == r.src) == some r
      if isRing r && collTag x r && first then collRts (s.setFab { s.fab with rtsWait := s.fab.rtsWait.erase r }) x r else s

/-! ### Take-up (rules R303, R309, R314, R318, R320) -/

/-- What a Loan station does when it takes up a tile. A RECV meets its RTS in `matchRts`. -/
def loanStart (s : State) (x : Tile) : State :=
  let d := x.d
  let op := dOp d
  let ring := x.loan.ring
  let far := (dHops d).any fun h => h.wsel == 2
  let lastLocal := x.hop + 1 == (dLocal d).length
  let ok := if opColl op then peerOk s (ringMember ring ((ringRank ring + 1) % ringCount ring))
    else if op = 9 ∨ (far ∧ lastLocal) then peerOk s (dDest d) else true
  if !ok then failTile s x.id 2
  else if op = 8 then
    let rts := (getTx s (dDest d) x.cls.toNat).seq
    loanSend (setTile s { x with loan := { x.loan with rts := rts } }) x.id { tileSlip s x (dDest d) kRts with
                      tag := dSeed d, rank := rankHint s (dFolio d 0), countLen := BitVec.ofNat 32 (loanBytes d) }
  else if op = 9 then setTile (holdUnit s x) { x with waitFrom := some s.clk.now }
  else if op = 0x0B then getNext (holdUnit s x) x.id
  else if op = 0x0C then
    loanSend s x.id { tileSlip s x (dDest d) kAdd with
                      folio := BitVec.ofNat 20 (dFolio d 2), offset := BitVec.ofNat 25 (dOff d 2 + 8 * (dAux d 2 / 64 % 8)),
                      len := 8, payload := bytesOf 8 (wordAt d 5) }
  else if opColl op then
    let s := liveAgain s true (x.id.q / 32) (dSeed d) fun _ => true
    collWaiting (loanSend (holdUnit s x) x.id (collSlip s x kRts)) x.id
  else if op ≠ 0x0A ∧ far ∧ lastLocal then sendRemote s x
  else s

/-! ### Slabs (rules R136, R318) -/

/-- A slab of rows leaves for the fabric, or joins a collective's own rows. bs: its bytes; k: its number. -/
def loanSlab (s : State) (x : Tile) (k : Nat) (bs : List Byte) : State :=
  let d := x.d
  let at_ := (slabRange d k).1 * rowBytes d
  if dOp d = 8 then
    let sl := { tileSlip s x (dDest d) kWrite with tag := dSeed d, countLen := BitVec.ofNat 32 (loanBytes d) }
    sendWrites s x (nameRts sl x.loan.rts) at_ bs
  else if dOp d = 0x0A then
    sendWrites s x { tileSlip s x (dDest d) kWrite with folio := BitVec.ofNat 20 (dFolio d 2), rank := rankHint s (dFolio d 0) }
      (dOff d 2 + dM0 d * rowBytes d + at_) bs
  else
    let n := ringCount x.loan.ring
    let r := ringRank x.loan.ring
    let own := getChunk x n ++ ownWords d bs
    let x := putChunk { x with waitFrom := some s.clk.now } n own
    if collLoaded x && dOp d == 0x0E then
      let x := putChunk x r own
      let (ok, s) := writeChunk (setTile s x) x n r own
      if ok then collGo s x.id else failTile s x.id 0x0B
    else collGo (setTile s x) x.id

/-! ### Waits and ends (rules R139, R312, Table 12.5) -/

/-- Whether a collective has received and sent everything. -/
def collAll (x : Tile) : Bool :=
  let total := collSteps (dOp x.d) (ringCount x.loan.ring)
  x.loan.step == total && x.loan.sentSteps == total

/-- Whether a Loan station has finished with a tile. -/
def loanDone (x : Tile) : Bool :=
  let d := x.d
  let op := dOp d
  if op = 8 then x.loan.granted && x.passDone == slabCount d && !unanswered x
  else if op = 0x0A then x.passDone == slabCount d && !unanswered x
  else if op = 9 ∨ op = 0x0B then x.loan.got == loanBytes d
  else if opColl op then collLoaded x && collAll x
  else !unanswered x

/-- Whether a tile waits at its Loan station for a grant, a response, rows or a slip of a collective. -/
def inWait (x : Tile) : Bool :=
  let op := dOp x.d
  tileHeld x &&
    if op = 8 then !x.loan.granted || unanswered x
    else if op = 9 ∨ op = 0x0B then decide (x.loan.got < loanBytes x.d)
    else if opColl op then unanswered x || (collLoaded x && !collAll x)
    else unanswered x

/-! ### Slips that name no folio: data of a SEND or a collective -/

/-- Data that comes for a tile that has ended is discarded, and its burst counts once (rule R140). -/
def lateData (s : State) (e : LateRx) : State :=
  if e.counted then s
  else
    let late := s.fab.late.map fun x => if x = e then { x with counted := true } else x
    modWing (s.setFab { s.fab with late := late }) e.wing fun y => { y with lateBursts := satAdd y.lateBursts 1 }

/-- The ended tile that data is for. -/
def lateFor (s : State) (sl : Slip) : Option LateRx :=
  s.fab.late.find? fun e =>
    e.func == sl.func.toNat && e.tag == sl.tag && e.ring == isRing sl &&
      (e.ring || (e.src == sl.src && e.cls == slipClass sl && e.rts == rtsOf sl))

/-- The tile that data of a SEND or of a collective is for: of a SEND, the RECV that its RTS met (rule R318). -/
def dataTile (s : State) (sl : Slip) : Option Tile :=
  s.run.tiles.find? fun x =>
    if isRing sl then collTag x sl
    else recvTakes (x.id.q / 32) x.cls.toNat x.d sl && x.phase == .held && x.loan.granted && x.loan.rts == rtsOf sl

/-- Data of a SEND or of a collective step reaches its tile: of a collective only what comes from the predecessor is a step's. -/
def loanData (s : State) (sl : Slip) : State :=
  match dataTile s sl with
  | some x =>
    if !isRing sl then takeRows s x.id sl.payload.length sl.payload
    else if sl.countLen != collLen x then failTile s x.id 1
    else if collFrom x sl true then
      collGo (collPut s x sl.payload) x.id
    else s
  | none =>
    match lateFor s sl with
    | some e => lateData s e
    | none => s

/-! ### Responses (rules R311, R312, R316) -/

/-- A response for a tile that has ended is discarded, and the tile's burst counts once (rules R140, R312). -/
def lateAnswer (s : State) (x : SentSlip) : State :=
  if x.late then s
  else
    let mark := fun (f : TxFlow) =>
      { f with open_ := f.open_.map fun y => if y.tile = x.tile then { y with late := true } else y }
    let s := s.setFab { s.fab with tx := s.fab.tx.map fun f => (f.1, mark f.2) }
    modWing s x.wing fun y => { y with lateBursts := satAdd y.lateBursts 1 }

/-- A response for a tile: a status other than OK ends it. r: the response slip. -/
def loanAnswer (s : State) (x : SentSlip) (r : Slip) : State :=
  match x.tile with
  | none => s
  | some t =>
    match if x.ended then none else findTile s t with
    | none => lateAnswer s x
    | some y =>
      if r.status ≠ 0 then failTile s t r.status.toNat
      else
        let y := { y with loan := { y.loan with acked := y.loan.acked + 1, granted := y.loan.granted || r.kind.toNat == kCts },
                          waitFrom := some s.clk.now }
        if r.kind.toNat = kReadData then
          let pos := x.slip.offset.toNat - (dOff y.d 0 + dM0 y.d * rowBytes y.d) - (slabNow y).1
          getNext (putRows (setTile s y) t pos r.payload) t
        else if isFar x.slip then
          setTile s { y with clip := y.clip + r.countLen.toNat, nonfinite := y.nonfinite || r.rank != 0 }
        else setTile s y

end Sys2Proof.Machine
end

