-- ==== Sys2Proof/Machine/Stations.lean ====
section
/-! DEFINITION. Stations (rules R127 to R131, R136, R176, R181, R250): which tile a station takes up, what its take-up does, the
slabs it consumes, and how it finishes a tile. The commands STATION_TAKE_UP, CREDIT_RETURN, USER_TABLE_FILL,
STATION_TILE_FINISH, DRAIN_END, SLAB_ARRIVE and PASS_START. -/

namespace Sys2Proof.Machine

/-! ### What follows from tiles that end (rules R108, R221, R280, R290) -/

/-- Whether an unfinished tile names a folio (rule R221). -/
def tileNames (s : State) (x : Tile) (fid : Nat) : Bool :=
  x.phase != .finished && x.phase != .fenced && (lookups (tileAttrs s x) x.d).contains fid

/-- Folio free commands whose last tile has finished are complete; the folio's ID is free (rule R221). -/
def settleFrees (s : State) : State :=
  forEach s.desk.cmds s fun s c =>
    match c.why with
    | .folioFree fid =>
      if s.run.tiles.any fun x => tileNames s x fid then s else respond (setFolio s fid Folio.reset) c.f c.k stOk []
    | _ => s

/-- Tiles of a queue that is being destroyed leave the stations at their boundaries (rule R290). -/
def settleDestroy (s : State) (q : Nat) : State :=
  if (getQ s q).state = 4 then dropTiles s fun t => t.id.q == q && !tileHeld t else s

/-- A suspended round that no station holds any more is charged no longer (rule R238, Table 5.12). -/
def settleCharge (s : State) (q : Nat) : State :=
  modQ s q fun x => { x with rounds := x.rounds.map fun r =>
    if r.state = .suspended && r.since.isSome && !roundHeld s q r.num then stopCharge s r else r }

/-- Everything that the end of a tile, its leaving a station, or its take-up lets happen. -/
def settle (s : State) : State :=
  let s := matchRts s
  let qs := s.desk.queues.map fun x => x.1
  settleStalls (settleFrees (forEach qs s fun s q => settleCharge (settleDestroy (settleFaults (settleReturns s q) q) q) q))

/-! ### Order at a station (rules R105, R128) -/

/-- Whether a round runs, so that stations take its tiles up; no round of a queue that is being destroyed does (rule R290). -/
def roundRuns (s : State) (t : TileId) : Bool :=
  match findRound s t.q t.rnd with
  | some r => r.result.isNone && r.state == .running && !r.stopping && (getQ s t.q).state != 4
  | none => false

/-- The stations of this node on a tile's route, from hop h on; a MATMUL tile without CLOSE ends at the array. -/
def routeFrom (w a : Nat) (d : List W32) (h : Nat) : List StRef :=
  let hs := if dOp d == 1 && !dClose d then (dLocal d).take 1 else dLocal d
  (hs.drop h).map (hopSt w a d)

/-- Whether a tile in hand has still to be taken up by a station. -/
def stillUses (st : StRef) (y : Tile) : Bool :=
  let at_ := y.phase == .ahead || y.phase == .between || y.phase == .aside
  y.phase != .finished && y.phase != .fenced && (routeFrom y.w y.a y.d (if at_ then y.hop else y.hop + 1)).contains st

/-- Whether a descriptor's tile uses a station of this node. -/
def descUses (s : State) (st : StRef) (_ : Round) (d : List W32) : Bool :=
  match physOf s (dLarray d) with
  | some (w, a) => (routeFrom w a d 0).contains st
  | none => false

/-- Whether every earlier tile of the stream that uses the station has been taken up by it. -/
def streamClear (s : State) (x : Tile) (st : StRef) : Bool :=
  let rnds := streamRounds s x.id.q
  !(s.run.tiles.any fun y =>
      y.id.q == x.id.q && streamBefore rnds y.id x.id && mayHold s x.id.q y.id.rnd x.id.rnd && stillUses st y) &&
    !untakenBefore s x (descUses s st)

/-- Whether an operation on the tile's group that was taken up before has not been executed yet (rule R92). The order is that of the
take-up: a later round's operation that its array took up before an earlier round of the queue is re-executed goes first (DESIGN
CHOICE, notes/assumptions/109). -/
def groupBehind (s : State) (x : Tile) : Bool :=
  (s.run.tiles.takeWhile fun z => z.id != x.id).any fun z => groupWaits z (dLarray x.d) (dGroup x.d)

/-- Whether a class leaves the C0 tiles the slot that a reservation keeps for them: one of the eight of a physical array (rule R127,
Table 5.9). -/
def slotCredit (s : State) (w a : Nat) (cls : BitVec 2) : Bool :=
  !reservedAny s || cls == 0 || decide ((slotsWith s w a fun z => z.held && z.cls != 0).length + 1 < 8)

/-- The lowest free slot that a logical array may use for a tile of a class. -/
def freeSlot (s : State) (w a l : Nat) (cls : BitVec 2) : Option Nat :=
  if slotCredit s w a cls then (slotsOf s l).find? fun k => !(getSlot s w a k).held else none

/-- Whether the first data of a tile is resident, and its group can work (rules R86, R92, R128); a tile whose rows come through the
Loan station has its IN unit free (rules R123, R127). -/
def tileReady (s : State) (x : Tile) : Bool :=
  let d := x.d
  let op := dOp d
  let g := getGroup s (dLarray d) (dGroup d)
  if x.phase = .between then true
  else
    x.phase == .ahead && !splitBlocked s x && unfenced s x &&
      if opArray op then
        !groupBehind s x &&
          if op = 1 then
            x.wtGot != 0 && x.actGot != 0 &&
              if dOpen d then !g.live && (freeSlot s x.w x.a (dLarray d) x.cls).isSome else g.live
          else if op = 2 then g.live
          else g.live && x.auxGot
      else if op = 9 ∨ op = 0x0B then (inRoom s x).isSome
      else if opColl op then x.actGot != 0 && (inRoom s x).isSome
      else if op = 0x0C then true
      else x.actGot != 0

/-! ### Setting aside (rules R181, R250) -/

/-- Whether a tile is at a boundary where it may be set aside. -/
def asideBoundary (x : Tile) : Bool :=
  let op := dOp x.d
  if x.hop = 0 then
    if op = 1 then decide (x.passDone < (seqOf x).length) else if opRow op then decide (x.passDone < slabCount x.d) else false
  else decide (2 ≤ x.rows.length)

/-- Whether a C0 tile may have the tile that a unit holds set aside. -/
def maySetAside (s : State) (st : StRef) (x : Tile) : Bool :=
  reservedAny s && x.cls == 0 && (unitAside s st).isNone &&
    match (unitTile s st).bind (findTile s) with
    | none => false
    | some y => y.cls != 0 && asideBoundary y

def isSoftmax (x : Tile) (st : StRef) : Bool := st.kind == .ledger && dLfunc x.d == 4

/-- The Glossary unit that a SOFTMAX tile of a Ledger unit needs, and the Ledger unit that may hold a Glossary unit. -/
def softGlo (st : StRef) : StRef := { st with kind := .glossary }
def softLed (st : StRef) : StRef := { st with kind := .ledger }

/-- Whether a station can give itself to a tile: it is free, or it may set its tile aside. A Glossary unit that a SOFTMAX tile
holds is set aside together with that tile. -/
def stationYields (s : State) (st : StRef) (x : Tile) : Bool :=
  if st.kind = .loan then true
  else if (unitTile s st).isNone then x.cls == 0 || (unitAside s st).isNone
  else if st.kind = .glossary && (getGlo s st.wing st.unit).heldBySoftmax then maySetAside s (softLed st) x
  else maySetAside s st x

/-- Whether a station can take the tile up as far as units go. -/
def unitsOk (s : State) (st : StRef) (x : Tile) : Bool :=
  stationYields s st x &&
    (!isSoftmax x st ||
      let g := getGlo s st.wing st.unit
      (g.heldBySoftmax && g.tile == unitTile s st) || stationYields s (softGlo st) x)

/-- The holder of a unit is set aside; a SOFTMAX tile gives its Glossary unit up with it. -/
def setAside (s : State) (st : StRef) : State :=
  let st := if st.kind = .glossary && (getGlo s st.wing st.unit).heldBySoftmax then softLed st else st
  match unitTile s st with
  | none => s
  | some t =>
    let s := putUnit s st none (some t)
    let s := if st.kind = .ledger then
        modGlo s st.wing st.unit fun g => if g.tile = some t then { g with tile := none, heldBySoftmax := false } else g
      else s
    match findTile s t with
    | none => s
    | some y => setTile s { y with phase := .aside }

/-! ### The best candidate -/

def lexLt : List Nat → List Nat → Bool
  | a :: as, b :: bs => decide (a < b) || (a == b && lexLt as bs)
  | _, _ => false

/-- Class, then on a folded array the logical array that did not finish last, then the round admitted first, then issue order
(rules R109, R128). -/
def tileKey (s : State) (st : StRef) (x : Tile) : List Nat :=
  let turn := if st.kind = .array then b2n (dLarray x.d == (getArr s st.wing st.unit).lastL) else 0
  [x.cls.toNat, turn, x.order, x.id.idx]

/-- Whether a tile may be taken up at a station. -/
def mayTake (s : State) (st : StRef) (x : Tile) : Bool :=
  (x.phase == .ahead || x.phase == .between) && stOf x == some st && roundRuns s x.id && !cutShort s x.id &&
    (st.kind != .array || (getArr s st.wing st.unit).fault.isNone) && streamClear s x st && tileReady s x && unitsOk s st x

def bestAt (s : State) (st : StRef) : Option Tile :=
  (s.run.tiles.filter (mayTake s st)).foldl (fun b x =>
    match b with
    | none => some x
    | some y => if lexLt (tileKey s st x) (tileKey s st y) then some x else b) none

/-! ### Taking up -/

/-- A MATMUL tile at the array: an opening tile claims a slot; the generator starts from the tile's seed (rules R66, R86). -/
def takeMatmul (s : State) (x : Tile) : State :=
  let d := x.d
  let l := dLarray d
  let gen := seedGen (dSeed d) l
  let s := modArr s x.w x.a fun y => { y with gen := gen }
  if dOpen d then
    match freeSlot s x.w x.a l x.cls with
    | none => s
    | some k =>
      let cols := 16 * dBlocks d
      let z : Slot := { Slot.reset with held := true, fn := x.id.q / 32, cls := x.cls, larray := l, group := dGroup d, shape := shapeOf d,
                                        cols := cols, acc := List.replicate (dM d * cols) 0 }
      modGroup (setSlot s x.w x.a k z) l (dGroup d) fun g =>
        { g with live := true, liveShape := shapeOf d, liveRnd := x.id.rnd, slot := k, steps := 0, gen := gen }
  else modGroup s l (dGroup d) fun g => { g with liveRnd := x.id.rnd, gen := gen }

/-- An accumulator read takes its snapshot (rule R95). -/
def takeAccRead (s : State) (x : Tile) (hits : List EccHit) : State :=
  let g := getGroup s (dLarray x.d) (dGroup x.d)
  let z := getSlot s x.w x.a g.slot
  let (broken, s) := accErrors (addHits s hits) x.w x.a g.slot z
  if broken then s
  else
    let rows := slotRows z
    setTile s { x with rows := rows, nonfinite := x.nonfinite || rows.any (·.any xvBad) }

/-- The accumulators of one token that an accumulator write leaves: its source's columns, and free values past them. -/
def writeRow (d : List W32) (cols ctr m : Nat) (bs : List Byte) : List (BitVec 48) :=
  let bf := dIfmt d == 1
  ((chunksOf (srcEl d) (dN d) bs).map fun b => preloadVal (dMode d) bf (natOf b)) ++
    (List.range (cols - dN d)).map fun c => preloadVal (dMode d) (dMode d == 2)
      ((Config.freeWord (ctr + m * (cols - dN d) + c)).toNat % if dMode d = 2 then 65536 else 2 ^ 32)

/-- An accumulator write replaces the group's accumulators (rules R87, R95). -/
def takeAccWrite (s : State) (x : Tile) (hits : List EccHit) : State :=
  let d := x.d
  let s := addHits s hits
  let (bad, s) := bankErrors s x (fun b => b.part == .aux) .station
  if bad then failTile s x.id 0x0B
  else
    let src := (bufData s x.w x.a (passBuf (getArr s x.w x.a) x.id .aux 0 0)).1
    let g := getGroup s (dLarray d) (dGroup d)
    let rowsOf := chunksOf (dN d * srcEl d) (dM d) src
    let cols := 16 * dBlocks d
    let acc := rowsOf.zipIdx.flatMap fun r => writeRow d cols s.freeCtr r.2 r.1
    let s := s.setFreeCtr (s.freeCtr + dM d * (cols - dN d))
    let s := putAcc s x.w x.a g.slot { getSlot s x.w x.a g.slot with acc := acc }
    modArr s x.w x.a fun y => { y with bufs := y.bufs.filter fun b => b.t != x.id }

/-- A Glossary unit takes a tile up: its mode, its function, and its user table, which a fill brings when the unit does not
hold it (rule R176). -/
def takeGlossary (s : State) (x : Tile) (w u : Nat) : State :=
  let s := modGlo s w u fun g => { g with tile := some x.id, heldBySoftmax := false, compat := (tileAttrs s x).compat,
                                          gfunc := BitVec.ofNat 4 (dGfunc x.d) }
  match tileTable s x with
  | none => setTile s { x with tableReady := true, table := none }
  | some b =>
    match heldTable s w u (x.id.q / 32) b with
    | some e => setTile (touchTable s w u e) { x with tableReady := true, table := some (e.place, e.len) }
    | none => setTile s { x with tableReady := false, table := none }

/-- A Ledger unit takes a tile up; SOFTMAX takes the Glossary unit with it (rules R181, R182). ROWS_OPEN shows min(2, M) from the
take-up until the unit has finished (DESIGN CHOICE, notes/assumptions/69). -/
def takeLedger (s : State) (x : Tile) (w u : Nat) : State :=
  let s := modLed s w u fun y => { y with lfunc := BitVec.ofNat 4 (dLfunc x.d), rowsOpen := BitVec.ofNat 2 (min 2 (dM x.d)) }
  if dLfunc x.d = 4 then
    let g := getGlo s w u
    setGlo s w u { g with tile := some x.id, heldBySoftmax := true, compat := (tileAttrs s x).compat,
                          gfunc := BitVec.ofNat 4 (dGfunc x.d) }
  else s

/-- The rows of a tile leave the input, or the IN units, in which they stood. -/
def leaveInput (s : State) (x : Tile) : State :=
  match stOf x with
  | none => s
  | some st => modArr s st.wing x.a fun y => { y with bufs := y.bufs.filter fun b => !(b.t == x.id && b.part == .inp) }

/-- What a Lookup Array does when it takes a tile up. -/
def takeArray (s : State) (x : Tile) (hits : List EccHit) : State :=
  if dOp x.d = 1 then loadIdle (preloadIn (takeMatmul (addHits s hits) x) x.id) x.w x.a
  else if dOp x.d = 2 then takeAccRead s x hits
  else takeAccWrite s x hits

/-- The unit of a station has the tile, and begins its work on it (rules R128, R130, R238). -/
def unitTakes (s : State) (st : StRef) (x : Tile) (hits : List EccHit) : State :=
  let s := if (unitTile s st).isSome then setAside s st else s
  let s := if isSoftmax x st && (getGlo s st.wing st.unit).tile.isSome then setAside s (softGlo st) else s
  let x := { x with phase := .held, fifo := false, startCyc := x.startCyc.orElse fun _ => some s.clk.acyc }
  let s := setTile (if x.hop = 0 then s else leaveInput s x) x
  let s := modRound s x.id.q x.id.rnd fun r => { r with since := r.since.orElse fun _ => some s.clk.acyc }
  let s := putUnit s st (some x.id) (unitAside s st)
  match st.kind with
  | .array => takeArray s x hits
  | .glossary => takeGlossary s x st.wing st.unit
  | .ledger => takeLedger s x st.wing st.unit
  | .returns => s
  | .loan => loanStart s x

/-- A station takes a tile up. Rows that stand in IN units are read out of their bank; an uncorrectable word there ends the tile
(rules R123, R200). -/
def stationTakes (s : State) (st : StRef) (x : Tile) (hits : List EccHit) : State :=
  if x.hop = 0 || st.kind = .array then unitTakes s st x hits
  else
    let (bad, s) := inputErrors (addHits s hits) x st.wing
    if bad then failTile s x.id 0x0B else unitTakes s st x hits

/-- A station takes its set-aside tile back; a SOFTMAX tile waits for its Glossary unit. -/
def takeBack (s : State) (st : StRef) (t : TileId) : State :=
  match findTile s t with
  | none => putUnit s st none none
  | some x =>
    let g := getGlo s st.wing st.unit
    if isSoftmax x st && g.tile.isSome then s
    else
      let s := setTile (putUnit s st (some t) none) { x with phase := .held }
      match st.kind with
      | .array => loadIdle (modArr s st.wing st.unit fun y => { y with gen := (getGroup s (dLarray x.d) (dGroup x.d)).gen }) st.wing st.unit
      | .glossary => modGlo s st.wing st.unit fun g =>
          { g with compat := (tileAttrs s x).compat, gfunc := BitVec.ofNat 4 (dGfunc x.d) }
      | .ledger => takeLedger s x st.wing st.unit
      | _ => s

/-- Whether perturbation lets a station take a tile up: the delay, which begins when the tile first could be taken up, is over, and
the station may return the credit of the rows that come with the tile. -/
def delayOver (s : State) (st : StRef) (x : Tile) : Bool :=
  waitOver s st.wing (stationCode st) x.readyFrom && !(x.phase == .between && creditHeld s st.wing (stationCode st))

/-- STATION_TAKE_UP: the best tile that is ready is taken up; when no C0 tile is ready, a set-aside tile comes back first. -/
def stationTakeUp (st : StRef) (hits : List EccHit) (s : State) : State :=
  match if unitReset s st.wing (stationCode st) then none else bestAt s st with
  | some x =>
    if delayOver s st x then stationTakes s st { x with readyFrom := none } hits
    else setTile s { x with readyFrom := x.readyFrom.orElse fun _ => some s.clk.acyc }
  | none =>
    match unitTile s st, unitAside s st with
    | none, some t => if unitReset s st.wing (stationCode st) then s else takeBack s st t
    | _, _ => s

def execStationTakeUp (st : StRef) (ecc : List EccHit) (s : State) : Host.Outcome State Fault Refusal :=
  .next (finish s (settle (stationTakeUp st ecc s)))

/-! ### Slabs (rules R34, R58, R122, R127, R136) -/

/-- The values of one input row: its bytes in IFMT, and its exponents. -/
def rowValues (f : Nat) (bs exps : List Byte) : List XV :=
  if isInt f then
    let four := intFour f
    let n := if four then 32 else 64
    (chunksOf n bs.length bs).zipIdx.flatMap fun b =>
      let e := (exps.getD (if intRowExp f then 0 else b.2) 0).toNat
      (blockInts four b.1).map fun (v : Int) =>
        match decodeE8M0 e with
        | some u => xvQ ((v : Rat) * u)
        | none => .nan
  else (chunksOf (halfBytes f / 2) bs.length bs).map fun b => decodeF (fmtOf f) (natOf b)

/-- The rows that a slab holds. -/
def slabValues (d : List W32) (bs tag : List Byte) : List (List XV) :=
  (chunksOf (rowBytes d) bs.length bs).zipIdx.map fun r =>
    rowValues (dIfmt d) r.1 ((tag.drop (r.2 * rowExps d)).take (rowExps d))

/-- Takes the next slab of a tile out of its bank: its bytes and tag, or none when it could not be read. -/
def readSlab (s : State) (x : Tile) : Option (List Byte × List Byte) × State :=
  let k := x.passDone
  let (bad, s) := bankErrors s x (fun b => b.part == .act && b.idx == k) .station
  if bad then (none, failTile s x.id 0x0B)
  else
    let b := bufData s x.w x.a (passBuf (getArr s x.w x.a) x.id .act k 0)
    (some b, modArr s x.w x.a fun y =>
      { y with bufs := y.bufs.filter fun z => !(z.t == x.id && z.part == .act && z.idx == k) })

/-- A slab that its station consumes in Wing v: from another Wing it crosses the Aisles into an IN unit there, and is read out of it
(rules R123, R127). none: it has no credit. The answer is none too when the slab could not be read. -/
def slabAt (s : State) (x : Tile) (v : Nat) (hits : List EccHit) : Option (Option (List Byte × List Byte) × State) :=
  if v = x.w then some (readSlab s x)
  else
    let size := bufData s x.w x.a (passBuf (getArr s x.w x.a) x.id .act x.passDone 0)
    match crossTo s x x.w v size.1 with
    | none => none
    | some t =>
      match readSlab t x with
      | (none, t) => some (none, t)
      | (some b, t) =>
        let (bad, t) := inputErrors (addHits t hits) x v
        if bad then some (none, failTile t x.id 0x0B)
        else some (some b, modArr t v x.a fun y => { y with bufs := y.bufs.filter fun z => !(z.t == x.id && z.part == .inp) })

/-- A unit consumes the next slab of its tile and frees its transfer unit. -/
def unitSlab (s : State) (x : Tile) (v : Nat) (hits : List EccHit) : State :=
  match slabAt s x v hits with
  | none => s
  | some (none, s) => s
  | some (some b, s) => setTile s { x with rows := x.rows ++ slabValues x.d b.1 b.2, passDone := x.passDone + 1 }

/-- Whether a held tile has a slab that its first station may consume. -/
def slabWaits (x : Tile) : Bool :=
  x.phase == .held && x.hop == 0 && decide (x.passDone < slabCount x.d) && decide (x.passDone < x.actGot)

/-- The next slab that leaves for the fabric at a Loan station; a SEND waits for its CTS (rule R318). -/
def loanNext (s : State) (st : StRef) : Option Tile :=
  s.run.tiles.find? fun x =>
    stOf x == some st && slabWaits x && (dOp x.d == 0x0A || opColl (dOp x.d) || (dOp x.d == 8 && x.loan.granted))

/-- Sends waiting flits of every port, as far as credits allow. -/
def pumpAll (s : State) : State := forEach s.fab.ports s fun s p => pumpPort s p.1

/-- CREDIT_RETURN: space at a station lets the data behind it go on. -/
def creditReturn (st : StRef) (hits : List EccHit) (s : State) : State :=
  let s := addHits s hits
  if creditHeld s st.wing (stationCode st) then s
  else
  match st.kind with
  | .loan =>
    match loanNext s st with
    | none => pumpAll s
    | some x =>
      match slabAt s x st.wing hits with
      | none => s
      | some (none, s) => s
      | some (some b, s) =>
        let y := { x with passDone := x.passDone + 1 }
        pumpAll (loanSlab (setTile s y) y x.passDone b.1)
  | .array => s
  | _ =>
    match (unitTile s st).bind (findTile s) with
    | none => s
    | some x => if slabWaits x && opRow (dOp x.d) && stOf x == some st && (st.kind != .glossary || x.tableReady) then
        unitSlab s x st.wing hits
      else s

def execCreditReturn (st : StRef) (ecc : List EccHit) (s : State) : Host.Outcome State Fault Refusal :=
  .next (finish s (settle (creditReturn st ecc s)))

/-! ### User tables (rules R172, R174, R176) -/

/-- The fill of the user table that a Glossary unit's tile waits for. A table whose header breaks a condition ends the tile with
BAD_FORMAT. -/
def userTableFill (w u : Nat) (hits : List EccHit) (s : State) : State :=
  let g := getGlo s w u
  match g.tile.bind (findTile s) with
  | none => s
  | some x =>
    match tileTable s x with
    | none => s
    | some b =>
      if x.tableReady || g.heldBySoftmax then s
      else
        let (code, s, at_) := fillTable (addHits s hits) w u (x.id.q / 32) b .station (some x.id) (x.cls == 0)
        if code ≠ 0 then failTile s x.id code else setTile s { x with tableReady := true, table := at_ }

def execUserTableFill (w : Fin 32) (u : Fin 2) (ecc : List EccHit) (s : State) : Host.Outcome State Fault Refusal :=
  .next (finish s (settle (userTableFill w u ecc s)))

/-! ### Rows that go on (rules R85, R127) -/

/-- Whether a station can take a tile up at once as its rows come. -/
def takesNow (s : State) (st : StRef) (x : Tile) : Bool := mayTake s st x && delayOver s st x && !unitReset s st.wing (stationCode st)

/-- Whether a tile's rows would be more than the input of its next station in the same Wing has credits for, so that they can only go
straight through it. -/
def throughOnly (s : State) (from_ : Nat) (x : Tile) : Bool :=
  match stOf x with
  | none => false
  | some st => st.wing.val == from_ && !rowCredit s st x

/-- The rows of a tile go on as credits allow; past the credits of an input they go only to a station that takes the tile up now. -/
def goOn (s : State) (from_ : Nat) (x : Tile) : Option (State × Tile) :=
  if throughOnly s from_ x && !((stOf x).any fun st => takesNow s st x) then none else passOn s from_ x

/-- Whether more rows stand in a station's input than it has credits for. -/
def inputOver (s : State) (st : StRef) (x : Tile) : Bool :=
  let held := inputOf s st
  x.fifo && (decide (inputDepth st < creditsIn st held) ||
    (x.cls != 0 && decide (depthFor s x.cls (inputDepth st) < creditsIn st (held.filter fun y => y.cls != 0))))

/-- A station through which rows go straight takes their tile up with them. -/
def handOver (s : State) (t : TileId) : State :=
  match findTile s t with
  | none => s
  | some x =>
    match stOf x with
    | none => s
    | some st => if x.phase = .between && inputOver s st x && takesNow s st x then stationTakes s st x [] else s

/-- The drain in progress ends, and its slot becomes free, when its rows have been passed on: the station behind the array has taken
the tile up or holds all of its rows, or the tile is gone. Without credits the drain stops (rules R85, R127). -/
def drainEnd (w a : Nat) (s : State) : State :=
  match (slotsWith s w a fun z => z.draining && z.started).head? with
  | none => s
  | some (k, z) =>
    let free := fun (s : State) => setSlot s w a k Slot.reset
    match z.tile.bind (findTile s) with
    | none => free s
    | some x =>
      if x.phase = .between ∧ x.hop = 1 then
        match goOn s w x with
        | none => s
        | some (s, x) => handOver (free (setTile s x)) x.id
      else free s

def execDrainEnd (w : Fin 32) (a : Fin 33) (s : State) : Host.Outcome State Fault Refusal := .next (finish s (drainEnd w a s))

/-! ### Finishing a tile (rules R85, R86, R94, R129, R130) -/

/-- Whether a unit has finished with the tile it holds. -/
def unitFinished (s : State) (st : StRef) (x : Tile) : Bool :=
  x.phase == .held && stOf x == some st &&
    match st.kind with
    | .array => (getArr s st.wing st.unit).fault.isNone && (dOp x.d != 1 || (x.passDone == (seqOf x).length && !inReplay x))
    | .loan => loanDone x
    | k => (x.hop != 0 || !opRow (dOp x.d) || x.passDone == slabCount x.d) && (k != .glossary || x.tableReady)

/-- The tile that a station finishes. -/
def finishing (s : State) (st : StRef) : Option Tile :=
  if st.kind = .loan then s.run.tiles.find? (unitFinished s st)
  else if st.kind = .glossary && (getGlo s st.wing st.unit).heldBySoftmax then none
  else ((unitTile s st).bind (findTile s)).filter (unitFinished s st)

/-- A tile at its boundary: its charge stops when its round does not run. -/
def atBoundary (s : State) (x : Tile) : Tile :=
  if roundRuns s x.id then x
  else match x.startCyc with
    | some c => { x with charged := x.charged + (s.clk.acyc - c), startCyc := none }
    | none => x

/-- A tile whose last station has finished it. -/
def endedTile (s : State) (x : Tile) : Tile :=
  let run := match x.startCyc with
    | some c => s.clk.acyc - c
    | none => 0
  { x with phase := .finished, rows := [], charged := x.charged + run, startCyc := none, waitFrom := none, stamp := s.clk.now }

/-- An operation on a group has been executed; a closing one hands its slot to the drain and frees the group's number. -/
def groupDone (s : State) (x : Tile) : State :=
  let d := x.d
  let l := dLarray d
  let g := getGroup s l (dGroup d)
  if dOp d = 1 && dClose d then
    let n := s.arrs.closeCtr
    let s := modSlot s x.w x.a g.slot fun z =>
      { z with draining := true, started := false, closeOrder := n, tile := some x.id, steps := g.steps }
    let s := s.setArrs { s.arrs with closeCtr := n + 1 }
    setGroup s l (dGroup d)
      (if g.waiting ≤ 1 then Group.reset else { g with live := false, steps := 0, gen := 0, slot := 0, waiting := g.waiting - 1 })
  else setGroup s l (dGroup d) { g with waiting := g.waiting - 1 }

/-- An array gives up the tile that it has finished. -/
def arrayFree (s : State) (x : Tile) : State :=
  modArr (groupDone s x) x.w x.a fun y =>
    { y with tile := none, lastL := dLarray x.d,
             peak := if x.maxabs ≤ y.peak.toNat then y.peak else BitVec.ofNat 24 (min x.maxabs 0xFFFFFF) }

/-- An array finishes a tile; the rows of an accumulator read go on as credits allow. -/
def arrayFinish (s : State) (x : Tile) : State :=
  let d := x.d
  if dOp d = 1 ∧ dClose d then
    let s := arrayFree s x
    setTile s (atBoundary s { x with phase := .drainWait })
  else if dOp d = 2 then
    match goOn s x.w { x with phase := .between, hop := 1 } with
    | none => s
    | some (s, y) =>
      let s := arrayFree s x
      handOver (setTile s (atBoundary s y)) x.id
  else
    let s := arrayFree s x
    setTile s (endedTile s x)

/-- What a station makes of a tile's rows before it passes them on; false when its reads or its writes met an error. -/
def stationWork (s : State) (st : StRef) (x : Tile) (hits : List EccHit) : Bool × State × Tile :=
  match st.kind with
  | .glossary => gloApply s (tileAttrs s x) (some x.id) x st.wing st.unit hits
  | .ledger => ledApply s (tileAttrs s x) (some x.id) x st.wing st.unit hits
  | .returns => retApply (addHits s hits) (some x.id) x st.wing st.unit
  | .loan =>
    let s := addHits s hits
    if !opLoan (dOp x.d) && x.hop + 1 == (dLocal x.d).length && (dRemote x.d).isEmpty then
      let os := outRows x
      let (ok, s) := tileWrites s x (dFolio x.d 2) (os.flatMap fun o => o.writes)
      (ok, s, outTile x os)
    else (true, s, x)
  | .array => (true, s, x)

/-- A unit gives up the tile that it has finished. -/
def unitFree (s : State) (st : StRef) (t : TileId) : State :=
  let s := putUnit s st none (unitAside s st)
  match st.kind with
  | .ledger => modGlo s st.wing st.unit fun g => if g.heldBySoftmax && g.tile == some t then { g with tile := none, heldBySoftmax := false } else g
  | _ => s

/-- A station passes on, or ends, the tile that it has finished. Without credits for its rows the station stalls with it (rule
R127). -/
def stationPass (s : State) (st : StRef) (x : Tile) (hits : List EccHit) : State :=
  let next := { x with phase := .between, hop := x.hop + 1 }
  match if x.hop + 1 < (dLocal x.d).length then goOn s st.wing next else some (s, next) with
  | none => s
  | some (s, y) =>
    let (ok, s, x) := stationWork s st x hits
    let s := unitFree s st x.id
    if !ok then failTile (setTile s x) x.id 0x0B
    else if x.hop + 1 < (dLocal x.d).length then
      handOver (setTile s (atBoundary s { x with phase := .between, hop := x.hop + 1, fifo := y.fifo })) x.id
    else
      let s := modArr s x.w x.a fun y => { y with bufs := y.bufs.filter fun b => !(b.t == x.id && b.part == .inp) }
      setTile s (endedTile s x)

/-- STATION_TILE_FINISH: a station or array finishes a tile and passes it on. -/
def stationTileFinish (st : StRef) (hits : List EccHit) (s : State) : State :=
  match finishing s st with
  | none => s
  | some x => if st.kind = .array then arrayFinish s x else stationPass s st x hits

def execStationTileFinish (st : StRef) (s : State) (ecc : List EccHit := []) : Host.Outcome State Fault Refusal :=
  .next (finish s (settle (stationTileFinish st ecc s)))

/-! ### Fetches and passes as commands -/

/-- SLAB_ARRIVE: what has come may be the preload of the array's tile, or the index side of its next pass (rules R80, R88). -/
def slabIn (t : TileId) (part : Part) (tagOk : Bool) (hits : List EccHit) (s : State) : State :=
  let s := preloadIn (slabArrive t part tagOk hits s) t
  match findTile s t with
  | none => s
  | some x => loadIdle s x.w x.a

def execSlabArrive (t : TileId) (part : Part) (tagOk : Bool) (ecc : List EccHit) (s : State) :
    Host.Outcome State Fault Refusal := .next (finish s (settle (slabIn t part tagOk ecc s)))

def execPassStart (w : Fin 32) (a : Fin 33) (chk : Option ChkFault) (ecc : List EccHit) (s : State) :
    Host.Outcome State Fault Refusal := .next (finish s (settle (passStart w a chk ecc s)))

end Sys2Proof.Machine
end

