-- ==== Sys2Proof/Machine/Rounds.lean ====
section
/-! DEFINITION. Completion of tiles and what may befall a round (rules R105 to R110, R114, R131, R135, R139, R140, R249, R254,
R286), and the accumulator window (rules R96 to R99). The commands TILE_COMPLETE, ROUND_REEXECUTE, ROUND_OVERRUN, C0_DEMOTION,
INPUT_WAIT_TIMEOUT, ACC_WINDOW_READ, ACC_WINDOW_WRITE and ACC_WINDOW_TRANSFER_END. -/

namespace Sys2Proof.Machine

/-! ### TILE_COMPLETE -/

/-- Writes a tile's event record, or counts it as lost (rules R286, R288). -/
def eventOut (s : State) (q : Nat) (x : Tile) : State :=
  let y := getQ s q
  if y.eventMode = 0 ∨ (y.eventMode ≠ 1 ∧ !eventNotable x) then s
  else if y.state = 3 then setQ s q { y with lostEvents := satAdd y.lostEvents 1 }
  else
    let at_ := y.eventBase + BitVec.ofNat 64 (32 * (y.events.toNat % 2 ^ y.eventLog2.toNat))
    hostWrite (setQ s q { y with events := y.events + 1 }) (q / 32) at_ (eventRecord x)

/-- What an array counts when a tile completes (rules R69, R78). ARR_NONFINITE counts every tile whose NONFINITE bit is set, also
one that a station or a conversion set (Table 3.8; DESIGN CHOICE, notes/assumptions/92). -/
def arrayCounts (s : State) (x : Tile) : State :=
  if opArray (dOp x.d) then
    modArr s x.w x.a fun y =>
      { y with satTiles := satAdd y.satTiles (b2n x.sat), nonfinite := satAdd y.nonfinite (b2n x.nonfinite) }
  else s

/-- The tile of a queue that may complete next: of its oldest round without a result. -/
def completing (s : State) (q : Nat) : Option (Round × Tile) :=
  match (getQ s q).rounds.find? fun r => r.result.isNone with
  | none => none
  | some r =>
    if r.stopping then none
    else
      match findTile s { q := q, rnd := r.num, idx := r.done } with
      | none => none
      | some x =>
        if x.phase = .finished then some (r, x)
        else if x.phase = .fenced then some (r, { x with phase := .finished, stamp := s.clk.now })
        else none

/-- The tile completes: its event record, its signal, and the end of its round when it is the last or was rejected. The signal of
a Loan tile that a re-execution does not perform again has gone (rules R106, R135). -/
def completeTile (s : State) (q : Nat) (r : Round) (x : Tile) : State :=
  let i := r.done
  let s := eventOut (arrayCounts s x) q x
  let s := orphanDrains (s.setRun { s.run with tiles := s.run.tiles.filter fun t => t.id != x.id }) fun t => t == x.id
  let s := modRound s q r.num fun r =>
    let loan := opOnce (dOp x.d) && x.status == 0
    { r with done := i + 1, loanDone := if loan then i :: r.loanDone else r.loanDone,
             sigDone := if loan && dSig x.d then i :: r.sigDone else r.sigDone }
  if x.status ≠ 0 then resultRound s q r.num x.status.toNat i
  else
    let s := if dSig x.d && !r.sigDone.contains i then peerSignal s q x.cls.toNat 1 else s
    if dLast x.d then resultRound s q r.num 0 i
    else if i + 1 = r.descCount then resultRound s q r.num 1 i
    else s

def tileComplete (q : Nat) (s : State) : State :=
  if (getQ s q).state = 4 then s
  else
    match completing s q with
    | none => s
    | some (r, x) => completeTile s q r x

def execTileComplete (q : Fin 1024) (s : State) : Host.Outcome State Fault Refusal := .next (finish s (settle (tileComplete q s)))

/-! ### ROUND_REEXECUTE (rules R103, R105, R106, R108, R109, R377) -/

/-- Rounds that stop for a fault. -/
def faultStops (s : State) : List (Nat × Round) :=
  s.desk.queues.flatMap fun x => (x.2.rounds.filter fun r => r.stopping && !r.returned && r.result.isNone).map fun r => (x.1, r)

/-- Arrays that wait for firmware's remap, lowest first, with the FOUND code. -/
def faultArrays (s : State) : List (Nat × Nat × Nat) :=
  s.arrs.arr.filterMap fun x => x.2.fault.map fun f => (x.1 / 33, x.1 % 33, f)

/-- Whether a descriptor of a round names the group of a tile. -/
def roundNames (s : State) (r : Round) (x : Tile) : Bool :=
  untakenAny s { r with taken := [], loanDone := [] }
    (fun d => opArray (dOp d) && dLarray d == dLarray x.d && dGroup d == dGroup x.d) r.descCount 0

/-- Operations of later rounds of the queue that no array has taken up, on a group that a round to be re-executed names, leave their
Runners: they are issued behind the re-executed round's (rules R92, R105; DESIGN CHOICE, notes/assumptions/109). -/
def untakeLater (s : State) (q : Nat) (r : Round) : State :=
  let later := ((getQ s q).rounds.dropWhile fun y => y.num != r.num).drop 1
  untakeTiles s fun t => t.id.q == q && opArray (dOp t.d) && later.any (fun y => y.num == t.id.rnd) && roundNames s r t

/-- A round starts again from its first tile, once. Its tiles are fetched again from memory as it now stands, so what they compute
follows what the round has overwritten (rule R107). -/
def rerunRound (s : State) (q : Nat) (r : Round) : State :=
  let loans := loansFinished s q r.num
  let s := dropTiles s fun t => t.id.q == q && t.id.rnd == r.num
  let s := freeGroups (untakeLater s q r) q (groupOfRound r.num)
  modRound s q r.num fun r =>
    { r with reexecuted := true, stopping := false, taken := [], done := 0, since := none, charge := 0, overrun := false,
             loanDone := loans ++ r.loanDone }

/-- When no affected round is held any more, firmware remaps every array found failed and re-executes each round once. -/
def remapAndRerun (s : State) : State :=
  let stops := faultStops s
  if stops.any fun x => roundHeld s x.1 x.2.num then s
  else
    let arrs := faultArrays s
    let again := stops.filter fun x => !x.2.reexecuted
    let s := forEach again s fun s x => rerunRound s x.1 x.2
    let s := forEach arrs s fun s a => arrayFailed (modArr s a.1 a.2.1 fun y => { y with fault := none }) a.1 a.2.1 a.2.2
    forEach s.wings s fun s x => match x.2.storeFail with
      | none => s
      | some p =>
        let s := modWing s x.1 fun y => { y with storeFail := none }
        if (getWing s x.1).retired then s else retireWing s x.1 p 1

def roundReexecute (w a : Nat) (s : State) : State :=
  if (getArr s w a).fault.isSome || (getWing s w).storeFail.isSome then remapAndRerun s else s

def execRoundReexecute (w : Fin 32) (a : Fin 33) (s : State) : Host.Outcome State Fault Refusal :=
  .next (finish s (settle (roundReexecute w a s)))

/-! ### Overrun and demotion (rules R249, R254) -/

/-- Whether a round's charge exceeds its budget, in whole cycles. -/
def overBudget (s : State) (r : Round) : Bool := decide (r.budget < wholeCycles (roundCharge s r))

def roundOverrun (q : Nat) (num : W32) (s : State) : State :=
  match findRound s q num with
  | none => s
  | some r =>
    if r.cls != 0 && r.result.isNone && !r.overrun && r.budget != 0 && overBudget s r then
      let s := modRound s q num fun r => { r with overrun := true }
      s.setAdm { s.adm with overruns := satAdd s.adm.overruns 1 }
    else s

def execRoundOverrun (q : Fin 1024) (rnd : W32) (s : State) : Host.Outcome State Fault Refusal :=
  .next (finish s (roundOverrun q rnd s))

def c0Demote (q : Nat) (num : W32) (s : State) : State :=
  match findRound s q num with
  | none => s
  | some r =>
    if r.cls == 0 && r.result.isNone && !r.demoted && overBudget s r then
      let s := modRound s q num fun r => { r with demoted := true, overrun := true }
      settleLoss (s.setAdm { s.adm with demoted := satAdd s.adm.demoted 1 }) q
    else s

def execC0Demotion (q : Fin 1024) (rnd : W32) (s : State) : Host.Outcome State Fault Refusal := .next (finish s (c0Demote q rnd s))

/-! ### Stopped input (rules R139, R140, R292) -/

/-- Whether a tile waits for input and its timer has reached its queue's QTIMEOUT. -/
def timedOut (s : State) (x : Tile) : Bool :=
  let lim := 1000 * (getQ s x.id.q).qtimeoutUs
  match x.waitFrom with
  | none => false
  | some t => inWait x && lim != 0 && decide (lim ≤ (s.clk.now - t).toNat)

def inputWaitTimeout (t : TileId) (s : State) : State :=
  match findTile s t with
  | none => s
  | some x => if timedOut s x then failTile s t 0x0A else s

def execInputWaitTimeout (t : TileId) (s : State) : Host.Outcome State Fault Refusal :=
  .next (finish s (settle (inputWaitTimeout t s)))

/-! ### The accumulator window (rules R96 to R99, Tables 4.9 to 4.11) -/

/-- Whether the window of a Wing answers: not in an L3 episode, not off or waking (rule R442). -/
def wingReach (s : State) (w : Nat) : Bool := (getWing s w).powered && !(getWing s w).inL3

/-- A write of WNG_ACC_CTL. A GO written while a transfer runs has no effect. -/
def accCtlWrite (w : Nat) (v : W32) (s : State) : State :=
  let x := getWing s w
  let n := v.toNat
  let go := bit 31 n
  if go && x.accRun.isSome then s
  else
    let y := { x with accWrite := bit 30 n, accGroup := BitVec.ofNat 2 (bits 27 26 n), accLarray := BitVec.ofNat 10 (bits 25 16 n) }
    setWing s w (if go then { y with accRun := some (bit 30 n, bits 25 16 n, bits 27 26 n) } else y)

/-- The host writes WNG_ACC_CTL with GO = 1 and this WRITE. -/
def accGo (write : Bool) (w : Nat) (v : W32) (s : State) : State :=
  if bit 31 v.toNat && bit 30 v.toNat == write then
    barWrite (0x831010 + 0x40000 * w) v (fun s => if wingReach s w then accCtlWrite w v s else s) s
  else s

/-- Starts a read: the value written must have GO = 1 and WRITE = 0. -/
def execAccWindowRead (w : Fin 32) (v : W32) (s : State) : Host.Outcome State Fault Refusal := .next (finish s (accGo false w v s))

/-- Starts a write: the value written must have GO = 1 and WRITE = 1. -/
def execAccWindowWrite (w : Fin 32) (v : W32) (s : State) : Host.Outcome State Fault Refusal := .next (finish s (accGo true w v s))

/-- Bytes of an accumulator in the window buffer. -/
def winBytes (mode : Nat) (a : BitVec 48) : List Byte :=
  if mode = 3 then bytesOf 8 (a.signExtend 64).toNat else bytesOf (if mode = 2 then 2 else 4) a.toNat

/-- Accumulators that a row of the window holds: 16 FP32 or I48 values or 32 BF16 values. -/
def winCols (mode : Nat) : Nat := if mode = 2 then 32 else 16
def winRow (mode : Nat) : Nat := if mode = 3 then 128 else 64

/-- The window buffer that a slot's contents make. Of a replayed tile's 32 columns the slot holds those of the second run. -/
def winOfSlot (z : Slot) : List Byte :=
  let mode := z.shape.mode.toNat
  (chunksOf z.cols z.shape.m z.acc).flatMap fun r => (r.drop (r.length - winCols mode)).flatMap (winBytes mode)

/-- An accumulator that a window write brings. -/
def winVal (mode n : Nat) : BitVec 48 := if mode = 3 then BitVec.ofNat 48 n else preloadVal mode (mode == 2) n

/-- The accumulators of a slot after a window write: in I48 bits 47:0 of each value, else a value as a preload brings it, so that a
NaN is the accumulator's own (rules R62, R97). -/
def slotOfWin (z : Slot) (win : Nat → Nat → List Byte) : List (BitVec 48) :=
  let mode := z.shape.mode.toNat
  let n := winRow mode / winCols mode
  (chunksOf z.cols z.shape.m z.acc).zipIdx.flatMap fun r =>
    r.1.take (r.1.length - winCols mode) ++
      (List.range (min (winCols mode) r.1.length)).map fun c => winVal mode (natOf (win (winRow mode * r.2 + n * c) n))

/-- The closed slot of a group that still drains. -/
def drainingSlot (s : State) (w a l g : Nat) : Option (Nat × Slot) :=
  (slotsWith s w a fun z => z.draining && z.larray == l && z.group == g).foldl (fun b x =>
    match b with
    | none => some x
    | some y => if y.2.closeOrder < x.2.closeOrder then some x else b) none

def winPut (t : Tab Byte) : List Byte → Nat → Tab Byte
  | [], _ => t
  | b :: bs, i => winPut (tabSet 0 t i b) bs (i + 1)

/-- A transfer ends with a result, and with what it found of the group. -/
def accEnd (s : State) (w : Nat) (res mode m steps : Nat) (buf : Option (List Byte)) : State :=
  modWing s w fun x =>
    { x with accRun := none, accDone := true, accResult := BitVec.ofNat 4 res, accMode := BitVec.ofNat 2 mode,
             accTokens := BitVec.ofNat 7 m, accSteps := BitVec.ofNat 32 steps,
             winBuf := match buf with
               | some bs => winPut x.winBuf bs 0
               | none => x.winBuf }

/-- Whether the tile on a physical array, or the one that it has set aside, has its saturation replay under way in a group (rules
R74, R99, R250). -/
def replaying (s : State) (w a l g : Nat) : Bool :=
  let y := getArr s w a
  ((y.tile.toList ++ y.aside.toList).filterMap (findTile s)).any fun x => inReplay x && dLarray x.d == l && dGroup x.d == g

/-- A window read copies a slot of the group into the buffer. Its words pass their check codes, and the transfer waits while an error
keeps it from them (rule R104). -/
def accCopyOut (s : State) (w a k res : Nat) (z : Slot) (steps : W32) : State :=
  let (broken, s) := accErrors s w a k z
  if broken then s else accEnd s w res z.shape.mode.toNat z.shape.m steps.toNat (some (winOfSlot z))

/-- A window write copies the buffer into the group's slot. -/
def accCopyIn (s : State) (w a k : Nat) (z : Slot) (steps : W32) : State :=
  let win := fun o n => (List.range n).map fun i => tabGet 0 (getWing s w).winBuf (o + i)
  accEnd (putAcc s w a k { z with acc := slotOfWin z win }) w 0 z.shape.mode.toNat z.shape.m steps.toNat none

/-- ACC_WINDOW_TRANSFER_END: the transfer in progress ends, unless its group is in a saturation replay, whose end it waits for. -/
def accTransferEnd (w : Nat) (hits : List EccHit) (s : State) : State :=
  match (getWing s w).accRun with
  | none => s
  | some (wr, l, g) =>
    match physOf s l with
    | none => accEnd s w 2 0 0 0 none
    | some (h, a) =>
      if h ≠ w then accEnd s w 2 0 0 0 none
      else if replaying s w a l g then s
      else
        let s := addHits s hits
        let x := getGroup s l g
        if x.live then
          let z := getSlot s w a x.slot
          if wr then accCopyIn s w a x.slot z x.steps else accCopyOut s w a x.slot 0 z x.steps
        else
          match drainingSlot s w a l g with
          | some (k, z) =>
            if wr then accEnd s w 3 z.shape.mode.toNat z.shape.m z.steps.toNat none else accCopyOut s w a k 3 z z.steps
          | none => accEnd s w 1 0 0 0 (if wr then none else some (List.replicate 8192 0))

def execAccWindowTransferEnd (w : Fin 32) (s : State) (ecc : List EccHit := []) : Host.Outcome State Fault Refusal :=
  .next (finish s (accTransferEnd w ecc s))

end Sys2Proof.Machine
end

