-- ==== Sys2Proof/Machine/Tick.lean ====
section
/-! DEFINITION. Time (chapter 10): the clocks, and what a time that has passed shows. -/

namespace Sys2Proof.Machine

/-- The clocks after 1 ns: the accession clock advances (rule R133), except while it is held at 0 by an L0 episode (rules R134,
R445), and ACLK runs (notes/assumptions/2). A clock that slews gains or loses 1 ns at most once in 10 µs, and never runs backward
(rule R323). -/
def advance (s : State) : State :=
  let c := s.clk
  let held := match s.rst.episode with
    | some e => e.level == 0
    | none => false
  let due := c.slew != 0 && decide (10000 ≤ c.slewNs + 1)
  let by_ : W64 := if held then 0 else if due then (if 0 < c.slew then 2 else 0) else 1
  let left := if due then (if 0 < c.slew then c.slew - 1 else c.slew + 1) else c.slew
  s.setClk { c with now := c.now + by_, acyc := c.acyc + s.pwr.aclkMhz.toNat, slew := left,
                    slewNs := if due then 0 else min 10000 (c.slewNs + 1) }

/-- The tiers' controllers and the Wings work (Table 14.1): in Drowse, in Off and between them the tiers are in self-refresh or
off, and the Inventory stands still. -/
def memUp (s : State) : Bool := s.pwr.state == .active || s.pwr.state == .idle

/-- The Inventory's engines walk (Table 8.10). -/
def inventoryOn (s : State) : Bool := s.inv.enabled && memUp s

/-- Whether an engine walks: 0–31 a Wing's, 32 that of control memory. -/
def engineRuns (s : State) (e : Nat) : Bool :=
  inventoryOn s && (e == 32 || ((getWing s e).powered && !(getWing s e).inL3))

/-- Whether a scrub that began at a moment has taken more than 24 hours (rule R369). -/
def scrubOld (s : State) (t : Nat) : Bool := decide (86400000000000 < s.clk.now.toNat - t)

/-- Whether an engine's coverage has taken longer than a period (rule R201). -/
def engineOld (s : State) (e : Nat) : Bool :=
  decide (s.inv.period.toNat * 1000000000 ≤ s.clk.now.toNat - tabGet 0 s.inv.began e)

/-- LATE of REL_SCRUB_STAT and of INV_STAT: work that has overrun its time shows at the next tick boundary, when none of its own
steps has shown it before (rules R201, R369; notes/assumptions/102). -/
def showLate (s : State) : State :=
  let r := s.rel
  let scrub := s.desk.ready && (scrubOld s r.scrubFrom.1 || (s.tier.depGib != 0 && scrubOld s r.scrubFrom.2))
  let walk := (List.range 33).any fun e => engineRuns s e && engineOld s e
  let s := s.setRel { r with scrubLate := r.scrubLate || scrub }
  s.setInv { s.inv with late := s.inv.late || walk }

/-- 1 ns passes, and what waits for its time happens (rule R382). -/
def idle (s : State) : State := releaseRecords (advance s)

end Sys2Proof.Machine
end

