-- ==== Sys2Proof/Machine/Ticks.lean ====
section
/-! DEFINITION. Ticks, admission and suspension (chapter 10; rules R17, R222 to R225, R232 to R257, R382, R427, R428). The commands
TICK_BOUNDARY, ADMISSION_LIST_CLOSE, TICK_OUT_FALL, TICK_IN_EDGE and SUBSTITUTE_BOUNDARY. -/

namespace Sys2Proof.Machine

/-! ### When a boundary is due (rules R232 to R236) -/

def periodNs (s : State) : Nat := 1000 * s.tick.period.toNat

/-- The tick stops during an L0 or L1 episode and in Off (rule R427). -/
def tickRuns (s : State) : Bool :=
  s.pwr.state != .off &&
    match s.rst.episode with
    | some e => decide (2 ≤ e.level.toNat)
    | none => true

/-- The tick number that the fabric manager's formula gives at a time (Table 10.1). -/
def fabricTick (s : State) (now : Nat) : BitVec 48 :=
  BitVec.ofInt 48 ((s.tick.n0.toNat : Int) + ((now : Int) - (s.tick.epoch.toNat : Int)) / (periodNs s : Int))

/-- ns since the last boundary. -/
def sinceTick (s : State) : Nat := (s.clk.now - s.tick.last).toNat

/-- Whether a boundary of tick n + 1 that lies `ahead` ns in the future, or nearer, is due; under PIN one that an accepted edge makes
and perturbation delays. -/
def tickDue (s : State) (ahead : Nat) : Bool :=
  let t := s.tick
  if t.source = 0 then decide (t.last.toNat + periodNs s + t.jitter ≤ s.clk.now.toNat + ahead)
  else if t.source = 2 then fabricTick s (s.clk.now.toNat + ahead - t.jitter) != t.num
  else t.edge.any fun e => decide (e.toNat + t.jitter ≤ s.clk.now.toNat + ahead)

/-! ### The guarantee (Table 10.3, rule R255) -/

/-- Every admitted C0 round loses the guarantee. -/
def loseC0 (s : State) : State :=
  let mark := fun (r : Round) =>
    if r.cls = 0 && (r.state == .running || r.state == .suspended) then { r with lostGuarantee := true } else r
  s.setDesk { s.desk with queues := s.desk.queues.map fun x => (x.1, { x.2 with rounds := x.2.rounds.map mark }) }

def pertActive (s : State) : Bool := s.rel.pert.cred || s.rel.pert.compl || s.rel.pert.tick || s.rel.pert.station

/-- A state of the node under which no C0 round has the guarantee. -/
def guaranteeOff (s : State) : Bool :=
  pertActive s || s.sec.level == 2 || (s.pwr.state != .active && s.pwr.state != .idle)

/-- The tick source is lost, or a substitute boundary comes, in tick t: the rounds admitted at t − 1, t and t + 1 lose the guarantee;
t is the tick that the event meets (DEDUCED, notes/assumptions/101). -/
def sourceLoss (s : State) : State := loseC0 (s.setTick { s.tick with lossNext := true })

/-- C0 rounds that the boundary finds late: unfinished at the end of the tick after that of their admission. -/
def countLate (s : State) : State :=
  forEach s.desk.queues s fun s x =>
    forEach (x.2.rounds.filter fun r =>
        r.cls == 0 && !r.demoted && !r.lostGuarantee && r.state == .running && s.tick.num - r.tick == 1) s fun s _ =>
      mgmtEvent (s.setAdm { s.adm with c0Late := satAdd s.adm.c0Late 1 }) 0x0A x.1

/-! ### Capacity (rules R240, R241, R244, R328) -/

/-- CAP: cycles of the tick that begins, per Wing. -/
def capCycles (s : State) : Nat := s.tick.period.toNat * s.pwr.aclkMhz.toNat

def minCount (s : State) : Nat := ceilDiv (capCycles s) 16

/-- The Wings that a mask counts against; a folded Wing counts as its host, and mask 0 as Wing 0 (rules R237, R244). -/
def maskWings (s : State) (mask : W32) : List Nat :=
  let ws := if mask = 0 then [0] else (List.range 32).filter fun w => bit w mask.toNat
  nub (ws.map fun w => (hostWing s w).getD w)

/-- A Wing without capacity: in an L3 reset, or until the boundary after it (rules R328, R345). -/
def wingOut (s : State) (w : Nat) : Bool := (getWing s w).inL3 || s.rst.l3Pend.contains w

/-- The sum of RA over reservations in force that name a Wing. -/
def raSum (s : State) (w : Nat) : Nat :=
  sumNat (s.desk.queues.map fun x => match x.2.resv with
    | some r => if (maskWings s r.mask).contains w then r.ra else 0
    | none => 0)

/-- floor(RA / 256 × CAP). -/
def raShare (s : State) (ra : Nat) : Nat := ra * capCycles s / 256

/-- The reserved part of a Wing: never more than 102/256 on a Wing that serves a fold. -/
def reservedShare (s : State) (w : Nat) : Nat := raShare s (if (getWing s w).hostsFold then min (raSum s w) 102 else raSum s w)

/-! ### Admission (rules R241 to R246) -/

/-- An admission in progress: cycles used by non-C0 rounds and C0 rounds per Wing, C0 cycles per queue and Wing, Wings that a
non-C0 round has been admitted on, Wings closed to later rounds, rounds passed over. -/
structure AdmWork where
  used : Tab Nat
  c0 : Tab Nat
  c0Queue : Tab Nat
  busy : List Nat
  shut : List Nat
  passed : Nat
  deriving DecidableEq, Repr

def addTo (t : Tab Nat) (i n : Nat) : Tab Nat := tabSet 0 t i (tabGet 0 t i + n)

/-- Parsed rounds of the queue may be admitted (Table 11.10, rule R280). -/
def queueAdmits (s : State) (q : Nat) : Bool :=
  let x := getQ s q
  x.state == 1 || (x.state == 3 && x.cause == 0)

/-- What a round counts (rule R241). -/
def roundCount (s : State) (r : Round) : Nat :=
  let left := r.budget - wholeCycles (roundCharge s r)
  if ranClass r = 0 then (if r.fresh then r.budget else left)
  else if r.budget = 0 then minCount s
  else if r.fresh then r.budget
  else max left (minCount s)

/-- Whether a tile has been taken up at HOP0, is not finished, and is not charged at present (rule R130). -/
def chargeStops (t : Tile) : Bool :=
  t.startCyc.isNone && (t.phase == .held || t.phase == .aside || t.phase == .between || t.phase == .drainWait)

/-- A round is admitted: it runs, with the attributes of its queue when it is new (rules R162, R242, R247); the charge of its parked
tiles goes on (rule R130). -/
def admitRound (s : State) (q : Nat) (r : Round) : State :=
  if r.fresh then
    let at_ := (getQ s q).attrs
    let n := s.adm.order
    let off := guaranteeOff s || s.tick.lossNext
    let s := modRound s q r.num fun r =>
      { r with state := .running, fresh := false, order := n, tick := s.tick.num, attrs := at_, since := none, charge := 0,
               overrun := false, lostGuarantee := off }
    settleLoss (s.setAdm { s.adm with order := n + 1 }) q
  else if r.state = .suspended then
    let s := modRound s q r.num fun r =>
      { r with state := .running, since := r.since.orElse fun _ => if r.charge = 0 then none else some s.clk.acyc }
    let unpark := fun (t : Tile) =>
      if t.id.q == q && t.id.rnd == r.num && chargeStops t then { t with startCyc := some s.clk.acyc } else t
    s.setRun { s.run with tiles := s.run.tiles.map unpark }
  else s

/-- A running round is not readmitted: its fetched tiles are discarded, and its charge stops once no station holds a tile of it
(rules R141, R238, R247, R248; notes/assumptions/80). -/
def suspendRound (s : State) (q : Nat) (r : Round) : State :=
  if r.state = .running then
    let s := modRound s q r.num fun r => { if roundHeld s q r.num then r else stopCharge s r with state := .suspended }
    let mine := fun (t : Tile) => t.id.q == q && t.id.rnd == r.num
    let s := untakeTiles s mine
    let park := fun (t : Tile) => if mine t && (t.phase == .between || t.phase == .drainWait) then atBoundary s t else t
    s.setRun { s.run with tiles := s.run.tiles.map park }
  else s

/-- Waiting rounds on the list, with their queue, in submission order. -/
def waitingRounds (s : State) (p : Round → Bool) : List (Nat × Round) :=
  let l := s.desk.queues.flatMap fun x => (x.2.rounds.filter fun r => r.state == .waiting && r.fresh && !r.late && p r).map fun r => (x.1, r)
  sortBy (fun a b => decide (a.2.submitted.toNat ≤ b.2.submitted.toNat)) l

/-- Rounds that carry over or lie suspended, with their queue, in their order of admission. -/
def carriedRounds (s : State) (p : Round → Bool) : List (Nat × Round) :=
  let l := s.desk.queues.flatMap fun x =>
    if x.2.state = 4 then [] else
      (x.2.rounds.filter fun r => (r.state == .running || r.state == .suspended) && r.result.isNone && p r).map fun r => (x.1, r)
  sortBy (fun a b => decide (a.2.order ≤ b.2.order)) l

/-- A C0 round carried over is admitted. -/
def admitCarried (st : AdmWork × State) (x : Nat × Round) : AdmWork × State :=
  let n := roundCount st.2 x.2
  let ws := maskWings st.2 x.2.mask
  let k := { st.1 with c0 := ws.foldl (fun t w => addTo t w n) st.1.c0,
                       c0Queue := ws.foldl (fun t w => addTo t (32 * x.1 + w) n) st.1.c0Queue }
  (k, admitRound st.2 x.1 x.2)

/-- The status with which a new C0 round ends at admission without running; 0 when it may run (rules R241, R245). -/
def c0Reject (s : State) (q : Nat) (r : Round) : Nat :=
  if r.budget = 0 then 1
  else
    match (getQ s q).resv with
    | none => 0x10
    | some v =>
      let outside := !((maskWings s r.mask).all fun w => (maskWings s v.mask).contains w)
      if outside || decide (raShare s v.ra < r.budget) then 0x10 else 0

def passOver (st : AdmWork × State) : AdmWork × State := ({ st.1 with passed := st.1.passed + 1 }, st.2)

/-- The rounds that use a Wing which nothing runs end with ARRAY_FAULT (rule R109). -/
def lostMask (s : State) (r : Round) : Bool := (List.range 32).any fun w => bit w r.mask.toNat && (hostWing s w).isNone

/-- Step 2: a new C0 round. -/
def admitC0 (st : AdmWork × State) (x : Nat × Round) : AdmWork × State :=
  let s := st.2
  let (q, r) := x
  if !queueAdmits s q then passOver st
  else if lostMask s r then (st.1, resultRound s q r.num 0x09 0xFFFFF)
  else
    let rej := c0Reject s q r
    if rej ≠ 0 then (st.1, resultRound s q r.num rej 0xFFFFF)
    else
      let ws := maskWings s r.mask
      let (ra, reserved) := match (getQ s q).resv with
        | some v => (v.ra, maskWings s v.mask)
        | none => (0, ws)
      let fits := (ws.all fun w =>
          !wingOut s w && (!(getWing s w).hostsFold || decide (tabGet 0 st.1.c0 w + r.budget ≤ raShare s 102))) &&
        reserved.all fun w =>
          decide (tabGet 0 st.1.c0Queue (32 * q + w) + (if ws.contains w then r.budget else 0) ≤ raShare s ra)
      if fits then admitCarried (st.1, s) (q, r) else passOver st

/-- Step 3: a round of another class, carried over, suspended or new. -/
def admitOther (st : AdmWork × State) (x : Nat × Round) : AdmWork × State :=
  let s := st.2
  let (q, r) := x
  let no := fun (k : AdmWork) => ({ k with passed := k.passed + 1 }, if r.fresh then s else suspendRound s q r)
  if r.fresh && !queueAdmits s q then passOver st
  else if r.fresh && lostMask s r then (st.1, resultRound s q r.num 0x09 0xFFFFF)
  else
    let cap := capCycles s
    let ws := maskWings s r.mask
    let n := roundCount s r
    let long := ws.any fun w => decide (cap - reservedShare s w < n)
    let out := ws.any fun w => st.1.shut.contains w || wingOut s w
    if long then
      if out || ws.any fun w => st.1.busy.contains w then no { st.1 with shut := ws ++ st.1.shut }
      else ({ st.1 with busy := ws ++ st.1.busy, shut := ws ++ st.1.shut }, admitRound s q r)
    else if !out && ws.all fun w => decide (reservedShare s w + tabGet 0 st.1.used w + n ≤ cap) then
      ({ st.1 with busy := ws ++ st.1.busy, used := ws.foldl (fun t w => addTo t w n) st.1.used }, admitRound s q r)
    else no st.1

/-- The lists of step 3 are those of the boundary; a round whose queue's halt has changed it meanwhile is looked up again. -/
def stillThere (s : State) (x : Nat × Round) : Bool :=
  match findRound s x.1 x.2.num with
  | some r => r.result.isNone && r.fresh == x.2.fresh
  | none => false

def tryEach (f : AdmWork × State → Nat × Round → AdmWork × State) (l : List (Nat × Round)) (st : AdmWork × State) : AdmWork × State :=
  l.foldl (fun st x => if stillThere st.2 x then f st x else st) st

/-- Admission at a boundary. -/
def admission (s : State) : State :=
  let k : AdmWork := { used := [], c0 := [], c0Queue := [], busy := [], shut := [], passed := 0 }
  let carry := carriedRounds s fun r => ranClass r == 0
  let fresh0 := waitingRounds s fun r => r.cls == 0
  let others := [1, 2, 3].flatMap fun c =>
    (carriedRounds s fun r => ranClass r == c) ++ waitingRounds s fun r => r.cls.toNat == c
  let open_ := s.pwr.state == .active || s.pwr.state == .idle
  let st := tryEach admitCarried carry (k, s)
  let st :=
    if open_ then tryEach admitOther others (tryEach admitC0 fresh0 st)
    else ({ st.1 with passed := st.1.passed + fresh0.length + others.length },
      forEach others st.2 fun s x => if x.2.fresh then s else suspendRound s x.1 x.2)
  st.2.setAdm { st.2.adm with deferred := satAdd st.2.adm.deferred st.1.passed }

/-! ### What else a boundary does -/

/-- Reservations that take effect and released ones that end (rule R240). -/
def turnReservations (s : State) : State :=
  let turn := fun (x : Queue) =>
    let now := match x.resvNext with
      | some r => some r
      | none => x.resv.filter fun r => !r.releasing
    { x with resv := now, resvNext := none }
  s.setDesk { s.desk with queues := s.desk.queues.map fun x => (x.1, turn x.2) }

/-- New limits apply (rule R17); the cap of safe mode stays (rule R341). -/
def applyLimits (s : State) : State :=
  let c := s.tier.cur
  let (en, sh, mv) := c.pendCur.getD (c.enable, c.share, c.maxMoves)
  let lims := c.pendLimits.foldl (fun t x => tabSet TierLim.reset t x.1 x.2) c.limits
  let c := { c with enable := en, share := sh, maxMoves := mv, limits := lims, pendLimits := [], pendCur := none }
  let s := s.setTier { s.tier with cur := c }
  let per := match s.inv.pendPeriod with
    | some p => BitVec.ofNat 12 p
    | none => s.inv.period
  let s := s.setInv { s.inv with period := per, pendPeriod := none }
  if s.rst.safe then s else s.setPwr { s.pwr with capInForce := s.pwr.capReq }

/-- A tick's counts of corrections move on (rule R370). -/
def turnCe (s : State) : State := s.setRel { s.rel with cePrev := s.rel.ceTick, ceTick := [] }

/-- The state of a round in a progress record (Table 10.5). -/
def progressState (r : Round) : Nat :=
  if r.result.isSome then 4
  else
    match r.state with
    | .waiting => 1
    | .running => 2
    | .suspended => 3
    | .ended => 4

/-- The user bytes of a round's progress shelfmark, read by the Desk in one access (rule R256). -/
def progressUser (s : State) (r : Round) : State × List Byte :=
  if r.progFolio = 0 then (s, [])
  else
    let (bad, t) := readFolioErrors s r.progFolio.toNat [(r.progOffset, 16)] .desk none
    (t, if bad then [] else folioData s r.progFolio.toNat r.progOffset 16)

/-- The progress record of a queue (rules R256, R257, R288, R290). -/
def progressOut (s : State) (q : Nat) : State :=
  let x := getQ s q
  if x.state ≠ 1 ∧ x.state ≠ 2 then s
  else
    let at_ := x.statusAddr + 32
    match (x.rounds.find? fun r => r.result.isNone).orElse fun _ => x.ended with
    | none => hostWrite s (q / 32) at_ (progressBytes s.tick.num.toNat 0 x.cls.toNat false false 0 0 [])
    | some r =>
      let (s, user) := progressUser s r
      hostWrite s (q / 32) at_
        (progressBytes s.tick.num.toNat (progressState r) (ranClass r) r.demoted r.overrun r.num.toNat
          (wholeCycles (roundCharge s r)) user)

/-- Whether the admission list holds a round. -/
def listed (s : State) : Bool :=
  s.desk.queues.any fun x => queueAdmits s x.1 && x.2.rounds.any fun r => r.state == .waiting && !r.late

/-- Idle is left for a list with a round or for a move (Table 14.2). -/
def wakeIdle (s : State) (why : Bool) : State := if s.pwr.state == .idle && why then s.setPwr { s.pwr with state := .active } else s

/-- The level of TICK_OUT; while the pins are not released its output is disabled, and the pin reads high (rules R336, R427). -/
def tickPin (high : Bool) (s : State) : State :=
  let s := s.setTick { s.tick with tickOut := high }
  if s.rst.pinsReleased then emit s (.tickOut high) else s

/-- Idle at a boundary whose list was empty (had: it held a round), with no round carried over or suspended and no move (Table
14.2). -/
def settleIdle (had : Bool) (s : State) : State :=
  if s.pwr.state != .active then s
  else
    let busy := had || s.desk.queues.any fun x => x.2.rounds.any fun r =>
      r.result.isNone && (r.state == .running || r.state == .suspended)
    if busy || !s.tier.cur.moves.isEmpty then s else s.setPwr { s.pwr with state := .idle }

/-- Parsed rounds that missed the list are on the next one. -/
def turnLists (s : State) : State :=
  let turn := fun (x : Queue) => { x with rounds := x.rounds.map fun r => { r with late := false } }
  s.setDesk { s.desk with queues := s.desk.queues.map fun x => (x.1, turn x.2) }

/-- The jitter of the boundary to come: draw() mod (JITTER + 1) µs (Table 15.9). -/
def drawJitter (s : State) : State :=
  let p := s.rel.pert
  if !p.tick then s.setTick { s.tick with jitter := 0 }
  else
    let lim := min p.jitter.toNat (min (s.tick.period.toNat / 4) 1000)
    let g := drawNext p.gen
    (s.setRel { s.rel with pert := { p with gen := g } }).setTick { s.tick with jitter := 1000 * (g.toNat % (lim + 1)) }

/-- Whether a change of tick source or period applies at this boundary: a new EPOCH and N0 of the fabric apply on every node at
tick N0 (rule R235, DEDUCED). -/
def tickSetDue (t : Tick) (p : TickSet) : Bool := t.source != 2 || p.source != 2 || decide (p.n0.toNat ≤ t.num.toNat + 1)

/-- The change of tick source or period that waits (rule R236), and the number of the tick that begins. -/
def turnTick (s : State) (last : W64) (sub : Bool) : State :=
  let t := s.tick
  let t := match t.pend.filter (tickSetDue t) with
    | some p => { t with source := p.source, period := p.period, epoch := p.epoch, n0 := p.n0, pend := none }
    | none => t
  let s := s.setTick { t with last := last, made := s.clk.now, subst := sub, closed := false, fAdm := s.pwr.aclkMhz,
                              num := t.num + 1, edge := none }
  if t.source = 2 then s.setTick { s.tick with num := fabricTick s s.clk.now.toNat } else s

/-- Every queue's C0 share of the ports begins anew, and slips over the limit go out (rule R300). -/
def turnPorts (s : State) : State :=
  forEach s.fab.ports s fun s x => pumpPort (modPort s x.1 fun p => { p with c0Sent := [] }) x.1

/-- A tick boundary (rule R247). last: the moment of the boundary on its schedule; sub: a substitute boundary. -/
def boundary (last : W64) (sub : Bool) (s : State) : State :=
  let s := countLate (if guaranteeOff s then loseC0 s else s)
  let s := turnTick s last sub
  let s := applyLimits (turnReservations s)
  let s := s.setRst { s.rst with l3Pend := [] }
  let had := listed s
  let s := admission (wakeIdle s had)
  let s := s.setTick { s.tick with lossNext := false }
  let s := curate (turnCe s)
  let s := turnPorts (wakeIdle s (!s.tier.cur.moves.isEmpty))
  let s := forEach s.desk.queues s fun s x => progressOut s x.1
  let s := turnLists (settleIdle had s)
  let s := drawJitter (showLate s)
  tickPin true s

/-- The moment of the boundary that is due, on its schedule. -/
def dueMoment (s : State) : W64 :=
  if s.tick.source = 0 then s.tick.last + BitVec.ofNat 64 (periodNs s)
  else if s.tick.source = 1 then s.tick.edge.getD s.clk.now else s.clk.now

/-- A boundary of the node's own schedule comes: a node takes no FABRIC boundary before it has joined (rule R323). -/
def tickComes (s : State) : Bool := tickRuns s && (s.tick.source != 2 || s.fab.joined || s.fab.manager || s.fab.alone)

/-- TICK_BOUNDARY: the boundary of an INTERNAL or FABRIC tick, or a delayed one of a PIN tick. -/
def tickBoundary (s : State) : State := if tickComes s && tickDue s 0 then boundary (dueMoment s) false s else s

def execTickBoundary (s : State) : Host.Outcome State Fault Refusal := .next (finish s (settle (tickBoundary s)))

/-! ### The list and the pins -/

/-- The list of the coming boundary closes; a round on it wakes the device from Idle (rule R246, Table 14.2). -/
def listClose (s : State) : State :=
  if s.tick.closed || !tickRuns s || !(s.tick.source == 1 || tickDue s 2000) then s
  else
    let s := s.setTick { s.tick with closed := true }
    wakeIdle s (listed s)

def execAdmissionListClose (s : State) : Host.Outcome State Fault Refusal := .next (finish s (listClose s))

/-- TICK_OUT falls 1 µs before a boundary, or under PIN 0.9 × period after the last one was made (rule R427). -/
def tickOutFall (s : State) : State :=
  let due := if s.tick.source = 1 then decide (9 * periodNs s ≤ 10 * (s.clk.now - s.tick.made).toNat) else tickDue s 1000
  if tickComes s && s.rst.pinsReleased && s.tick.tickOut && due then tickPin false s else s

def execTickOutFall (s : State) : Host.Outcome State Fault Refusal := .next (finish s (tickOutFall s))

/-- A rising edge on TICK_IN (rule R234); perturbation may delay the boundary that it makes (Table 15.9). -/
def tickInEdge (s : State) : State :=
  if !tickRuns s || s.tick.source != 1 then s
  else if s.tick.edge.isSome || 10 * sinceTick s < 9 * periodNs s then
    s.setTick { s.tick with early := true, earlyCnt := satAdd s.tick.earlyCnt 1 }
  else if s.tick.jitter = 0 then boundary s.clk.now false s
  else s.setTick { s.tick with edge := some s.clk.now }

def execTickInEdge (s : State) : Host.Outcome State Fault Refusal := .next (finish s (settle (tickInEdge s)))

/-- RST_TICK_STAT (Table 10.8). -/
def tickStatWord (s : State) : Nat := fld 31 (b2n s.tick.lost) + fld 30 (b2n s.tick.early) + s.tick.fAdm.toNat

/-- Fabric time or the TICK_IN edge is lost (rules R234, R235). -/
def tickLost (s : State) : State :=
  let s := sourceLoss s
  let s := s.setTick { s.tick with lost := true }
  mgmtEvent s 0x02 (tickStatWord s)

/-- ns from a boundary to the instant of the substitute one that follows: 1.25 × period, or one period after a substitute boundary.
-/
def substituteAfter (s : State) : Nat := if s.tick.subst then periodNs s else 5 * periodNs s / 4

/-- No edge has come by the substitute instant: the device makes a boundary (rule R234). An edge that takes the very time of that
instant makes it instead, so the instant must have passed (rule R428). -/
def substituteBoundary (s : State) : State :=
  if tickRuns s && s.tick.source == 1 && s.tick.edge.isNone && decide (substituteAfter s + s.tick.jitter < sinceTick s) then
    let s := tickLost s
    boundary (s.tick.last + BitVec.ofNat 64 (substituteAfter s)) true
      (s.setTick { s.tick with lostCnt := satAdd s.tick.lostCnt 1 })
  else s

def execSubstituteBoundary (s : State) : Host.Outcome State Fault Refusal := .next (finish s (settle (substituteBoundary s)))

end Sys2Proof.Machine
end

