-- ==== Sys2Proof/Machine/Queues.lean ====
section
/-! DEFINITION. Rings, polls and accesses to host memory (rules R269, R270, R272 to R277, R285, R288 to R291, R367, R406). The
commands PRODUCER_POLL, HOST_COMPLETION, FLUSH_READ_DONE, QUEUE_DESTROY_COMPLETE and DESTROY_TIMEOUT. -/

namespace Sys2Proof.Machine

/-! ### Waking from Drowse (rules R351, R352, R354) -/

/-- An ACTIVE request: from Drowse a wake begins; during an entry or a wake it is held. -/
def wakeRequest (s : State) : State :=
  match s.pwr.state with
  | .drowse => s.setPwr { s.pwr with state := .waking, wakeFrom := some s.clk.now, result := 0 }
  | .entering => s.setPwr { s.pwr with held := s.pwr.held ++ [1], result := 2 }
  | .waking => s.setPwr { s.pwr with held := s.pwr.held ++ [1], result := 2 }
  | _ => s

/-- A round parsed in Drowse starts a wake while AUTO_WAKE is 1; one parsed during an entry has it follow the entry. -/
def parsedWakes (s : State) : State :=
  if s.pwr.autoWake && (s.pwr.state == .drowse || (s.pwr.state == .entering && !s.pwr.held.contains 1)) then
    let r := s.pwr.result
    let s := wakeRequest s
    s.setPwr { s.pwr with result := r }
  else s

/-! ### Parsing a ring entry (rules R273, R274) -/

/-- Whether the reserved bits of an entry are 0 and its KIND, CLASS and DESC_COUNT are good. -/
def entryOk (cls : Nat) (e : List W32) : Bool :=
  let w := wordAt e
  bits 31 24 (w 0) == 1 && bits 23 22 (w 0) == cls && bits 20 0 (w 0) == 0 && bits 31 20 (w 4) == 0 && bits 31 19 (w 5) == 0 &&
    bits 31 20 (w 6) == 0 && bits 19 0 (w 6) != 0 && bits 31 20 (w 7) == 0 && bits 31 21 (w 8) == 0 &&
    ([9, 10, 11, 12, 13, 14, 15].all fun k => w k == 0)

/-- A PLAIN folio of the function that reaches so far. -/
def plainFolio (s : State) (f fid end_ : Nat) : Bool :=
  folioOk s fid f && hintOf s fid == 0 && decide (end_ ≤ folioSize (getFolio s fid))

/-- The status of an entry's checks, 0 when the round is held for admission; a damaged Shelfmark entry is reported. -/
def entryStatus (s : State) (q : Nat) (e : List W32) : Nat × State :=
  let w := wordAt e
  let df := bits 19 0 (w 4)
  let pf := bits 19 0 (w 7)
  if !entryOk (getQ s q).cls.toNat e then (0x11, s)
  else
    match ((if pf = 0 then [df] else [df, pf]).find? (entryBad s)) with
    | some fid => (0x0B, (readErrors s (entryAddr fid) 16 .desk none).2)
    | none =>
      let ok := plainFolio s (q / 32) df (64 * bits 18 0 (w 5) + 64 * bits 19 0 (w 6)) &&
        (pf == 0 || plainFolio s (q / 32) pf (16 * bits 20 0 (w 8) + 16))
      (if ok then 0 else 3, s)

/-- The round that an entry submits. -/
def entryRound (s : State) (q : Nat) (e : List W32) : Round :=
  let w := wordAt e
  let x := getQ s q
  { num := x.consumed, cls := BitVec.ofNat 2 (bits 23 22 (w 0)), rsignal := bit 21 (w 0), tag := e.getD 1 0, budget := w 2,
    mask := e.getD 3 0, descFolio := BitVec.ofNat 20 (w 4),
    descBase := folioBase (getFolio s (bits 19 0 (w 4))) + 64 * bits 18 0 (w 5), descOffset := 64 * bits 18 0 (w 5),
    descCount := bits 19 0 (w 6), progFolio := BitVec.ofNat 20 (w 7), progOffset := 16 * bits 20 0 (w 8), submitted := s.clk.now,
    fresh := true, late := s.tick.closed, returned := false, state := .waiting, order := 0, tick := 0, since := none, charge := 0,
    overrun := false, demoted := false, lostGuarantee := false, attrs := x.attrs, taken := [], done := 0, reexecuted := false,
    stopping := false, result := none, loanDone := [], sigDone := [] }

/-- The Desk parses one entry. -/
def parseEntry (s : State) (q : Nat) (bytes : List Byte) : State :=
  let e := wordsOf (padTo 0 64 bytes)
  let r := entryRound s q e
  let (st, s) := entryStatus s q e
  let s := modQ s q fun x => { x with consumed := x.consumed + 1, rounds := x.rounds ++ [r] }
  if st ≠ 0 then resultRound s q r.num st 0xFFFFF else parsedWakes s

/-! ### Polls (rules R275, R277, R282) -/

/-- Reads the next entry that the poll may parse, or ends the poll. -/
def nextEntry (s : State) (q : Nat) : State :=
  let x := getQ s q
  if x.state = 1 ∧ x.consumed ≠ x.producer ∧ x.rounds.length < 64 then
    let at_ := x.ringBase + BitVec.ofNat 64 (64 * (x.consumed.toNat % 2 ^ x.ringLog2.toNat))
    hostRead s (q / 32) at_ 64 (.entry q x.consumed)
  else endPoll s q

/-- The producer word has arrived. -/
def producerDone (s : State) (q : Nat) (bytes : List Byte) : State :=
  let p := BitVec.ofNat 32 (natOf (bytes.take 4))
  let s := modQ s q fun x => { x with producer := p, pollFrom := x.consumed }
  let x := getQ s q
  if x.state ≠ 1 then setQ s q { x with polling := false }
  else if 2 ^ x.ringLog2.toNat < (p - x.consumed).toNat then haltQueue (setQ s q { x with polling := false }) q 4
  else nextEntry s q

/-- PRODUCER_POLL: the Desk reads the producer word of an ACTIVE queue. -/
def producerPoll (q : Nat) (s : State) : State :=
  let x := getQ s q
  if x.state = 1 ∧ !x.polling ∧ s.desk.ready ∧ s.pwr.state ≠ .off then
    hostRead (setQ s q { x with polling := true }) (q / 32) x.producerAddr 8 (.producer q)
  else s

def execProducerPoll (q : Fin 1024) (s : State) : Host.Outcome State Fault Refusal := .next (finish s (settle (producerPoll q s)))

/-! ### Folio transfers (rule R269) -/

/-- Folio, offset, host address and length of a FOLIO_WRITE or FOLIO_READ request. -/
def xferArgs (m : Mbox) : Nat × Nat × W64 × Nat :=
  (rqP m 0, rqP m 1, BitVec.ofNat 64 (rqP m 2 + 2 ^ 32 * rqP m 3), rqP m 4)

/-- The next read of host memory of a FOLIO_WRITE, or its response. -/
def folioWriteNext (s : State) (f k moved : Nat) : State :=
  let (_, _, addr, len) := xferArgs (getMb s f k)
  if len ≤ moved then respond s f k stOk [moved]
  else hostRead s f (addr + BitVec.ofNat 64 moved) (min 4096 (len - moved)) (.folioWrite f k moved)

/-- Bytes of a FOLIO_WRITE arrive: they count as moved, whole request or part of it. -/
def folioWriteData (s : State) (r : HostRd) (f k moved : Nat) (bytes : List Byte) : State :=
  let (fid, off, _, _) := xferArgs (getMb s f k)
  let bs := bytes.take r.len
  let s := (storeFolioAs s .desk none fid (off + moved) bs).2
  let n := bs.length
  if n < r.len then
    let rest := { r with addr := r.addr + BitVec.ofNat 64 n, len := r.len - n, why := .folioWrite f k (moved + n) }
    s.setDesk { s.desk with reads := s.desk.reads ++ [rest] }
  else folioWriteNext s f k (moved + n)

/-- The next part of a FOLIO_READ: its writes and its flush read, or the response. -/
def folioReadNext (s : State) (f k moved : Nat) : State :=
  let (fid, off, addr, len) := xferArgs (getMb s f k)
  if len ≤ moved then respond s f k stOk [moved]
  else
    let n := min 4096 (len - moved)
    let base := folioBase (getFolio s fid) + off + moved
    let (bad, t) := readErrors s base n .desk none
    if bad then
      let first := (ueIn s base n).foldl min (base + n)
      let ok := first - base
      respond (hostWrite t f (addr + BitVec.ofNat 64 moved) (readMem s base ok)) f k stUncorrectable [moved + ok]
    else
      hostRead (hostWrite t f (addr + BitVec.ofNat 64 moved) (readMem s base n)) f (addr + BitVec.ofNat 64 moved) 4
        (.folioRead f k moved)

/-! ### QUEUE_CREATE (rule R270) and QUEUE_RESUME (rule R289) -/

/-- The queue that a request creates (Table 11.5). -/
def newQueue (old : Queue) (m : Mbox) : Queue :=
  let p := rqP m
  let a := fun i => BitVec.ofNat 64 (p i + 2 ^ 32 * p (i + 1))
  { Queue.reset with
    state := 1, cls := BitVec.ofNat 2 (bits 6 5 (p 0)), haltOnError := bit 7 (p 0), eventMode := BitVec.ofNat 2 (bits 9 8 (p 0)),
    eventLog2 := BitVec.ofNat 5 (bits 12 8 (p 1)), ringLog2 := BitVec.ofNat 5 (p 1), ringBase := a 2, producerAddr := a 4,
    statusAddr := a 6, eventBase := a 8, pollUs := if p 10 = 0 then 10 else p 10, qtimeoutUs := p 11, created := true,
    resv := old.resv }

def createQid (f : Nat) (m : Mbox) : Nat := 32 * f + rqP m 0 % 32

/-- The producer word of a queue to be created has arrived. -/
def createProducer (s : State) (f k : Nat) (bytes : List Byte) : State :=
  let m := getMb s f k
  if natOf (bytes.take 4) ≠ 0 then respond s f k stBadParam []
  else
    let at_ := BitVec.ofNat 64 (rqP m 6 + 2 ^ 32 * rqP m 7)
    hostRead (hostWrite s f at_ (List.replicate 32 0)) f at_ 4 (.createFlush f k)

def createDone (s : State) (f k : Nat) : State :=
  let m := getMb s f k
  let q := createQid f m
  respond (setQ s q (newQueue (getQ s q) m)) f k stOk [q]

/-- Writes the next spill record with its flush read, or ends the command. done: the records delivered. -/
def spillNext (s : State) (f k q done : Nat) : State :=
  let x := getQ s q
  match x.spill with
  | [] => respond (setQ s q { x with state := if x.cause = 0 then 1 else 2 }) f k stOk [done]
  | r :: rest =>
    let st : BitVec 3 := if rest.isEmpty then (if x.cause = 0 then 1 else 2) else 3
    let s := setQ s q { x with lastQ := st }
    hostRead (hostWrite s (q / 32) x.statusAddr (completionBytes x.consumed st.toNat r)) (q / 32) x.statusAddr 4
      (.spillFlush f k q done)

/-- A spill record is delivered. -/
def spillDone (s : State) (f k q done : Nat) : State :=
  spillNext (modQ s q fun x => { x with spill := x.spill.drop 1 }) f k q (done + 1)

/-! ### The end of a read (rules R277, R285, R367, R406, R408) -/

/-- Data has arrived for a read. -/
def readDone (s : State) (r : HostRd) (bytes : List Byte) : State :=
  match r.why with
  | .createProducer f k => createProducer s f k bytes
  | .createFlush f k => createDone s f k
  | .producer q => producerDone s q bytes
  | .entry q n =>
    let x := getQ s q
    if x.state = 1 ∧ x.consumed = n then nextEntry (parseEntry s q bytes) q else endPoll s q
  | .flush _ _ => s
  | .spillFlush f k q done => spillDone s f k q done
  | .folioWrite f k moved => folioWriteData s r f k moved bytes
  | .folioRead f k moved => folioReadNext s f k (moved + min 4096 ((xferArgs (getMb s f k)).2.2.2 - moved))
  | .dead => s

/-- Whether a result can end a read: data must be whole, except for a FOLIO_WRITE, whose parts count as they come. -/
def resultFits (r : HostRd) (res : HostRes) : Bool :=
  match res, r.why with
  | .data bs, .folioWrite _ _ _ => !bs.isEmpty && decide (bs.length ≤ r.len)
  | .data bs, _ => bs.length == r.len
  | _, _ => true

/-- Reads that wait for room go out in their order; one of a function that is blocked by now fails (Table 17.1, rule R407). -/
def pumpReads (s : State) : State :=
  forEach (s.desk.reads.filter fun r => !r.sent) s fun s r =>
    let first := s.desk.reads.find? fun x => !x.sent
    if first != some r then s
    else if hostBlocked s r.f then
      hostReadFail (s.setDesk { s.desk with reads := s.desk.reads.filter fun x => x.tag != r.tag }) r.why
    else if readRoom s r.len then
      emit (s.setDesk { s.desk with reads := s.desk.reads.map fun x => if x.tag = r.tag then { x with sent := true } else x })
        (.hostRead r.f r.addr r.len r.tag)
    else s

/-- A completion, or the Completion Timeout, ends an outstanding read; a poisoned completion counts as a Completer Abort
(rule R367). -/
def hostEnd (p : RdWhy → Bool) (tag : Nat) (res : HostRes) (s : State) : State :=
  match s.desk.reads.find? fun r => r.tag == tag && r.sent with
  | none => emit (s.setPcie { s.pcie with unexpected := s.pcie.unexpected + 1 }) (.aer .unexpected 0)
  | some r =>
    if !p r.why || !resultFits r res then s
    else
      let s := s.setDesk { s.desk with reads := s.desk.reads.filter fun x => x.tag != tag }
      pumpReads (match res with
        | .data bs => readDone s r bs
        | .timeout =>
          let s := emit (s.setPcie { s.pcie with timeouts := s.pcie.timeouts + 1 }) (.aer .complTimeout r.f)
          hostReadFail s r.why
        | _ => hostReadFail s r.why)

def execHostCompletion (tag : Nat) (res : HostRes) (s : State) : Host.Outcome State Fault Refusal :=
  .next (finish s (settle (hostEnd (fun _ => true) tag res s)))

/-- The flush read of a completion record ends; FLUSH_READ_DONE ends no other read. -/
def isFlush (w : RdWhy) : Bool :=
  match w with
  | .flush _ _ => true
  | .spillFlush _ _ _ _ => true
  | .createFlush _ _ => true
  | _ => false

def execFlushReadDone (tag : Nat) (res : HostRes) (s : State) : Host.Outcome State Fault Refusal :=
  .next (finish s (settle (hostEnd isFlush tag res s)))

/-! ### The end of a destroy (rules R290, R291) -/

def queueHeld (s : State) (q : Nat) : Bool := s.run.tiles.any fun t => t.id.q == q && tileHeld t

/-- QUEUE_DESTROY_COMPLETE: the last engine has reported. -/
def destroyComplete (q : Nat) (s : State) : State := if queueHeld s q then s else finishDestroy s q

def execQueueDestroyComplete (q : Fin 1024) (s : State) : Host.Outcome State Fault Refusal :=
  .next (finish s (settle (destroyComplete q s)))

/-- DESTROY_TIMEOUT: QTIMEOUT, or 100 ms when it is 0, after acceptance every held tile is abandoned. -/
def destroyTimeout (q : Nat) (s : State) : State :=
  let x := getQ s q
  let lim := if x.qtimeoutUs = 0 then 100000000 else 1000 * x.qtimeoutUs
  if x.state = 4 ∧ lim ≤ (s.clk.now - x.destroyAt).toNat then finishDestroy s q else s

def execDestroyTimeout (q : Fin 1024) (s : State) : Host.Outcome State Fault Refusal :=
  .next (finish s (settle (destroyTimeout q s)))

end Sys2Proof.Machine
end

