-- ==== Sys2Proof/Machine/Sram.lean ====
section
/-! DEFINITION. On-chip SRAM in the device address space (rules R189, R190, R194 to R200): reads and writes through the plain,
SET and CLEAR views by host windows, mailbox commands and debug. The commands SRAM_WINDOW_READ, SRAM_WINDOW_WRITE,
SET_VIEW_WRITE and CLEAR_VIEW_WRITE. -/

namespace Sys2Proof.Machine

/-- Offsets of the 8-byte words that n bytes from an offset touch. -/
def wordsTouched (off n : Nat) : List Nat :=
  if n = 0 then [] else (List.range (ceilDiv (off % 8 + n) 8)).map fun i => 8 * (off / 8 + i)

/-- The plain-view address of a view offset. -/
def sramAddr (off : Nat) : Nat := 0x40000000000 + off

/-- Whether a memory stands at a view offset (Table 8.2). -/
def sramMapped (off : Nat) : Bool := sramAt off != .none

/-- Whether the host reaches a view offset: of control memory only the scratch area (rule R190). -/
def sramHost (off : Nat) : Bool :=
  match sramAt off with
  | .bank _ _ _ => true
  | .ctrl o => decide (0x1F0000 ≤ o)
  | .none => false

/-- The host-boot phase, in which the plain window maps all of control memory (rules R341, R390). -/
def hostBootOpen (s : State) : Bool :=
  s.rst.bringup.isSome && s.rst.step == 3 && decide (9 ≤ s.rst.code.toNat) && decide (s.rst.code.toNat ≤ 12) && !s.rst.safe &&
    !s.sec.hostbootDenied

/-- n bytes from a view offset, word by word; a word that a test refuses reads as zeros. -/
def sramBytes (s : State) (ok : Nat → Bool) (off n : Nat) : List Byte :=
  (((wordsTouched off n).flatMap fun w => if ok w then readMem s (sramAddr w) 8 else List.replicate 8 0).drop (off % 8)).take n

/-- The value that port A writes to a word in the same cycle (rules R195, R196): a Glossary or a Ledger to its Wing-store bank,
a Desk core to control memory outside the scratch area. -/
def portAValue (portA : List (Nat × W64)) (w : Nat) : Option W64 :=
  let hit := (portA.find? fun x => x.1 == w).map fun x => x.2
  match sramAt w with
  | .bank _ k _ => if k < 33 then none else hit
  | .ctrl o => if o < 0x1F0000 then hit else none
  | .none => none

/-- Counts one word of port B that is discarded (rule R195). -/
def countSuper (s : State) (w : Nat) : State :=
  match sramAt w with
  | .bank i k _ => modBank s i k fun b => { b with super := satAdd b.super 1, superseded := true }
  | _ => s

/-- A written byte through a view (rule R197): 0 plain, 1 SET, 2 CLEAR. -/
def viewByte (view : Nat) (old new : Byte) : Byte :=
  if view = 1 then old ||| new else if view = 2 then old &&& ~~~new else new

/-- Bytes bs written from byte lo of word w by port B for a reader. A write that leaves some of the word, or that goes through the
SET or the CLEAR view, reads the word first, and meets its errors (rules R199, R200). The status: 0 done, 1 superseded, 2
uncorrectable. -/
def sramWord (s : State) (rd : Reader) (view : Nat) (portA : List (Nat × W64)) (w lo : Nat) (bs : List Byte) : Nat × State :=
  let a := sramAddr w
  match portAValue portA w with
  | some v => (1, countSuper (storeBytes s a (bytesOf 8 v.toNat)).2 w)
  | none =>
    let (bad, s) := if view != 0 || bs.length != 8 then readErrors s a 8 rd none else (false, s)
    if bad then (2, s)
    else
      let old := readMem s (a + lo) bs.length
      (0, (storeBytes s (a + lo) (List.zipWith (viewByte view) old bs)).2)

/-- A port B write of bytes from a view offset, words that a test refuses left out. The status is the gravest of its words. -/
def sramWrite (s : State) (rd : Reader) (view : Nat) (portA : List (Nat × W64)) (ok : Nat → Bool) (off : Nat) (bs : List Byte) :
    Nat × State :=
  (wordsTouched off bs.length).foldl (fun st w =>
    if !ok w then st
    else
      let lo := max off w
      let hi := min (off + bs.length) (w + 8)
      let r := sramWord st.2 rd view portA w (lo - w) ((bs.drop (lo - off)).take (hi - lo))
      (max st.1 r.1, r.2)) (0, s)

/-! ### The BAR0 windows (rule R190) -/

/-- The view and the view offset of a BAR0 offset; none outside the windows. -/
def windowAt (s : State) (off : Nat) : Option (Nat × Nat) :=
  if 0x2000000 ≤ off ∧ off < 0x3800000 then
    some (off / 0x800000 - 4, s.inv.winBase.toNat * 0x100000 + off % 0x800000)
  else none

/-- What the host reaches through a window. -/
def windowLive (s : State) (view w : Nat) : Bool := sramHost w || (view == 0 && hostBootOpen s && sramMapped w)

/-- Whether the fill of a Wing's memories is still to come, so that an access waits for it (rule R209). In Drowse and in safe mode no
fill comes: what is written then is lost (DESIGN CHOICE, notes/assumptions/105). -/
def fillWaits (s : State) (w : Nat) : Bool :=
  (!(getWing s w).powered && s.pwr.state != .drowse && !s.rst.safe) || s.rst.l3Wings.any fun x => x.1.toNat == w && x.2 == 0

/-- Whether n bytes from a view offset reach a memory whose fill is still to come. -/
def viewWaits (s : State) (off n : Nat) : Bool :=
  (wordsTouched off n).any fun x => match sramAt x with
    | .bank w _ _ => fillWaits s w
    | _ => false

/-- A read through a window: an uncorrectable word reads as 0 and raises a management event (rule R200). view: the view of the
window, as windowAt numbers them. -/
def viewRead (view o len : Nat) (ecc : List EccHit) (s : State) : State :=
  let s := addHits s ecc
  let t := forEach ((wordsTouched o len).filter (windowLive s view)) s fun t w => (readErrors t (sramAddr w) 8 .window none).2
  emit t (.readData 0 (sramBytes s (fun w => windowLive s view w && !s.ecc.ue.contains (sramAddr w)) o len))

/-- A read through a window takes place, or waits for a fill. -/
def windowRead (view o n : Nat) (ecc : List EccHit) (s : State) : State :=
  if barHeld s || viewWaits s o n then holdAcc s (.read view o n ecc) else viewRead view o n ecc s

/-- A write through a window takes place, or waits for a fill. -/
def windowWrite (view o : Nat) (bs : List Byte) (portA : List (Nat × W64)) (s : State) : State :=
  if barHeld s || viewWaits s o bs.length then holdAcc s (.write view o bs portA)
  else (sramWrite s .window view portA (windowLive s view) o bs).2

/-- SRAM_WINDOW_READ. -/
def sramWindowRead (off len : Nat) (ecc : List EccHit) (s : State) : State :=
  if !barOpen s 0 then closedRead 0 s
  else
    match windowAt s off with
    | none => s
    | some (view, o) => windowRead view o len ecc s

def execSramWindowRead (off : BitVec 26) (len : Nat) (ecc : List EccHit) (s : State) : Host.Outcome State Fault Refusal :=
  .next (finish s (sramWindowRead off.toNat len ecc s))

/-- A host write through the window of one view. -/
def sramWindowWrite (want off : Nat) (data : List Byte) (portA : List (Nat × W64)) (s : State) : State :=
  if !barOpen s 0 then closedBar 0 s
  else
    match windowAt s off with
    | none => s
    | some (view, o) => if view = want then windowWrite view o data portA s else s

def execSramWindowWrite (off : BitVec 26) (data : List Byte) (portA : List (Nat × W64)) (s : State) :
    Host.Outcome State Fault Refusal :=
  .next (finish s (sramWindowWrite 0 off.toNat data portA s))

def execSetViewWrite (off : BitVec 26) (data : List Byte) (portA : List (Nat × W64)) (s : State) :
    Host.Outcome State Fault Refusal :=
  .next (finish s (sramWindowWrite 1 off.toNat data portA s))

def execClearViewWrite (off : BitVec 26) (data : List Byte) (portA : List (Nat × W64)) (s : State) :
    Host.Outcome State Fault Refusal :=
  .next (finish s (sramWindowWrite 2 off.toNat data portA s))

end Sys2Proof.Machine
end

