-- ==== Sys2Proof/Machine/Mailbox.lean ====
section
/-! DEFINITION. The mailbox commands (rules R259 to R271, R451, Tables 11.4 to 11.6, 11.11): the order of commands, the checks
and the effect and response of each. -/

namespace Sys2Proof.Machine

/-! ### Requests -/

def mbOp (m : Mbox) : Nat := rqWord m 0 % 65536

/-- The payload length of a command (Table 11.4); MEM_WRITE carries its data from P4. -/
def reqLength (m : Mbox) (op : Nat) : Nat :=
  match op with
  | 0x10 => 48 | 0x11 => 4 | 0x12 => 4 | 0x13 => 20 | 0x14 => 4 | 0x20 => 12 | 0x21 => 4
  | 0x30 => 8 | 0x31 => 4 | 0x32 => 8 | 0x33 => 4 | 0x34 => 4 | 0x35 => 20 | 0x36 => 20
  | 0x40 => 12 | 0x41 => 4 | 0x42 => 24 | 0x43 => 4 | 0x44 => 4 | 0x45 => 12 | 0x46 => 16 + rqP m 2
  | _ => 0

/-- The defined opcodes of Table 11.4. -/
def opDefined (op : Nat) : Bool :=
  [0x01, 0x02, 0x10, 0x11, 0x12, 0x13, 0x14, 0x20, 0x21, 0x30, 0x31, 0x32, 0x33, 0x34, 0x35, 0x36, 0x40, 0x41, 0x42, 0x43,
   0x44, 0x45, 0x46].contains op

/-- The commands marked PF. -/
def opPf (op : Nat) : Bool := [0x20, 0x21, 0x40, 0x41, 0x42, 0x43, 0x44, 0x45, 0x46].contains op

/-- The commands that name a queue by its device queue index, and those that name a folio. -/
def opNamesQueue (op : Nat) : Bool := [0x11, 0x12, 0x13, 0x14, 0x20, 0x21].contains op
def opNamesFolio (op : Nat) : Bool := [0x31, 0x32, 0x33, 0x34, 0x35, 0x36].contains op

/-- Commands that Drowse rejects (rule R352). -/
def opAwake (op : Nat) : Bool := [0x30, 0x31, 0x32, 0x33, 0x35, 0x36, 0x45, 0x46].contains op

/-- The queue or folio that a request names: queues as 2·q, folios as 2·F + 1 (rule R265). -/
def mbTarget (f : Nat) (m : Mbox) : Option Nat :=
  let op := mbOp m
  if op = 0x10 then some (2 * createQid f m)
  else if opNamesQueue op then some (2 * rqP m 0)
  else if opNamesFolio op then some (2 * rqP m 0 + 1)
  else none

/-- Whether a mailbox still holds its target back from a later command: not taken up, or waiting for a host access or for a pin
to settle. -/
def mbHolds (s : State) (f k : Nat) (m : Mbox) : Bool :=
  m.state == 1 &&
    (!m.taken || s.desk.cmds.any fun c => c.f == f && c.k == k && match c.why with
      | .hostRead => true
      | .folioPin _ => true
      | _ => false)

/-- Whether an earlier command that names the same queue or folio has still to take effect (rule R265). -/
def mbBehind (s : State) (f : Nat) (m : Mbox) : Bool :=
  match mbTarget f m with
  | none => false
  | some t => s.desk.mbox.any fun x =>
      mbHolds s (x.1 / 8) (x.1 % 8) x.2 && decide (x.2.order < m.order) && mbTarget (x.1 / 8) x.2 == some t

/-- A command of the physical function that names a folio of a function under scrub waits (Table 16.3). -/
def mbScrubWait (s : State) (f : Nat) (m : Mbox) : Bool :=
  f == 0 && opNamesFolio (mbOp m) &&
    (let t := (getFolio s (rqP m 0)).tenant.toNat
     t != 0 && bit t s.sec.scrub.toNat)

/-- Whether the Desk may take up mailbox k of function f as the command op; a request that fails its header checks is answered
by whichever command names it. -/
def mbReady (s : State) (f k op : Nat) : Bool :=
  let m := getMb s f k
  m.state == 1 && !m.taken && s.desk.ready && (mbOp m == op || !opDefined (mbOp m)) && !mbBehind s f m && !mbScrubWait s f m

/-! ### The checks of rule R451 -/

/-- Checks 1 to 4, and the header part of check 5. -/
def headStatus (m : Mbox) (f : Nat) : Nat :=
  let op := mbOp m
  if bits 23 16 (rqWord m 0) ≠ 1 then stBadVersion
  else if !opDefined op then stUnknown
  else if opPf op && f != 0 then stDenied
  else if bits 7 0 (rqWord m 2) ≠ reqLength m op then stBadLength
  else if bits 31 24 (rqWord m 0) ≠ 0 ∨ bits 31 8 (rqWord m 2) ≠ 0 ∨ rqWord m 3 ≠ 0 then stBadParam
  else 0

/-- A 64-bit payload value. -/
def rqQ (m : Mbox) (n : Nat) : Nat := rqP m n + 2 ^ 32 * rqP m (n + 1)

def hasBad (l : List Bool) : Bool := l.any fun b => !b

/-- The folio that a folio command names is mapped (rule R451). -/
def folioMapped (s : State) (fid : Nat) : Bool := fid != 0 && decide (fid < 1048576) && (getFolio s fid).valid

/-- The ranges of a QUEUE_CREATE payload (Table 11.5). -/
def createOk (m : Mbox) : Bool :=
  let p := rqP m
  let mode := bits 9 8 (p 0)
  let lg := bits 12 8 (p 1)
  let ring := bits 4 0 (p 1)
  !hasBad [bits 31 10 (p 0) == 0, bits 31 13 (p 1) == 0, bits 7 5 (p 1) == 0, mode != 3,
    if mode = 0 then lg == 0 && rqQ m 8 == 0 else decide (4 ≤ lg) && decide (lg ≤ 20) && rqQ m 8 % 64 == 0,
    decide (3 ≤ ring) && decide (ring ≤ 16), rqQ m 2 % 64 == 0, rqQ m 4 % 8 == 0, rqQ m 6 % 64 == 0,
    p 10 == 0 || (decide (2 ≤ p 10) && decide (p 10 ≤ 1000)), decide (p 11 ≤ 60000000)]

/-- The attribute value of a QUEUE_SET_ATTR (Table 11.6): its unused bits and words are 0, and it is in range. -/
def attrOk (s : State) (m : Mbox) : Bool :=
  let v0 := rqP m 2
  let v1 := rqP m 3
  let v2 := rqP m 4
  let one := v1 == 0 && v2 == 0
  match rqP m 1 with
  | 0x01 => decide (v0 ≤ 1) && one
  | 0x02 => one
  | 0x03 | 0x04 | 0x05 | 0x06 => decide (v0 < 1048576) && decide (v1 < 524288) && v2 == 0
  | 0x07 => decide (v0 < 65536) && decide (v1 < 1048576) && decide (v2 < 4194304)
  | 0x08 => decide (2 ≤ v0) && decide (v0 ≤ 1000) && one
  | 0x09 => decide (v0 ≤ 60000000) && one
  | 0x0A => decide (v0 ≤ 1) && one
  | 0x0B => decide (v0 ≤ 2) && one && (v0 == 0 || (getQ s (rqP m 0)).state == 0 || (getQ s (rqP m 0)).eventLog2 != 0)
  | _ => false

/-- The SRAM bytes that MEM_READ and MEM_WRITE reach (rule R268). -/
def memRangeOk (m : Mbox) : Bool :=
  let a := rqQ m 0
  let n := rqP m 2
  let inViews := decide (0x40000000000 ≤ a) && decide (a + n ≤ 0x70000000000)
  let clear := fun (v : Nat) =>
    let lo := 0x40000000000 + v * 0x10000000000 + 0x40000000
    decide (a + n ≤ lo) || decide (lo + 0x1F0000 ≤ a)
  a % 8 == 0 && n % 8 == 0 && decide (8 ≤ n) && decide (n ≤ 128) && inViews && clear 0 && clear 1 && clear 2

/-- Check 5 on the payload. -/
def paramOk (s : State) (m : Mbox) : Bool :=
  let p := rqP m
  match mbOp m with
  | 0x10 => createOk m
  | 0x11 | 0x12 | 0x14 | 0x21 => decide (p 0 < 1024)
  | 0x13 => decide (p 0 < 1024) && attrOk s m
  | 0x20 => decide (p 0 < 1024) && decide (p 2 < 65536)
  | 0x30 => decide (p 0 < 64) && bits 5 4 (p 0) != 3 && bits 3 2 (p 0) != 3 && bits 1 0 (p 0) != 3 && decide (p 1 < 32)
  | 0x31 | 0x33 | 0x34 => folioMapped s (p 0)
  | 0x32 => folioMapped s (p 0) && decide (p 1 < 2)
  | 0x35 | 0x36 => folioMapped s (p 0) && p 1 % 64 == 0 && p 4 % 64 == 0 && rqQ m 2 % 64 == 0 &&
      decide (p 1 + p 4 ≤ folioSize (getFolio s (p 0)))
  | 0x40 => decide (p 0 < 32) && decide (p 1 ≤ 0x7FF000) && decide (p 2 ≤ s.tier.depGib * 16384)
  | 0x41 => bits 31 21 (p 0) == 0 && bits 7 1 (p 0) == 0 && decide (bits 15 8 (p 0) ≤ 128) && decide (1 ≤ bits 20 16 (p 0)) &&
      decide (bits 20 16 (p 0) ≤ 16)
  | 0x42 => decide (p 0 < 3) && decide (50 ≤ p 1) && decide (p 1 ≤ 20000) && decide (rqQ m 4 < 2 ^ 48) &&
      (p 0 == 2 || (rqQ m 2 == 0 && rqQ m 4 == 0))
  | 0x43 => decide (10 ≤ p 0) && decide (p 0 ≤ 3600)
  | 0x44 => decide (600 ≤ p 0) && decide (p 0 ≤ 1400)
  | 0x45 => memRangeOk m
  | 0x46 => memRangeOk m && p 3 == 0
  | _ => true

/-- Check 6: a queue or folio of another function, or another tenant (rule R260). -/
def ownerOk (s : State) (f : Nat) (m : Mbox) : Bool :=
  let p := rqP m
  let op := mbOp m
  if op = 0x20 ∨ op = 0x21 then true
  else if opNamesQueue op then p 0 / 32 == f
  else if op = 0x30 then f == 0 || p 1 == 0 || p 1 == f
  else if opNamesFolio op then (getFolio s (p 0)).tenant.toNat == f || (f == 0 && (op == 0x31 || op == 0x34))
  else true

/-- A queue holds a reservation that has not been released (rules R240, R281). -/
def resvHeld (x : Queue) : Bool := x.resvNext.isSome || x.resv.any fun r => !r.releasing

/-- Check 7 (Tables 11.11, 9.4; rules R229, R235, R352). -/
def stateOk (s : State) (f : Nat) (m : Mbox) : Bool :=
  let op := mbOp m
  let p := rqP m
  let x := getQ s (p 0)
  let live := x.state == 1 || x.state == 2 || x.state == 3
  let asleep := s.pwr.state == .drowse || s.pwr.state == .entering || s.pwr.state == .waking
  if opAwake op && asleep then false
  else
    match op with
    | 0x10 => (getQ s (createQid f m)).state == 0
    | 0x11 => live
    | 0x12 => x.state == 2 || x.state == 3
    | 0x13 => live
    | 0x20 => live && x.cls == 0 && !resvHeld x
    | 0x21 => live && resvHeld x
    | 0x32 => (getFolio s (p 0)).state != 2
    | 0x42 => s.tick.source != 2 || s.fab.manager
    | _ => true

/-- The first check of rule R451 that a request fails; 0 when it passes. -/
def checkStatus (s : State) (f : Nat) (m : Mbox) : Nat :=
  let h := headStatus m f
  if h ≠ 0 then h
  else if !paramOk s m then stBadParam
  else if !ownerOk s f m then stDenied
  else if !stateOk s f m then stInvalidState
  else 0

/-- The halt of a rejected QUEUE_SET_ATTR, C0_RESERVE or C0_RELEASE (rule R280, COMMAND_FAILED). -/
def commandFailed (s : State) (m : Mbox) (st : Nat) : State :=
  let op := mbOp m
  if st = stInvalidState ∧ (op = 0x13 ∨ op = 0x20 ∨ op = 0x21) ∧ (getQ s (rqP m 0)).haltOnError then haltQueue s (rqP m 0) 2
  else s

/-- A folio command reads the folio's entry, except FOLIO_FREE, which rewrites it (Table 15.2). -/
def entryReadBad (s : State) (m : Mbox) : Bool := opNamesFolio (mbOp m) && mbOp m != 0x31 && entryBad s (rqP m 0)

/-- The Desk takes up mailbox k of function f as the command op: its checks in order, then its effect. -/
def takeUpCmd (f k op : Nat) (effect : Mbox → State → State) (s : State) : State :=
  let m := getMb s f k
  if !mbReady s f k op then s
  else if bit f s.sec.scrub.toNat then
    waitCmd (setMb s f k { m with taken := true }) f k (.scrub f stInvalidState)
  else
    let st := checkStatus s f m
    if st ≠ 0 then respond (commandFailed s m st) f k st []
    else
      let s := setMb s f k { m with taken := true }
      if entryReadBad s m then respond (readErrors s (entryAddr (rqP m 0)) 16 .desk none).2 f k stUncorrectable []
      else
        let s := if opNamesQueue op && op != 0x14 then closeKept s (rqP m 0) else s
        effect m s

/-! ### Information -/

/-- The unfolded logical arrays: 32 for each Wing that is not retired (rule R110). -/
def larrays (s : State) : Nat := 32 * ((List.range 32).filter fun w => !(getWing s w).retired).length

def getVersionCmd (f k : Nat) (_ : Mbox) (s : State) : State :=
  respond s f k stOk [fld 16 s.desk.fwMinor.toNat + s.desk.fwMajor.toNat, s.desk.fwBuild.toNat]

def getInfoCmd (f k : Nat) (_ : Mbox) (s : State) : State :=
  respond s f k stOk [larrays s, s.tier.depGib, f,
    sumNat ((List.range 32).map fun q => if (getQ s (32 * f + q)).state = 0 then 2 ^ q else 0)]

/-! ### Queues -/

/-- An exact figure as a whole number; where it is not whole the manual states none (notes/assumptions/9). -/
def wholeNum (q : Rat) : Nat := if q.den = 1 then q.num.toNat else Config.whole q

/-- Sub-tick producer reads per second that the ACTIVE queues ask for (rule R276). -/
def pollDemand (s : State) : Rat :=
  s.desk.queues.foldl (fun t x => if x.2.state = 1 then t + 1000000 / (x.2.pollUs : Rat) else t) 0

/-- The effective poll interval of a queue in ns; 0 when it is not ACTIVE (rule R276, Table 11.27). -/
def pollEff (s : State) (q : Nat) : Nat :=
  let x := getQ s q
  if x.state ≠ 1 then 0
  else
    let d := pollDemand s
    wholeNum (if 25000000 < d then 1000 * x.pollUs * d / 25000000 else 1000 * x.pollUs)

/-- The mirror registers of a queue (Table 11.14). -/
def mirrorWords (s : State) (q : Nat) : List Nat :=
  let x := getQ s q
  [queStateWord x x.resv.isSome, x.producer.toNat, x.consumed.toNat, x.completed.toNat, x.events.toNat, x.lostEvents.toNat,
   pollEff s q]

def queueCreateCmd (f k : Nat) (m : Mbox) (s : State) : State :=
  hostRead (waitCmd s f k .hostRead) f (BitVec.ofNat 64 (rqQ m 4)) 8 (.createProducer f k)

def queueDestroyCmd (f k : Nat) (m : Mbox) (s : State) : State :=
  let q := rqP m 0
  settleDestroy (waitCmd (destroyQueue s q) f k (.destroy q)) q

def queueResumeCmd (f k : Nat) (m : Mbox) (s : State) : State :=
  let q := rqP m 0
  let x := getQ s q
  if x.state = 2 then respond (setQ s q { x with state := 1, cause := 0 }) f k stOk [0]
  else spillNext (waitCmd s f k .hostRead) f k q 0

/-- The cached copies of one user table go, on every unit (rule R176). -/
def dropTable (s : State) (f fid off : Nat) : State :=
  let same := fun (t : TableEnt) => t.tenant == f && t.folio.toNat == fid && t.offset.toNat == off
  let g := s.units.glo.map fun x => (x.1, { x.2 with cache := x.2.cache.filter fun t => !same t })
  s.setUnits { s.units with glo := g.filter fun x => x.2 != Glo.reset }

/-- A queue with one attribute set (Table 11.6). -/
def withAttr (x : Queue) (code v0 v1 v2 : Nat) : Queue :=
  let a := x.attrs
  match code with
  | 0x01 => { x with attrs := { a with compat := v0 == 1 } }
  | 0x02 => { x with attrs := { a with normEps := BitVec.ofNat 32 v0 } }
  | 0x07 => { x with sigNode := BitVec.ofNat 16 v0, sigFolio := BitVec.ofNat 20 v1, sigOffset := BitVec.ofNat 22 v2 }
  | 0x08 => { x with pollUs := v0 }
  | 0x09 => { x with qtimeoutUs := v0 }
  | 0x0A => { x with haltOnError := v0 == 1 }
  | 0x0B => { x with eventMode := BitVec.ofNat 2 v0 }
  | c => { x with attrs := { a with tables := a.tables.set (c - 3) (BitVec.ofNat 20 v0, BitVec.ofNat 19 v1) } }

/-- Tiles of a queue whose input-wait timers are past its QTIMEOUT end at once (Table 11.6). -/
def endTimers (s : State) (q : Nat) : State :=
  forEach s.run.tiles s fun s x => if x.id.q = q && timedOut s x then failTile s x.id 0x0A else s

def queueSetAttrCmd (f k : Nat) (m : Mbox) (s : State) : State :=
  let q := rqP m 0
  let code := rqP m 1
  let s := if 3 ≤ code ∧ code ≤ 6 then dropTable s (q / 32) (rqP m 2) (rqP m 3) else s
  let s := modQ s q fun x => withAttr x code (rqP m 2) (rqP m 3) (rqP m 4)
  respond (if code = 9 then endTimers s q else s) f k stOk []

def queueQueryCmd (f k : Nat) (m : Mbox) (s : State) : State := respond s f k stOk (mirrorWords s (rqP m 0))

/-! ### Reservations (rule R240) -/

/-- Reservations in force and accepted ones. -/
def allResv (s : State) : List Resv := s.desk.queues.flatMap fun x => x.2.resv.toList ++ x.2.resvNext.toList

/-- Whether a further reservation keeps every Wing at 102 or less and the device at 64 or less. -/
def resvFits (s : State) (r : Resv) : Bool :=
  let all := r :: allResv s
  let sumOn := fun (w : Nat) => sumNat (all.map fun v => if (maskWings s v.mask).contains w then v.ra else 0)
  (List.range 32).all (fun w => decide (sumOn w ≤ 102)) && decide (sumNat (all.map fun v => v.rf) ≤ 64)

def c0ReserveCmd (f k : Nat) (m : Mbox) (s : State) : State :=
  let r : Resv := { mask := BitVec.ofNat 32 (rqP m 1), ra := bits 7 0 (rqP m 2), rf := bits 15 8 (rqP m 2), releasing := false }
  if resvFits s r then respond (modQ s (rqP m 0) fun x => { x with resvNext := some r }) f k stOk []
  else respond s f k stOverLimit []

def c0ReleaseCmd (f k : Nat) (m : Mbox) (s : State) : State :=
  respond (modQ s (rqP m 0) fun x =>
    if x.resvNext.isSome then { x with resvNext := none }
    else { x with resv := x.resv.map fun r => { r with releasing := true } }) f k stOk []

/-! ### Folios -/

/-- Fills a range of a tier with zeros: every word of it is good again. -/
def zeroFill (s : State) (lo hi : Nat) : State :=
  let keep := fun (x : Nat) => decide (x < lo) || decide (hi ≤ x)
  (clearMem s lo hi).setEcc { ue := s.ecc.ue.filter keep, ce := s.ecc.ce.filter keep }

/-- Firmware's choice of a free folio ID: a free value where it names one, else the first (notes/assumptions/9). -/
def pickFolio (s : State) : Option Nat × State :=
  let (v, s) := freePick s
  let unused := fun (i : Nat) => !(s.tier.folios.any fun x => x.1 == i)
  let i := 1 + v % 1048575
  (if unused i then some i else firstPos unused 1048575 1, s)

/-- Places a new folio in a tier. -/
def placeFolio (s : State) (f k tenant size hint : Nat) (depos : Bool) : State :=
  let (fid, s) := pickFolio s
  let (u, s) := pickExtent s depos (classUnits size)
  match fid, u with
  | some fid, some u =>
    let x : Folio := { Folio.reset with valid := true, size := BitVec.ofNat 2 size, hint := BitVec.ofNat 2 hint,
                                        tenant := BitVec.ofNat 5 tenant, tier := depos, base := BitVec.ofNat 28 u }
    respond (zeroFill (setFolio s fid x) (folioBase x) (folioBase x + folioSize x)) f k stOk [fid]
  | _, _ => respond s f k stNoSpace []

def folioAllocCmd (f k : Nat) (m : Mbox) (s : State) : State :=
  let size := bits 1 0 (rqP m 0)
  let n := classUnits size
  let tenant := if f = 0 then rqP m 1 else f
  let tiers := if bits 5 4 (rqP m 0) = 0 then [false] else if bits 5 4 (rqP m 0) = 1 then [true] else [false, true]
  let space := tiers.filter fun t => hasExtent s t (extents s) n
  match space.find? fun t => withinLimit s tenant t n with
  | some t => placeFolio s f k tenant size (bits 3 2 (rqP m 0)) t
  | none => respond s f k (if space.isEmpty then stNoSpace else stOverLimit) []

/-- FOLIO_FREE: its entry is rewritten with VALID = 0; it completes when the earlier tiles have finished (rule R221). -/
def folioFreeCmd (f k : Nat) (m : Mbox) (s : State) : State :=
  let fid := rqP m 0
  let s := abandonMove s fid false
  let s := modFolio s fid fun x => { x with valid := false }
  let s := s.setEcc { ue := s.ecc.ue.filter fun x => !meets (entryAddr fid) 16 x,
                      ce := s.ecc.ce.filter fun x => !meets (entryAddr fid) 16 x }
  settleFrees (waitCmd s f k (.folioFree fid))

/-- The folio is pinned to a tier. -/
def pinned (s : State) (fid : Nat) (depos : Bool) : State :=
  modFolio s fid fun x => { x with pinned := true, pinTier := depos }

/-- A pin. Without a free aligned extent in the tier it answers NO_SPACE (DESIGN CHOICE, notes/assumptions/115). -/
def folioPinCmd (f k : Nat) (m : Mbox) (s : State) : State :=
  let fid := rqP m 0
  let depos := rqP m 1 == 1
  let x := getFolio s fid
  match moveOf s fid with
  | some v =>
    if v.toTier = depos then waitCmd s f k (.folioPin fid) else respond (pinned (abandonMove s fid false) fid depos) f k stOk []
  | none =>
    if x.tier = depos then respond (pinned s fid depos) f k stOk []
    else if !withinLimit s x.tenant.toNat depos (folioUnits x) then respond s f k stOverLimit []
    else
      let (ok, t) := startMove s fid depos true
      if ok then waitCmd (wakeIdle t true) f k (.folioPin fid) else respond s f k stNoSpace []

def folioUnpinCmd (f k : Nat) (m : Mbox) (s : State) : State :=
  respond (modFolio s (rqP m 0) fun x => { x with pinned := false }) f k stOk []

def folioQueryCmd (f k : Nat) (m : Mbox) (s : State) : State := respond s f k stOk (entryWords (getFolio s (rqP m 0)))

def folioWriteCmd (f k : Nat) (_ : Mbox) (s : State) : State := folioWriteNext (waitCmd s f k .hostRead) f k 0
def folioReadCmd (f k : Nat) (ecc : List EccHit) (_ : Mbox) (s : State) : State :=
  folioReadNext (waitCmd (addHits s ecc) f k .hostRead) f k 0

/-! ### Limits (rules R17, R201, R222, R236, R358) -/

def setTierLimitsCmd (f k : Nat) (m : Mbox) (s : State) : State :=
  let c := s.tier.cur
  let x : TierLim := { nearTier := some (rqP m 1), depos := some (rqP m 2) }
  respond (s.setTier { s.tier with cur := { c with pendLimits := c.pendLimits ++ [(rqP m 0, x)] } }) f k stOk []

def setCuratorCmd (f k : Nat) (m : Mbox) (s : State) : State :=
  let v := rqP m 0
  let c := { s.tier.cur with pendCur := some (bit 0 v, BitVec.ofNat 8 (bits 15 8 v), BitVec.ofNat 5 (bits 20 16 v)) }
  respond (s.setTier { s.tier with cur := c }) f k stOk []

/-- The manager tells every node that it has found the new EPOCH and N0 (rules R235, R303). -/
def sendTime (s : State) (t : TickSet) : State :=
  let found := s.fab.survey.found
  let ids := surveyIds s found
  forEach (found.drop 1) s fun s f => sendVia s f.path (idOf ids f.hello.serial) (.setTime t.epoch t.n0 t.period.toNat)

def setTickCmd (f k : Nat) (m : Mbox) (s : State) : State :=
  let t : TickSet := { source := BitVec.ofNat 2 (rqP m 0), period := BitVec.ofNat 15 (rqP m 1), epoch := BitVec.ofNat 64 (rqQ m 2),
                       n0 := BitVec.ofNat 48 (rqQ m 4) }
  let s := s.setTick { s.tick with pend := some t }
  let s := if t.source = 2 ∧ s.fab.manager then sendTime s t else s
  respond s f k stOk []

def setInventoryCmd (f k : Nat) (m : Mbox) (s : State) : State :=
  respond (s.setInv { s.inv with pendPeriod := some (rqP m 0) }) f k stOk []

def setPowerCapCmd (f k : Nat) (m : Mbox) (s : State) : State :=
  respond (s.setPwr { s.pwr with capReq := BitVec.ofNat 11 (rqP m 0) }) f k stOk []

/-! ### SRAM (rules R190, R195, R200, R268) -/

/-- The view and the view offset of a device address. -/
def viewOf (a : Nat) : Nat := a / 0x10000000000 - 4
def viewOff (a : Nat) : Nat := a % 0x10000000000

/-- Bytes of an access from view offset off that lie in its first view; the others stand from offset 0 of the next view. -/
def viewCut (off n : Nat) : Nat := min n (0x10000000000 - off)

/-- A request that waits for the fill of a Wing whose memory it names (rule R209): the Desk takes it up afterwards. -/
def memWaits (s : State) (f k : Nat) : Bool :=
  let m := getMb s f k
  let n := min (rqP m 2) 4096
  let c := viewCut (viewOff (rqQ m 0)) n
  checkStatus s f m == 0 && (viewWaits s (viewOff (rqQ m 0)) c || viewWaits s 0 (n - c))

def memReadCmd (f k : Nat) (ecc : List EccHit) (m : Mbox) (s : State) : State :=
  let a := viewOff (rqQ m 0)
  let n := rqP m 2
  let c := viewCut a n
  let s := addHits s ecc
  let live := (wordsTouched a c ++ wordsTouched 0 (n - c)).filter sramMapped
  let (bad, t) := live.foldl (fun st w =>
    let r := readErrors st.2 (sramAddr w) 8 .desk none
    (st.1 || r.1, r.2)) (false, s)
  if bad then respond t f k stUncorrectable []
  else respond t f k stOk ((wordsOf (sramBytes s sramMapped a c ++ sramBytes s sramMapped 0 (n - c))).map BitVec.toNat)

def memWriteCmd (f k : Nat) (portA : List (Nat × W64)) (m : Mbox) (s : State) : State :=
  let n := rqP m 2
  let a := viewOff (rqQ m 0)
  let v := viewOf (rqQ m 0)
  let c := viewCut a n
  let data := (List.range (n / 4)).flatMap fun i => bytesOf 4 (rqP m (4 + i))
  let (st, s) := sramWrite s .desk v portA sramMapped a (data.take c)
  let (st2, s) := sramWrite s .desk (v + 1) portA sramMapped 0 (data.drop c)
  let st := max st st2
  respond s f k (if st = 2 then stUncorrectable else if st = 1 then stSuperseded else stOk) []

/-! ### The commands -/

def execGetVersion (f : Fin 32) (k : Fin 8) (s : State) : Host.Outcome State Fault Refusal :=
  .next (finish s (takeUpCmd f k 0x01 (getVersionCmd f k) s))
def execGetInfo (f : Fin 32) (k : Fin 8) (s : State) : Host.Outcome State Fault Refusal :=
  .next (finish s (takeUpCmd f k 0x02 (getInfoCmd f k) s))
def execQueueCreate (f : Fin 32) (k : Fin 8) (s : State) : Host.Outcome State Fault Refusal :=
  .next (finish s (takeUpCmd f k 0x10 (queueCreateCmd f k) s))
def execQueueDestroy (f : Fin 32) (k : Fin 8) (s : State) : Host.Outcome State Fault Refusal :=
  .next (finish s (takeUpCmd f k 0x11 (queueDestroyCmd f k) s))
def execQueueResume (f : Fin 32) (k : Fin 8) (s : State) : Host.Outcome State Fault Refusal :=
  .next (finish s (takeUpCmd f k 0x12 (queueResumeCmd f k) s))
def execQueueSetAttr (f : Fin 32) (k : Fin 8) (s : State) : Host.Outcome State Fault Refusal :=
  .next (finish s (settle (takeUpCmd f k 0x13 (queueSetAttrCmd f k) s)))
def execQueueQuery (f : Fin 32) (k : Fin 8) (s : State) : Host.Outcome State Fault Refusal :=
  .next (finish s (takeUpCmd f k 0x14 (queueQueryCmd f k) s))
def execC0Reserve (f : Fin 32) (k : Fin 8) (s : State) : Host.Outcome State Fault Refusal :=
  .next (finish s (takeUpCmd f k 0x20 (c0ReserveCmd f k) s))
def execC0Release (f : Fin 32) (k : Fin 8) (s : State) : Host.Outcome State Fault Refusal :=
  .next (finish s (takeUpCmd f k 0x21 (c0ReleaseCmd f k) s))
def execFolioAlloc (f : Fin 32) (k : Fin 8) (s : State) : Host.Outcome State Fault Refusal :=
  .next (finish s (takeUpCmd f k 0x30 (folioAllocCmd f k) s))
def execFolioFree (f : Fin 32) (k : Fin 8) (s : State) : Host.Outcome State Fault Refusal :=
  .next (finish s (takeUpCmd f k 0x31 (folioFreeCmd f k) s))
def execFolioPin (f : Fin 32) (k : Fin 8) (s : State) : Host.Outcome State Fault Refusal :=
  .next (finish s (takeUpCmd f k 0x32 (folioPinCmd f k) s))
def execFolioUnpin (f : Fin 32) (k : Fin 8) (s : State) : Host.Outcome State Fault Refusal :=
  .next (finish s (takeUpCmd f k 0x33 (folioUnpinCmd f k) s))
def execFolioQuery (f : Fin 32) (k : Fin 8) (s : State) : Host.Outcome State Fault Refusal :=
  .next (finish s (takeUpCmd f k 0x34 (folioQueryCmd f k) s))
def execFolioWrite (f : Fin 32) (k : Fin 8) (s : State) : Host.Outcome State Fault Refusal :=
  .next (finish s (takeUpCmd f k 0x35 (folioWriteCmd f k) s))
def execFolioRead (f : Fin 32) (k : Fin 8) (ecc : List EccHit) (s : State) : Host.Outcome State Fault Refusal :=
  .next (finish s (takeUpCmd f k 0x36 (folioReadCmd f k ecc) s))
def execSetTierLimits (f : Fin 32) (k : Fin 8) (s : State) : Host.Outcome State Fault Refusal :=
  .next (finish s (takeUpCmd f k 0x40 (setTierLimitsCmd f k) s))
def execSetCurator (f : Fin 32) (k : Fin 8) (s : State) : Host.Outcome State Fault Refusal :=
  .next (finish s (takeUpCmd f k 0x41 (setCuratorCmd f k) s))
def execSetTick (f : Fin 32) (k : Fin 8) (s : State) : Host.Outcome State Fault Refusal :=
  .next (finish s (takeUpCmd f k 0x42 (setTickCmd f k) s))
def execSetInventory (f : Fin 32) (k : Fin 8) (s : State) : Host.Outcome State Fault Refusal :=
  .next (finish s (takeUpCmd f k 0x43 (setInventoryCmd f k) s))
def execSetPowerCap (f : Fin 32) (k : Fin 8) (s : State) : Host.Outcome State Fault Refusal :=
  .next (finish s (takeUpCmd f k 0x44 (setPowerCapCmd f k) s))
def execMemRead (f : Fin 32) (k : Fin 8) (ecc : List EccHit) (s : State) : Host.Outcome State Fault Refusal :=
  .next (finish s (if memWaits s f k then s else takeUpCmd f k 0x45 (memReadCmd f k ecc) s))
def execMemWrite (f : Fin 32) (k : Fin 8) (portA : List (Nat × W64)) (s : State) : Host.Outcome State Fault Refusal :=
  .next (finish s (if memWaits s f k then s else takeUpCmd f k 0x46 (memWriteCmd f k portA) s))

end Sys2Proof.Machine
end

