-- ==== Sys2Proof/Machine/Inventory.lean ====
section
/-! DEFINITION. Folio moves (rules R227, R228, R230), the Inventory and spare rows (rules R201 to R208), the start-up and Inventory
tests of arrays (rules R103, R109), patrol scrub (rule R369) and the logger (rule R373). The commands MOVE_CHUNK_COPIED,
MOVE_SWITCH, INVENTORY_REGION_TEST, ARRAY_INVENTORY_TEST, REPAIR_LOG_COPY, PATROL_SCRUB and LOG_RECORD_WRITE. -/

namespace Sys2Proof.Machine

/-! ### Moves -/

/-- The pin commands that wait for a folio to settle. -/
def pinWaits (s : State) (fid : Nat) : List Cmd := s.desk.cmds.filter fun c => c.why == .folioPin fid

/-- MOVE_CHUNK_COPIED: the next 4 KiB of a folio is copied to its destination; an uncorrectable word at the source abandons the
move, and a pin that waits for it ends with UNCORRECTABLE (rule R228; the status is a DESIGN CHOICE). -/
def moveChunkCopied (fid : Nat) (hits : List EccHit) (s : State) : State :=
  match moveOf s fid with
  | none => s
  | some m =>
    let x := getFolio s fid
    if folioSize x ≤ 4096 * m.next || !memUp s then s
    else
      let src := folioBase x + 4096 * m.next
      let (bad, s) := readErrors (addHits s hits) src 4096 .engine none
      if bad then
        let waits := pinWaits s fid
        forEach waits (abandonMove s fid true) fun s c => respond s c.f c.k stUncorrectable []
      else
        let s := (storeBytes s (65536 * x.dest.toNat + 4096 * m.next) (readMem s src 4096)).2
        let c := s.tier.cur
        s.setTier { s.tier with cur := { c with moves := c.moves.map fun y =>
          if y.folio = fid then { y with next := y.next + 1 } else y } }

def execMoveChunkCopied (folio : BitVec 20) (ecc : List EccHit) (s : State) : Host.Outcome State Fault Refusal :=
  .next (finish s (moveChunkCopied folio.toNat ecc s))

/-- MOVE_SWITCH: after the last chunk the folio stands at its destination (rule R227 step 4). -/
def moveSwitch (fid : Nat) (s : State) : State :=
  match moveOf s fid with
  | none => s
  | some m =>
    let x := getFolio s fid
    if 4096 * m.next < folioSize x then s
    else
      let waits := pinWaits s fid
      let s := setFolio s fid { x with base := x.dest, dest := 0, tier := m.toTier, state := 0 }
      let s := endMove (dropCaches s fid) fid 0
      let s := if m.pin || !waits.isEmpty then pinned s fid m.toTier else s
      forEach waits s fun s c => respond s c.f c.k stOk []

def execMoveSwitch (folio : BitVec 20) (s : State) : Host.Outcome State Fault Refusal := .next (finish s (moveSwitch folio.toNat s))

/-! ### Repair records (Table 8.3, rules R205, R206) -/

/-- A row of a sub-bank, as bits 39:9 of a repair record without SPARE: bank k of Wing w as rule R211 numbers it (37: control
memory), sub-bank and row. -/
def repairRow (w k sub row : Nat) : Nat :=
  let kind := if k = 37 then 2 else if k < 33 then 0 else 1
  let bank := if k = 37 then 0 else if k < 33 then k else k - 33
  fld 35 (if k = 37 then 0 else w) + fld 33 kind + fld 27 bank + fld 24 sub + fld 9 row

def repairRec (row spare : Nat) : W64 :=
  let lo := row + fld 21 spare
  let sum := sumNat ((bytesOf 5 lo).map BitVec.toNat) % 256
  BitVec.ofNat 64 (lo + fld 40 (255 - sum))

/-- The bank that a record names: Wing and k of rule R211, 37 for control memory. -/
def repairBank (r : Nat) : Nat × Nat :=
  if bits 34 33 r = 0 then (bits 39 35 r, bits 32 27 r) else if bits 34 33 r = 1 then (bits 39 35 r, 33 + bits 32 27 r) else (0, 37)

/-- The Wing whose application takes up a record, whatever else it names; none for control memory's, which takes up those of the
reserved KIND too. -/
def repairWing (r : Nat) : Option Nat := if bits 34 33 r ≤ 1 then some (bits 39 35 r) else none

/-- Two records that name one spare of one sub-bank. -/
def sameSpare (a b : Nat) : Bool := bits 39 21 a == bits 39 21 b

/-- Whether a record is in range and its CHECK is right. -/
def repairOk (r : Nat) : Bool :=
  let kind := bits 34 33 r
  let bank := bits 32 27 r
  let sub := bits 26 24 r
  let row := bits 20 9 r
  let place :=
    if kind = 0 then decide (bank ≤ 32) && decide (sub ≤ 3) && decide (row ≤ 63)
    else if kind = 1 then decide (bank ≤ 3) && decide (row ≤ 255)
    else kind == 2 && bank == 0 && bits 39 35 r == 0 && decide (row ≤ 255)
  bits 63 48 r == 0 && bits 8 0 r == 0 && place &&
    bits 47 40 r == 255 - sumNat ((bytesOf 5 r).map BitVec.toNat) % 256

/-- Spare rows in use in a bank. -/
def sparesOf (rs : List W64) (w k : Nat) : Nat := (rs.filter fun x => repairBank x.toNat == (w, k)).length

/-- A spare row comes into use; SPARES_USED and APPLIED show the rows in use (Tables 8.5, 8.12). What the row's other lines hold, and
their damage, stays (DESIGN CHOICE, notes/assumptions/113). -/
def useSpare (s : State) (r : W64) : State :=
  let (w, k) := repairBank r.toNat
  let rs := s.inv.repairs ++ [r]
  let s := s.setInv { s.inv with repairs := rs, applied := BitVec.ofNat 16 rs.length }
  if k < 37 then modBank s w k fun b => { b with sparesUsed := BitVec.ofNat 7 (sparesOf rs w k) } else s

/-- Applies one record, or ignores and counts it (rule R206). -/
def applyRepair (s : State) (r : W64) : State :=
  if repairOk r.toNat && !(s.inv.repairs.any fun x => sameSpare x.toNat r.toNat) then useSpare s r
  else s.setInv { s.inv with invalid := satAdd s.inv.invalid 1 }

/-- The 8-byte records of a region that are not empty: e is the value of an erased record. -/
def recordsIn (z : Byte) (e : Nat) (m : List Host.Cell) (base n : Nat) : List W64 :=
  ((List.range n).map fun i => BitVec.ofNat 64 (natOf (memBytes z m (base + 8 * i) 8))).filter fun r => r.toNat != e

/-- The records of the Vault; an uncorrectable word gives none. -/
def vaultRepairs (s : State) : List W64 :=
  let m := s.vault.filter fun c => s.ecc.ue.all fun x => !meets x 8 (vaultBase + c.1 / 8 * 8)
  recordsIn 0 0 m 0x4000 1024
def flashRepairs (s : State) : List W64 := recordsIn 0xFF (2 ^ 64 - 1) s.flash 0xA000 1024

/-- The records of the three sources, in order (rule R205). -/
def allRepairs (s : State) : List W64 :=
  (match s.rst.opt with
   | some o => o.repair
   | none => []) ++ flashRepairs s ++ vaultRepairs s

/-- Applies the records of the Wings, or of control memory, that a test accepts, once the reset has cleared their repairs (rules
R205, R206). fresh: an application begins, whose ignored records INVALID counts; otherwise it goes on. -/
def applyRepairs (s : State) (fresh : Bool) (p : Option Nat → Bool) : State :=
  let kept := s.inv.repairs.filter fun r => !p (repairWing r.toNat)
  let s := s.setInv { s.inv with repairs := kept, applied := BitVec.ofNat 16 kept.length, invalid := if fresh then 0 else s.inv.invalid }
  let bs := s.banks.map fun x => (x.1, if p (some (x.1 / 37)) then { x.2 with sparesUsed := 0 } else x.2)
  let s := s.setBanks (bs.filter fun x => x.2 != Bank.reset)
  ((allRepairs s).filter fun r => p (repairWing r.toNat)).foldl applyRepair s

/-! ### The configuration flash (rules R431, R432) -/

/-- Flash with an area copied. -/
def flashCopy (m : List Host.Cell) (b a n : Nat) : List Host.Cell :=
  let moved := (m.filter fun c => b ≤ c.1 && c.1 < b + n).map fun c => (c.1 - b + a, c.2)
  m.filter (fun c => c.1 < a) ++ moved ++ m.filter (fun c => a + n ≤ c.1)

/-- What a command leaves in the flash. -/
def flashAfter (m : List Host.Cell) : FlashOp → List Host.Cell
  | .erase a n => memClear m a (a + n)
  | .program a bs => memPut 0xFF m a bs
  | .copy b a n _ => flashCopy m b a n

/-- The commands on the link that it takes: one for each sector and page. -/
def flashCmds : FlashOp → List Out
  | .erase a n => (List.range (ceilDiv n 4096)).map fun i => .flash .erase (a + 4096 * i)
  | .program a bs => (List.range (ceilDiv bs.length 256)).map fun i => .flash .program (a + 256 * i)
  | .copy _ a n len =>
    ((List.range (ceilDiv n 4096)).map fun i => .flash .erase (a + 4096 * i)) ++
      (List.range (ceilDiv len 256)).map fun i => .flash .program (a + 256 * i)

/-- What is known of the object in an area. -/
def setArea (s : State) (a : Nat) (x : Option FlashObj) : State :=
  s.setSec { s.sec with areas := (s.sec.areas.filter fun e => e.1 != a) ++ [(a, x)] }

/-- The flash carries out one command; always in single mode. -/
def flashDo (s : State) (o : FlashOp) : State :=
  let s := (s.setFlash (flashAfter s.flash o)).setOut (s.out ++ flashCmds o)
  match o with
  | .erase a _ => setArea s a none
  | .copy b a _ _ => setArea s a ((s.sec.areas.lookup b).getD none)
  | .program _ _ => s

/-- The writes of an update that wait are carried out, before a command that is requested after them. -/
def flashDrain (s : State) : State := forEach s.mgt.flashQ (s.setMgt { s.mgt with flashQ := [] }) flashDo

/-- Whether the flash outputs are enabled (Table 18.1). -/
def flashOpen (s : State) : Bool := s.rst.pinsReleased && s.rst.episode.all (fun e => e.level == 3) && s.pwr.state != .off

/-- The first place of a region that holds an empty record. -/
def freeRecord (z : Byte) (e : Nat) (m : List Host.Cell) (base n : Nat) : Option Nat :=
  ((List.range n).map fun i => base + 8 * i).find? fun a => natOf (memBytes z m a 8) == e

/-- A spare row applied in the field: the Vault has the record at once, when it has a place; flash follows (rules R207, R208). -/
def fieldRepair (s : State) (r : W64) : State :=
  let s := useSpare s r
  let s := match freeRecord 0 0 s.vault 0x4000 1024 with
    | some a => vaultPut s a (bytesOf 8 r.toNat)
    | none => s
  s.setInv { s.inv with unlogged := s.inv.unlogged ++ [r] }

/-- Records without those that repeat an earlier one or one of a list. -/
def distinctRecords : List W64 → List W64 → List W64
  | _, [] => []
  | seen, r :: rs => if seen.contains r then distinctRecords seen rs else r :: distinctRecords (r :: seen) rs

/-- The repair log rewritten without duplicates (rule R208). -/
def rewriteLog (s : State) : State :=
  let kept := distinctRecords (match s.rst.opt with
    | some o => o.repair
    | none => []) (flashRepairs s)
  let bytes := kept.flatMap fun r => bytesOf 8 r.toNat
  flashDo (flashDo s (.erase 0xA000 0x2000)) (.program 0xA000 bytes)

/-- REPAIR_LOG_COPY: the oldest field repair that flash does not hold is copied, ahead of the writes of an update that wait (rules
R207, R208, R431). In an L0, L1 or L2 episode, and until the pins are released after it, the flash outputs are disabled (Table
18.1), and in Off there is no firmware. -/
def repairLogCopy (s : State) : State :=
  match if flashOpen s then s.inv.unlogged else [] with
  | [] => s
  | r :: rest =>
    let s := s.setInv { s.inv with unlogged := rest }
    let free := fun (s : State) => freeRecord 0xFF (2 ^ 64 - 1) s.flash 0xA000 1024
    let s := if (free s).isSome then s else rewriteLog s
    match free s with
    | some a => flashDo s (.program a (bytesOf 8 r.toNat))
    | none =>
      let s := s.setInv { s.inv with notInFlash := s.inv.notInFlash + 1 }
      mgmtEvent s 0x0E s.inv.notInFlash

def execRepairLogCopy (s : State) : Host.Outcome State Fault Refusal := .next (finish s (repairLogCopy s))

/-- The Vault's repair records are read; what the read meets is counted and reported (rules R205, R365, R370). -/
def readRepairs (s : State) : State := (readErrors s (vaultBase + 0x4000) 0x2000 .desk none).2

/-- The address range of a Wing's memories in the plain view. -/
def wingRange (w : Nat) : Nat × Nat := (0x40000000000 + w * 0x2000000, 0x40000000000 + (w + 1) * 0x2000000)

/-- The memories of Wings come into use: their repairs, then the fill (rules R205, R209, R354). Without a Wing there is no
application, and INV_REPAIRS stays (rule R211). -/
def fillWings (s : State) (fresh : Bool) (ws : List Nat) : State :=
  if ws.isEmpty then s
  else
    forEach ws (applyRepairs (readRepairs s) fresh fun u => u.any ws.contains) fun s w => zeroFill s (wingRange w).1 (wingRange w).2

/-- Control memory comes into use: its repairs, then the fill. -/
def fillControl (s : State) : State :=
  zeroFill (applyRepairs (readRepairs s) true fun u => u.isNone) 0x40040000000 0x40040200000

/-! ### Arrays and Wings found failed (rules R103, R105, R109, R204) -/

/-- A physical array found failed while rounds may use it: it stops as for an in-flight fault, without ARR_CHECK_ERRS. found:
FOUND of Table 15.7. -/
def stopArray (s : State) (w a found : Nat) : State :=
  let s := stopFor (modArr s w a fun y => { y with fault := some found }) w a
  let s := dropTiles s (onArray w a)
  let s := forEach s.desk.queues s fun s x => settleFaults s x.1
  remapAndRerun s

/-- A test has found an array failed: one that serves nothing is recorded, one that serves stops its rounds first. -/
def testFailed (s : State) (w a found : Nat) : State :=
  if (getWing s w).retired || (servedBy s w a).isNone then arrayFailed s w a found else stopArray s w a found

/-- A failed Wing-store bank retires its Wing; the array that the record names is a free value (notes/assumptions/9). -/
def storeFailed (s : State) (w : Nat) : State :=
  if (getWing s w).retired then s
  else
    let (v, s) := freePick s
    let s := modWing s w fun x => { x with storeFail := some (v % 33) }
    let s := stopWing s w
    let s := forEach s.desk.queues s fun s x => settleFaults s x.1
    remapAndRerun s

/-! ### INVENTORY_REGION_TEST -/

/-- Regions of an engine. -/
def regionCount (e : Nat) : Nat := if e = 32 then 8192 else 66560

/-- The bank k (37: control memory) and bank offset of an engine's i-th region (rule R201). -/
def regionAt (e i : Nat) : Nat × Nat :=
  if e = 32 then (37, 256 * i)
  else if i < 33 * 1024 then (i / 1024, i % 1024 * 256)
  else (33 + (i - 33 * 1024) / 8192, (i - 33 * 1024) % 8192 * 256)

/-- The plain-view address of an offset in bank k of Wing w. -/
def bankAddr (w k off : Nat) : Nat :=
  if k = 37 then sramAddr (0x40000000 + off)
  else if k < 33 then carrelAddr w k off
  else sramAddr (w * 0x2000000 + 0x1000000 + (k - 33) * 0x200000 + off)

/-- Sub-bank and row of a line of bank k. -/
def lineRow (k off : Nat) : Nat × Nat :=
  if k < 33 then (off / 64 % 4, off / 4096) else (off / 64 % 8, off / 8192)

/-- The engine's next region. SWEEPS counts each time that all 33 engines have finished a coverage since it last counted; what part
of them has done so is dropped with the walk (Table 8.10; DESIGN CHOICE, notes/assumptions/112). -/
def engineNext (s : State) (e i : Nat) : State :=
  let v := s.inv
  if i + 1 < regionCount e then s.setInv { v with cursor := tabSet 0 v.cursor e (i + 1) }
  else
    let swept := if v.swept.contains e then v.swept else e :: v.swept
    let v := { v with cursor := tabSet 0 v.cursor e 0, began := tabSet 0 v.began e s.clk.now.toNat, swept := swept }
    s.setInv (if swept.length = 33 then { v with swept := [], sweeps := satAdd v.sweeps 1 } else v)

/-- A line that fails twice takes a spare row of its sub-bank; without one the row has failed (rule R204). Answers whether a
spare row was applied. -/
def repairLine (w k : Nat) (st : Bool × State) (off : Nat) : Bool × State :=
  let (sub, row) := lineRow k off
  let key := repairRow w k sub row
  let taken := fun (n : Nat) => st.2.inv.repairs.any fun x => sameSpare x.toNat (key + fld 21 n)
  match (List.range 8).find? fun n => !taken n with
  | some n => (st.1, fieldRepair st.2 (repairRec key n))
  | none =>
    if k = 37 then
      let id := 256 * sub + row
      let s := st.2.setInv { st.2.inv with cmRetired := if st.2.inv.cmRetired.contains id then st.2.inv.cmRetired
                                                        else st.2.inv.cmRetired ++ [id] }
      (false, mgmtEvent s 0x0C id)
    else (false, modBank st.2 w k fun b => { b with failed := true })

/-- What a failed bank leads to, once its region is restored. -/
def bankFailed (s : State) (w k : Nat) : State :=
  if k = 37 || !(getBank s w k).failed then s else if k < 33 then testFailed s w k 1 else storeFailed s w

def inventoryRegionTest (e : Nat) (fail1 : Bool) (fail2 : List Nat) (hits : List EccHit) (s : State) : State :=
  if !engineRuns s e then s
  else
    let i := tabGet 0 s.inv.cursor e
    let (k, off) := regionAt e i
    let a := bankAddr e k off
    let src := if k = 37 then logSrc 2 1184 else logSrc 2 (37 * e + k)
    let s := s.setInv { s.inv with late := s.inv.late || engineOld s e }
    let (bad, s) := readErrors (addHits s hits) a 256 .inventory none
    let s :=
      if bad then s
      else
        let saved := readMem s a 256
        let s := s.setInv { s.inv with hold := tabSet [] s.inv.hold e saved }
        if fail1 && !fail2.isEmpty then
          let s := s.setInv { s.inv with fails := satAdd s.inv.fails 1 }
          let (ok, s) := (nub fail2).foldl (fun st n => repairLine e k st (off + 64 * n)) (true, s)
          let s := logPush s src 0x0013 [off, b2n ok]
          let s := (storeBytes s a saved).2
          if ok then s else bankFailed s e k
        else (storeBytes s a saved).2
    engineNext s e i

def execInventoryRegionTest (engine : Fin 33) (fail1 : Bool) (fail2 : List (Fin 4)) (ecc : List EccHit) (s : State) :
    Host.Outcome State Fault Refusal :=
  .next (finish s (settle (inventoryRegionTest engine fail1 (fail2.map fun n => n.val) ecc s)))

/-! ### ARRAY_INVENTORY_TEST (rules R103, R109) -/

/-- The Inventory tests a physical array while it runs no tile and has set none aside. -/
def arrayInventoryTest (w a : Nat) (good : Bool) (s : State) : State :=
  let y := getArr s w a
  if !engineRuns s w || y.tile.isSome || y.aside.isSome || y.fault.isSome || good then s
  else if spareTaken s w a then testFailed s w a 1
  else arrayFailed s w a 1

def execArrayInventoryTest (w : Fin 32) (a : Fin 33) (good : Bool) (s : State) : Host.Outcome State Fault Refusal :=
  .next (finish s (settle (arrayInventoryTest w a good s)))

/-! ### PATROL_SCRUB (rule R369) -/

/-- Base and number of 32-byte words of a tier. -/
def tierWords (s : State) (depos : Bool) : Nat × Nat :=
  if depos then (0x10000000000, s.tier.depGib * 2 ^ 25) else (0, 2 ^ 34)

/-- The next word of a tier's scrub: it takes the words in ascending order (notes/assumptions/102). -/
def scrubNext (s : State) (depos : Bool) : Nat := if depos then s.rel.scrubbed.2 else s.rel.scrubbed.1

/-- One more word of a scrub: its progress, and LATE when 24 hours have passed since it began. -/
def scrubStep (s : State) (depos : Bool) (total : Nat) : State :=
  let r := s.rel
  let now := s.clk.now.toNat
  let n := scrubNext s depos + 1
  let from_ := if depos then r.scrubFrom.2 else r.scrubFrom.1
  let late := r.scrubLate || scrubOld s from_
  let n' := if n = total then 0 else n
  let from' := if n = total then now else from_
  let pct : Byte := BitVec.ofNat 8 (100 * n / total)
  s.setRel (if depos then { r with scrubLate := late, scrubbed := (r.scrubbed.1, n'), scrubFrom := (r.scrubFrom.1, from'), deposPct := pct }
            else { r with scrubLate := late, scrubbed := (n', r.scrubbed.2), scrubFrom := (from', r.scrubFrom.2), stacksPct := pct })

/-- The controller of a tier reads a word of it, the next of its scrub, and writes a correction back, unless another write raced it.
-/
def patrolScrub (depos : Bool) (word : Nat) (raced : Bool) (hits : List EccHit) (s : State) : State :=
  let (base, n) := tierWords s depos
  if word ≠ scrubNext s depos || n ≤ scrubNext s depos || !s.rst.trained || !memUp s then s
  else
    let a := base + 32 * scrubNext s depos
    let s := addHits s hits
    let fix := !(ceIn s a 32).isEmpty && (ueIn s a 32).isEmpty && !raced
    let (_, s) := readErrors s a 32 .scrub none
    let s := if fix then (storeBytes s a (readMem s a 32)).2 else s
    scrubStep s depos n

def execPatrolScrub (depository : Bool) (word : Nat) (raced : Bool) (ecc : List EccHit) (s : State) : Host.Outcome State Fault Refusal :=
  .next (finish s (patrolScrub depository word raced ecc s))

/-! ### LOG_RECORD_WRITE (rule R373) -/

/-- The logger takes the oldest record of one source, while the Stacks serve it (rules R349, R373). -/
def logRecordWrite (src : Nat) (s : State) : State :=
  match tabGet [] s.rel.logQ src with
  | [] => s
  | r :: rest =>
    if s.rst.trained && memUp s then logWrite (s.setRel { s.rel with logQ := tabSet [] s.rel.logQ src rest }) r else s

def execLogRecordWrite (source : Nat) (s : State) : Host.Outcome State Fault Refusal := .next (finish s (logRecordWrite source s))

end Sys2Proof.Machine
end

