-- ==== Sys2Proof/Machine/Tenants.lean ====
section
/-! DEFINITION. Tenants and the PCIe endpoint (rules R261, R367, R392 to R394, R403 to R409). The commands FLR, FLR_TILE_ABANDON,
TENANT_SCRUB_END, VF_DISABLE, HOT_RESET, LINK_DOWN, PERST_N, PERST_N_RELEASE, PCIE_LINK_UP, CONFIGURATION_WRITE, POISONED_TLP and
MSIX_PENDING_SEND. -/

namespace Sys2Proof.Machine

/-! ### The scrub of a function (rule R393) -/

def scrubbing (s : State) (f : Nat) : Bool := bit f s.sec.scrub.toNat

/-- The device queue indices of a function. -/
def queuesOf (f : Nat) : List Nat := (List.range 32).map fun q => 32 * f + q

/-- Reads of host memory that belong to a mailbox command of a function. -/
def cmdRead (f : Nat) (w : RdWhy) : Bool :=
  match w with
  | .createProducer g _ => g == f
  | .createFlush g _ => g == f
  | .spillFlush g _ _ _ => g == f
  | .folioWrite g _ _ => g == f
  | .folioRead g _ _ => g == f
  | _ => false

/-- The mailboxes of a function return to IDLE and the commands in progress in them are abandoned (rules R261, R393 step 5). -/
def abandonMailboxes (s : State) (f : Nat) : State :=
  let s := forEach (List.range 8) s fun s k => modMb s f k fun m => { m with state := 0, taken := false, resp := [] }
  s.setDesk { s.desk with
    cmds := s.desk.cmds.filter fun c => c.f != f,
    reads := s.desk.reads.map fun r => if cmdRead f r.why then { r with why := .dead } else r }

/-- Folios of a function lose VALID at once, with their moves and pins (rule R393 step 3). A pin command of another function does
not exist: only the tenant pins a folio. -/
def unmapFolios (s : State) (f : Nat) : State :=
  forEach (s.tier.folios.filter fun x => x.2.tenant.toNat == f) s fun s x =>
    let s := abandonMove s x.1 false
    let s := modFolio s x.1 fun y => { y with valid := false, pinned := false }
    s.setEcc { ue := s.ecc.ue.filter fun a => !meets (entryAddr x.1) 16 a, ce := s.ecc.ce.filter fun a => !meets (entryAddr x.1) 16 a }

/-- The queues of a function are destroyed; no response is written (rule R393 step 1). -/
def destroyQueues (s : State) (f : Nat) : State :=
  forEach (queuesOf f) s fun s q =>
    let x := getQ s q
    if x.state = 1 ∨ x.state = 2 ∨ x.state = 3 then destroyQueue s q else s

/-- The scrub of function f begins; a second FLR joins it (Table 16.3). -/
def scrubStart (s : State) (f : Nat) : State :=
  if scrubbing s f then s
  else
    let s := abandonMailboxes (unmapFolios (destroyQueues s f) f) f
    s.setSec { s.sec with scrub := s.sec.scrub ||| BitVec.ofNat 32 (2 ^ f), scrubAt := tabSet 0 s.sec.scrubAt f s.clk.now.toNat }

/-- The functions that an FLR of f reaches: all 32 for the physical function (rule R393). -/
def flrSet (f : Nat) : List Nat := if f = 0 then List.range 32 else [f]

/-- FLR: the scrub, and the function's PCIe configuration at its initial values (PRESUMED: PCI Express). -/
def flr (f : Nat) (s : State) : State :=
  forEach (flrSet f) s fun s g => setPcieFn (scrubStart s g) g PcieFn.reset

def execFlr (f : Fin 32) (s : State) : Host.Outcome State Fault Refusal := .next (finish s (settle (flr f s)))

/-- FLR_TILE_ABANDON: 10 ms after an FLR, tiles of the function that are still held are abandoned. -/
def flrTileAbandon (f : Nat) (s : State) : State :=
  if scrubbing s f && decide (10000000 ≤ s.clk.now.toNat - tabGet 0 s.sec.scrubAt f) then
    forEach (queuesOf f) s fun s q => finishDestroy s q
  else s

def execFlrTileAbandon (f : Fin 32) (s : State) : Host.Outcome State Fault Refusal :=
  .next (finish s (settle (flrTileAbandon f s)))

/-- What is left of [lo, hi) without ranges (offset and length) in rising order. -/
def gaps : Nat → Nat → List (Nat × Nat) → List (Nat × Nat)
  | lo, hi, [] => if lo < hi then [(lo, hi)] else []
  | lo, hi, (o, n) :: t => (if lo < min o hi then [(lo, min o hi)] else []) ++ gaps (max lo (o + n)) hi t

/-- The parts of a Carrel bank to be filled: every partition in which a tile of f last used a range, without what tiles of other
functions hold there now. -/
def scrubRanges (f : Nat) (y : Arr) : List (Nat × Nat) :=
  let others := sortBy (fun (a b : Nat × Nat) => decide (a.1 < b.1))
    ((y.bufs.filter fun b => b.t.q / 32 != f).map fun b => (b.off, bufSpan b))
  let touched := fun (r : Nat × Nat) => y.used.any fun u => u.2.2 == f && decide (u.1 < r.1 + r.2) && decide (r.1 < u.1 + u.2.1)
  ([.wt, .act, .aux, .inp].map (partRange y.split.toNat)).flatMap fun r => if touched r then gaps r.1 (r.1 + r.2) others else []

/-- Carrel partitions that tiles of a function last used are zero-filled (rule R393 step 4). -/
def scrubBanks (s : State) (f : Nat) : State :=
  forEach s.arrs.arr s fun s x =>
    let w := x.1 / 33
    let a := x.1 % 33
    let s := forEach (scrubRanges f x.2) s fun s r => zeroFill s (carrelAddr w a r.1) (carrelAddr w a r.2)
    if x.2.used.any (fun u => u.2.2 == f) then modArr s w a fun y => { y with used := y.used.filter fun u => u.2.2 != f } else s

/-- Accumulator slots that a tile of a function last used, and that still drain for one, are zero-filled and free. -/
def scrubSlots (s : State) (f : Nat) : State :=
  s.setArrs { s.arrs with slots := s.arrs.slots.filter fun x => !(x.2.draining && x.2.fn == f) }

/-- Runner cache entries of a function's folios and its user-table cache entries go, and its folios with them. -/
def scrubCaches (s : State) (f : Nat) : State :=
  let mine := (s.tier.folios.filter fun x => x.2.tenant.toNat == f && !x.2.valid).map fun x => x.1
  let rs := s.run.runners.map fun x => (x.1, { x.2 with cache := x.2.cache.filter fun i => !mine.contains i })
  let gs := s.units.glo.map fun x => (x.1, { x.2 with cache := x.2.cache.filter fun t => t.tenant != f })
  let s := s.setRun { s.run with runners := rs.filter fun x => x.2 != Runner.reset }
  let s := s.setUnits { s.units with glo := gs.filter fun x => x.2 != Glo.reset }
  s.setTier { s.tier with folios := s.tier.folios.filter fun x => !mine.contains x.1 }

/-- The commands of a function that wait for its scrub are answered. -/
def scrubAnswers (s : State) (f : Nat) : State :=
  forEach s.desk.cmds s fun s c => match c.why with
    | .scrub g st => if g = f then respond s c.f c.k st [] else s
    | _ => s

/-- TENANT_SCRUB_END: no tile of the function is held any more, and the scrub is done. -/
def tenantScrubEnd (f : Nat) (s : State) : State :=
  if !scrubbing s f || (queuesOf f).any (fun q => (getQ s q).state == 4 && queueHeld s q) then s
  else
    let s := forEach (queuesOf f) s fun s q => finishDestroy s q
    let s := scrubCaches (scrubSlots (scrubBanks s f) f) f
    let s := s.setSec { s.sec with scrub := s.sec.scrub &&& ~~~BitVec.ofNat 32 (2 ^ f), scrubAt := tabSet 0 s.sec.scrubAt f 0 }
    scrubAnswers s f

def execTenantScrubEnd (f : Fin 32) (s : State) : Host.Outcome State Fault Refusal :=
  .next (finish s (settle (tenantScrubEnd f s)))

/-! ### Virtual functions and resets of the endpoint (rules R393, R409) -/

/-- VF_DISABLE: a write of VF Enable and NumVFs; each virtual function removed has an FLR. -/
def vfDisable (n : Nat) (en : Bool) (s : State) : State :=
  if !s.pcie.linkUp then s
  else
    let gone := (List.range 32).filter fun f => f != 0 && fnPresent s f && !(en && decide (f ≤ n))
    let s := forEach gone s fun s f => flr f s
    s.setPcie { s.pcie with vfEnable := en, numVFs := n }

def execVfDisable (numVFs : Fin 32) (enable : Bool) (s : State) : Host.Outcome State Fault Refusal :=
  .next (finish s (settle (vfDisable numVFs enable s)))

/-- The endpoint domain is reset: an FLR of all functions; no episode (rule R409). -/
def endpointReset (s : State) : State :=
  let s := flr 0 s
  let s := dropHeld (s.setDesk { s.desk with reads := [] })
  s.setPcie { s.pcie with linkUp := false, vfEnable := false, numVFs := 0 }

def execHotReset (s : State) : Host.Outcome State Fault Refusal := .next (finish s (settle (endpointReset s)))
def execLinkDown (s : State) : Host.Outcome State Fault Refusal := .next (finish s (settle (endpointReset s)))

def perstLow (s : State) : State :=
  let s := endpointReset s
  s.setPcie { s.pcie with perst := true }

def execPerstN (s : State) : Host.Outcome State Fault Refusal := .next (finish s (settle (perstLow s)))

def perstHigh (s : State) : State := s.setPcie { s.pcie with perst := false }
def execPerstNRelease (s : State) : Host.Outcome State Fault Refusal := .next (finish s (perstHigh s))

/-- PCIE_LINK_UP: training ends; PERST_N is released, the clock is qualified and no episode or Off holds the domain. -/
def pcieLinkUp (rate : PcieRate) (width : PcieWidth) (s : State) : State :=
  let held := match s.rst.episode with
    | some e => e.level != 3
    | none => false
  if s.pcie.perst || !s.rst.qPcie || held || s.pwr.state == .off then s
  else s.setPcie { s.pcie with linkUp := true, rate := rate, width := width }

def execPcieLinkUp (s : State) (rate : PcieRate := .g64) (width : PcieWidth := .x16) : Host.Outcome State Fault Refusal :=
  .next (finish s (pcieLinkUp rate width s))

/-! ### Configuration, errors, MSI-X (rules R367, R406 to R408) -/

def withCfg (x : PcieFn) (c : CfgWrite) : PcieFn :=
  match c with
  | .busMaster b => { x with busMaster := b }
  | .memSpace b => { x with memSpace := b }
  | .d3hot b => { x with d3hot := b }
  | .complTimeout v => { x with complTimeout := v }
  | .msixMask b => { x with masked := b }
  | .msixEntry a d => { x with msixAddr := a, msixData := d }
  | .maxPayload v => { x with maxPayload := v }
  | .maxRead v => { x with maxRead := v }
  | .tenBitTags b => { x with tenBitTags := b }

/-- CONFIGURATION_WRITE: configuration requests are answered once the link is up. -/
def configurationWrite (f : Nat) (c : CfgWrite) (s : State) : State :=
  if s.pcie.linkUp && fnPresent s f then modPcie s f fun x => withCfg x c else s

def execConfigurationWrite (f : Fin 32) (c : CfgWrite) (s : State) : Host.Outcome State Fault Refusal :=
  .next (finish s (configurationWrite f c s))

/-- POISONED_TLP: a poisoned host write is discarded whole and reported. -/
def poisonedTlp (f : Nat) (s : State) : State :=
  if s.pcie.linkUp then emit (s.setPcie { s.pcie with poisoned := s.pcie.poisoned + 1 }) (.aer .poisoned f) else s

def execPoisonedTlp (f : Fin 32) (s : State) : Host.Outcome State Fault Refusal := .next (finish s (poisonedTlp f s))

/-- MSIX_PENDING_SEND: a pending message goes out once the function may initiate requests and the vector is unmasked. -/
def msixPendingSend (f : Nat) (s : State) : State :=
  let x := getPcie s f
  if x.pending && !x.masked && !hostBlocked s f then sendMsix (setPcieFn s f { x with pending := false }) f else s

def execMsixPendingSend (f : Fin 32) (s : State) : Host.Outcome State Fault Refusal := .next (finish s (msixPendingSend f s))

end Sys2Proof.Machine
end

