-- ==== Sys2Proof/Machine/Words.lean ====
section
/-! DEFINITION. Register words of reset, power, reliability, security and management that events also carry (Tables 13.11 to
13.18, 14.8 to 14.14, 15.11 to 15.21, 16.8 to 16.11, 17.7 to 17.10). -/

namespace Sys2Proof.Machine

/-! ### Reset (chapter 13) -/

def sourcesBits (x : Sources) : Nat :=
  fld 31 (b2n x.por) + fld 30 (b2n x.bor) + fld 29 (b2n x.pin) + fld 28 (b2n x.clk) + fld 27 (b2n x.wdog) +
    fld 26 (b2n x.lockup) + fld 25 (b2n x.sw) + fld 24 (b2n x.dbg)

/-- RST_CAUSE (Table 13.11). -/
def causeWord (c : Cause) : Nat :=
  sourcesBits c.sources + fld 22 c.level.toNat + fld 19 c.clkDomain.toNat + fld 18 (b2n c.multiL3) + fld 7 c.wing.toNat +
    c.target.toNat

/-- RST_CLK_STAT (Table 13.15). -/
def clkStatWord (r : Rst) : Nat :=
  fld 31 (b2n r.pcieHeld) + fld 30 (b2n r.serdesHeld) + fld 5 (b2n r.qSerdes) + fld 4 (b2n r.qPcie) + fld 3 (b2n r.qMem) +
    fld 2 (b2n r.qAclk) + fld 1 (b2n r.qSys)

/-- RST_BOOT_STAT (Table 13.16). -/
def bootStatWord (r : Rst) : Nat :=
  fld 31 (b2n r.hostGo) + fld 30 (b2n r.safe) + fld 29 (b2n r.optFail) + fld 28 (b2n r.clkHold) + fld 27 (b2n r.slow) +
    fld 24 r.optSrc.toNat + fld 23 (b2n r.fwFromStacks) + r.step.toNat

/-! ### Power (chapter 14) -/

/-- PWR_STAT.STATE (Table 14.9). In Off the register cannot be read; it shows the code of the entry. -/
def pstateCode : PState → Nat
  | .active => 0
  | .idle => 1
  | .drowse => 2
  | .entering => 3
  | .waking => 4
  | .off => 3

/-- PWR_STAT (Table 14.9). -/
def pwrStatWord (p : Pwr) : Nat :=
  fld 29 (pstateCode p.state) + fld 27 p.result.toNat + fld 26 (b2n p.throttle) + fld 25 (b2n p.pacing) +
    fld 24 (b2n p.capUnmet) + fld 21 p.pace.toNat + fld 11 p.vcoreMv.toNat + p.aclkMhz.toNat

/-! ### Reliability (chapter 15) -/

/-- REL_LIFE (Table 15.15). -/
def lifeWord (r : Rel) : Nat :=
  fld 31 (b2n r.aged) + fld 29 r.kind.toNat + fld 16 r.limiter.toNat + r.days.toNat

/-- Writes to the perturbation registers are accepted, and PERMITTED reads 1: in the security state Open or at level Intrusive, from
the release of the pins on, when the state is known, and not in Drowse or Off nor on the way to or from them, where perturbation is
stopped (rule R381, Tables 15.16, 16.5; notes/assumptions/104). -/
def pertPermitted (s : State) : Bool :=
  s.rst.pinsReleased && (s.pwr.state == .active || s.pwr.state == .idle) && (s.sec.state == 0 || s.sec.level == 2)

/-- REL_PERT_CTL (Table 15.16). -/
def pertCtlWord (s : State) : Nat :=
  let p := s.rel.pert
  fld 6 (b2n (pertPermitted s)) + fld 5 (b2n (p.cred || p.compl || p.tick || p.station)) + fld 4 (b2n p.cred) +
    fld 3 (b2n p.compl) + fld 2 (b2n p.tick) + fld 1 (b2n p.station)

/-- Every perturbation stops at once and the registers return to their reset values (rule R381); a change of REL_PERT_CTL writes a
record (rule R382). -/
def pertStop (s : State) : State :=
  let p := s.rel.pert
  let s := (s.setRel { s.rel with pert := Pert.reset }).setTick { s.tick with jitter := 0 }
  if p.cred || p.compl || p.tick || p.station then logPush s (logSrc 9 0) 0x0030 [pertCtlWord s] else s

end Sys2Proof.Machine
end

