-- ==== Sys2Proof/Machine/Reset.lean ====
section
/-! DEFINITION. Reset episodes (rules R209, R231, R327 to R338, R361, R384, R400, R429): what each reach clears and keeps, the
sources that join and release, the stretch and nRST. The commands SW_RESET_L1, SW_RESET_L2, SW_RESET_L3, POR_ASSERT,
POR_RELEASE, BOR_ASSERT, BOR_RELEASE, NRST_LOW, NRST_HIGH, CLOCK_FAILURE, SYSTEM_REFERENCE_RETURN, WATCHDOG_EXPIRE, LOCKUP,
STRETCH_END and NRST_SAMPLE. -/

namespace Sys2Proof.Machine

/-! ### What L0, L1 and L2 clear and keep (Table 13.1; the Reset columns) -/

/-- Reset, straps and boot. The three-episode count of rule R338 is the sequencer's own and outlives every level. -/
def keepRst (level : Nat) (r : Rst) : Rst :=
  let z := { Rst.reset with bringup := none, pinLow := r.pinLow, clkOnly := r.clkOnly }
  if level = 0 then z
  else
    { z with cause := r.cause, stretchMs := r.stretchMs, ratio := r.ratio, code := r.code, episodes := r.episodes,
             backup := r.backup, arrMapSet := level == 2 && r.arrMapSet,
             fwCopy := if level = 2 then r.fwCopy else none }

/-- Power: the last trip outlives L1 and L2, the cap L2 (rules R358, R361, R364). THERMTRIP_N stays until the episode ends, and the
wait for sensor 68 until it has cooled. safe: the cap in force was that of safe mode, which ends (rule R341). -/
def keepPwr (level : Nat) (safe : Bool) (p : Pwr) : Pwr :=
  let z := { Pwr.reset with therm := p.therm, hot := p.hot }
  if level = 0 then z
  else
    let z := { z with tripped := p.tripped, tripSensor := p.tripSensor, tripTemp := p.tripTemp, tripLog := p.tripLog }
    if level = 1 then z else { z with capReq := p.capReq, capInForce := if safe then p.capReq else p.capInForce }

/-- Security: what the flash holds stays, the Vault copies stay below L0, the key store at L2 (rules R384, R400). -/
def keepSec (level : Nat) (x : Sec) : Sec :=
  let z := { Sec.reset with nonceNo := x.nonceNo, rpb := x.rpb, areas := x.areas }
  if level = 0 then z
  else
    let z := { z with vaultFw := x.vaultFw, vaultOpt := x.vaultOpt }
    if level = 1 then z else { z with keys := x.keys, pufFail := x.pufFail, optSvn := x.optSvn, fwSvn := x.fwSvn }

/-- Reliability: the wear history in the Vault stays below L0, the log, REL_LIFE and firmware's totals at L2 (rules R375, R378,
R383, Table 17.3). -/
def keepRel (level : Nat) (r : Rel) : Rel :=
  if level = 0 then Rel.reset
  else
    let z := { Rel.reset with foxMeans := r.foxMeans, laneDays := r.laneDays, chanDays := r.chanDays, firstReady := r.firstReady,
                              lifeSeen := r.lifeSeen }
    if level = 1 then z
    else
      { z with logHead := r.logHead, logSeq := r.logSeq, aged := r.aged, kind := r.kind, limiter := r.limiter, days := r.days,
               totalCe := r.totalCe, totalUe := r.totalUe }

/-- The Inventory (rules R208, R211, Table 8.10). -/
def keepInv (level : Nat) (inVault : W64 → Bool) (v : Inv) : Inv :=
  if level = 0 then Inv.reset
  else
    let z := { Inv.reset with notInFlash := v.notInFlash, unlogged := v.unlogged.filter inVault }
    if level = 1 then z else { z with sweeps := v.sweeps, applied := v.applied, invalid := v.invalid }

/-- The management bus: address, endpoint ID and chain state stay below L0 (rules R412, R421). -/
def keepMgt (level : Nat) (m : Mgt) : Mgt :=
  if level = 0 then Mgt.reset
  else
    { Mgt.reset with assigned := m.assigned, addr := m.addr, eid := m.eid, enumIn := m.enumIn, enumOut := m.enumOut, dflt := m.dflt }

/-- The tick's source and number stay at L2 (rule R233). -/
def keepTick (level : Nat) (t : Tick) : Tick :=
  if level = 2 then
    { Tick.reset with source := t.source, period := t.period, num := t.num, epoch := t.epoch, n0 := t.n0, last := t.last,
                      made := t.made, subst := t.subst }
  else Tick.reset

/-- The map of a Wing's arrays stays at L2 (Tables 4.7, 4.8). -/
def keepMap (x : Wing) : Wing :=
  { Wing.reset with retired := x.retired, hostsFold := x.hostsFold, foldWing := x.foldWing, spareUsed := x.spareUsed,
                    spareFailed := x.spareFailed, spareFor := x.spareFor, foldedTo := x.foldedTo, failed := x.failed }

def keepBank (b : Bank) : Bank := { Bank.reset with failed := b.failed, sparesUsed := b.sparesUsed }

/-- The tiers at L2: the Shelfmark table with pins, limits and HEAT; COUNT and C0_RECENT are cleared (Table 9.6). A folio whose
FOLIO_FREE the episode has ended, or whose tenant's scrub it supersedes, is free (rules R221, R394). -/
def keepTier (t : Tiers) : Tiers :=
  { t with folios := (t.folios.filter fun x => x.2.valid).map fun x => (x.1, { x.2 with c0Recent := false, count := 0 }),
           cur := { t.cur with moves := [], c0This := [], c0Prev := [] } }

/-- Everything that an L0, L1 or L2 episode clears, from its first moment (Table 13.1). On-chip SRAM holds nothing that anyone reads
before its fill (rule R209). -/
def resetLogic (level : Nat) (s : State) : State :=
  let z := State.reset
  let warm := level == 2
  let inVault := fun (r : W64) => (vaultRepairs s).contains r
  let kept := fun (a : Nat) => if a < 0x40000000000 then warm else if a < accBase then true else if a < vaultBase then false else level != 0
  let t : State :=
    { z with
      pending := s.pending, out := s.out, wr := s.wr, mem := s.mem, freeCtr := s.freeCtr, flash := s.flash,
      clk := if level = 0 then { Clk.reset with acyc := s.clk.acyc } else { s.clk with hi := 0 },
      tick := keepTick level s.tick,
      desk := { z.desk with rdTag := s.desk.rdTag },
      wings := if warm then (s.wings.map fun x => (x.1, keepMap x.2)).filter fun x => x.2 != Wing.reset else [],
      ecc := { ue := s.ecc.ue.filter kept, ce := s.ecc.ce.filter kept },
      banks := if warm then (s.banks.map fun x => (x.1, keepBank x.2)).filter fun x => x.2 != Bank.reset else [],
      inv := keepInv level inVault s.inv,
      vault := if level = 0 then [] else s.vault,
      tier := if warm then keepTier s.tier else Tiers.reset,
      fab := { z.fab with joined := level != 0 && s.fab.joined },
      rst := keepRst level s.rst, pwr := keepPwr level s.rst.safe s.pwr, rel := keepRel level s.rel, sec := keepSec level s.sec,
      pcie := { z.pcie with perst := s.pcie.perst }, mgt := keepMgt level s.mgt }
  let t := if warm then t else clearMem t 0 0x40000000000
  if s.tick.tickOut then t else emit t (.tickOut true)

/-! ### L3 (rules R209, R327, R328) -/

/-- Whether a slot of a physical array drains for a tile. -/
def drainsFor (s : State) (w a : Nat) (t : TileId) : Bool :=
  s.arrs.slots.any fun x => x.1 / 8 == 33 * w + a && x.2.draining && x.2.tile == some t

/-- Whether rows of a tile stand in the input of a target of RST_REQ, or, of a whole Wing, in the IN units of one of its Carrel banks
(Table 5.9, rule R123). -/
def rowsAt (s : State) (w code : Nat) (t : Tile) : Bool :=
  (t.phase == .between && t.fifo && (match stOf t with
    | some st => st.wing.val == w && (code == 0 || stationCode st == code)
    | none => false)) ||
  (code == 0 && s.arrs.arr.any fun y => y.1 / 33 == w && y.2.bufs.any fun b => b.t == t.id)

/-- Whether a tile in hand is in flight, or fetched ahead, on the logic of a target of RST_REQ: 0 the Wing, otherwise a station. -/
def onTarget (s : State) (w code : Nat) (t : Tile) : Bool :=
  let at_ := tileHeld t && (match stOf t with
    | some st => st.wing.val == w && (code == 0 || stationCode st == code || (isSoftmax t st && stationCode (softGlo st) == code))
    | none => false)
  let array := decide (1 ≤ code) && decide (code ≤ 0x21)
  let mine := t.w == w && t.phase != .finished &&
    (if code = 0 then true
     else if array then drainsFor s w (code - 1) t.id
     else code == 0x22 + t.r && (t.phase == .ahead || t.phase == .fenced))
  at_ || mine || rowsAt s w code t

/-- Whether the arrays of a target hold the open group. -/
def groupOn (s : State) (w code : Nat) (x : Nat × Group) : Bool :=
  x.2.live && (match physOf s (x.1 / 4) with
    | some (v, a) => v == w && (code == 0 || code == a + 1)
    | none => false)

/-- The rounds that an L3 reset of a target ends with RESET, at the first tile that is not complete. -/
def endReset (s : State) (w code : Nat) : State :=
  forEach s.desk.queues s fun s x =>
    let hit := x.2.rounds.filter fun r => r.result.isNone &&
      ((s.run.tiles.any fun t => t.id.q == x.1 && t.id.rnd == r.num && onTarget s w code t) ||
        s.arrs.groups.any fun g => g.2.owner == some x.1 && (g.2.liveRnd == r.num || g.2.ownerRnd == r.num) && groupOn s w code g)
    forEach hit s fun s r =>
      dropTiles (resultRound s x.1 r.num 0x12 r.done) fun t => t.id.q == x.1 && t.id.rnd == r.num

/-- An array: its Accumulator store and Concordance table store with it, its Carrel bank only with the Wing. A remap that waits
still waits. -/
def resetArray (whole : Bool) (w a : Nat) (s : State) : State :=
  let y := getArr s w a
  let z := { Arr.reset with fault := y.fault }
  let s := setArr s w a (if whole then z else { z with split := y.split, bufs := y.bufs, used := y.used })
  let keep := fun (x : Nat) => decide (x < accAddr w a 0 0) || decide (accAddr w a 8 0 ≤ x)
  let s := s.setEcc { ue := s.ecc.ue.filter keep, ce := s.ecc.ce.filter keep }
  forEach (List.range 8) s fun s k => setSlot s w a k Slot.reset

def resetRunner (w r : Nat) (s : State) : State := modRun s w r fun x => { Runner.reset with window := x.window }

/-- A Wing: every station, its memories and its registers but those kept through L3. The fill follows its repairs (rule R209). -/
def resetWing (w : Nat) (s : State) : State :=
  let s := forEach (List.range 33) s fun s a => resetArray true w a s
  let s := forEach (List.range 4) s fun s r => resetRunner w r s
  let s := forEach [0, 1] s fun s u => setRet (setLed (setGlo s w u Glo.reset) w u Led.reset) w u Ret.reset
  let s := forEach (List.range 37) s fun s k => modBank s w k keepBank
  let s := modWing s w fun x => { keepMap x with powered := x.powered, inL3 := x.inL3, temp := x.temp, storeFail := x.storeFail }
  let v := s.inv
  s.setInv { v with cursor := tabSet 0 v.cursor w 0, hold := tabSet [] v.hold w [], began := tabSet 0 v.began w s.clk.now.toNat }

/-- One target's logic (Table 13.12). -/
def resetTarget (w code : Nat) (s : State) : State :=
  if code = 0 then resetWing w s
  else if code ≤ 0x21 then resetArray false w (code - 1) s
  else if code ≤ 0x25 then resetRunner w (code - 0x22) s
  else if code ≤ 0x27 then setGlo s w (code - 0x26) Glo.reset
  else if code ≤ 0x29 then setLed s w (code - 0x28) Led.reset
  else if code ≤ 0x2B then setRet s w (code - 0x2A) Ret.reset
  else s

/-- An L3 reset of a target: its rounds end, its groups and tiles go, its logic is cleared, perturbations of its stations stop
(rule R381). -/
def resetL3 (w code : Nat) (s : State) : State :=
  let gs := s.arrs.groups.filter fun g => groupOn s w code g
  let s := endReset s w code
  let s := forEach gs s fun s g => freeGroup s (g.1 / 4) (g.1 % 4)
  let s := dropTiles s (onTarget s w code)
  let s := settleGroups (resetTarget w code s)
  let s := modWing s w fun x => { x with inL3 := true }
  let p := s.rel.pert
  if bits 31 27 p.stationReg.toNat = w then s.setRel { s.rel with pert := { p with stationReg := 0 } } else s

/-! ### Episodes (rules R331 to R335) -/

def srcOr (a b : Sources) : Sources :=
  { por := a.por || b.por, bor := a.bor || b.bor, pin := a.pin || b.pin, clk := a.clk || b.clk, wdog := a.wdog || b.wdog,
    lockup := a.lockup || b.lockup, sw := a.sw || b.sw, dbg := a.dbg || b.dbg }

/-- Whether a source other than PIN has joined (rule R334). -/
def otherThanPin (x : Sources) : Bool := { x with pin := false } != Sources.none

/-- The logic that an L0, L1 or L2 episode clears, with the record of the change of REL_PERT_CTL when that stops a perturbation
(rules R381, R382). -/
def clearLogic (level : Nat) (s : State) : State :=
  let p := s.rel.pert
  let t := resetLogic level s
  if p.cred || p.compl || p.tick || p.station then logPush t (logSrc 9 0) 0x0030 [pertCtlWord t] else t

/-- A source asserts: it begins an episode or joins the running one. held: it stays asserted until its release. The level is the
widest reach of all, an unfinished bring-up's included; the logic is cleared as soon as the reach widens. A failed supply ends the
wait for sensor 68, which holds an L1 episode alone (rule R361). An episode ends a firmware update (rule R420). -/
def joinEpisode (src : Sources) (held : Bool) (level : Nat) (tgt : List (BitVec 5 × BitVec 7)) (dom : Nat) (s : State) : State :=
  let r := s.rst
  let now := match r.episode with
    | some e => e
    | none =>
      { level := 3, joined := Sources.none, asserted := Sources.none, targets := [], stretching := false, driving := false,
        waitHigh := false, clkDomain := 0 }
  let left := match r.episode, r.bringup with
    | none, some b => b.toNat
    | _, _ => 3
  let lv := min (min level left) now.level.toNat
  let fresh := r.episode.isNone
  let more := nub (now.targets ++ tgt ++ (if fresh then r.l3Wings else []))
  let wide := decide (lv < 3) && (fresh || decide (lv < now.level.toNat))
  let s := if wide then clearLogic lv s else if lv = 3 then forEach tgt s fun s x => resetL3 x.1.toNat x.2.toNat s else s
  let asserted := if held then srcOr now.asserted src else now.asserted
  let pinOnly := src == { Sources.none with pin := true }
  let driving := decide (lv < 3) && !now.waitHigh && (!pinOnly || (now.level == 3 && otherThanPin now.joined))
  let asserted := if driving then { asserted with pin := false } else asserted
  let e : Episode :=
    { level := BitVec.ofNat 2 lv, joined := srcOr now.joined src, asserted := asserted, targets := more,
      stretching := asserted == Sources.none, driving := driving, waitHigh := now.waitHigh,
      clkDomain := if dom = 0 then now.clkDomain else BitVec.ofNat 3 dom }
  let s := if level = 0 then s.setPwr { s.pwr with hot := false } else s
  let s := s.setMgt { s.mgt with update := none, flashQ := [] }
  s.setRst { s.rst with episode := some e, repeated := (fresh && r.bringup.isSome) || r.repeated,
                        l3Wings := if lv = 3 then more else [] }

/-- A source releases; after the last the stretch runs, driven on nRST below L3 once a source other than PIN has joined. After a
sample that found nRST low the device drives it again from the moment that it goes high (rules R331, R334, R335). -/
def releaseSource (f : Sources → Sources) (s : State) : State :=
  match s.rst.episode with
  | none => s
  | some e =>
    let a := f e.asserted
    if a = e.asserted then s
    else
      let last := a == Sources.none
      let high := e.waitHigh && !a.pin
      let driving := e.driving || ((last || high) && e.level != 3 && otherThanPin e.joined)
      s.setRst { s.rst with episode := some { e with asserted := a, stretching := last, driving := driving,
                                                     waitHigh := e.waitHigh && a.pin } }

/-- In Off only POR and nRST act (rules R353, R361, R363). -/
def isOff (s : State) : Bool := s.pwr.state == .off

/-! ### Software requests (rule R330) -/

/-- An RST_REQ write (Table 13.12). -/
def rstReq (v : Nat) (s : State) : State :=
  let lv := bits 23 22 v
  let tgt := bits 6 0 v
  if bits 31 24 v ≠ 0x5A ∨ lv = 0 ∨ 0x2C < tgt then s
  else
    joinEpisode { Sources.none with sw := true } false lv
      (if lv = 3 then [(BitVec.ofNat 5 (bits 11 7 v), BitVec.ofNat 7 tgt)] else []) 0 s

/-- A host write of RST_REQ whose LEVEL is the command's. -/
def swReset (lv : Nat) (v : W32) (s : State) : State :=
  if bits 23 22 v.toNat == lv then barWrite 0x200004 v (rstReq v.toNat) s else s

def execSwResetL1 (v : W32) (s : State) : Host.Outcome State Fault Refusal := .next (finish s (settle (swReset 1 v s)))
def execSwResetL2 (v : W32) (s : State) : Host.Outcome State Fault Refusal := .next (finish s (settle (swReset 2 v s)))
def execSwResetL3 (v : W32) (s : State) : Host.Outcome State Fault Refusal := .next (finish s (settle (swReset 3 v s)))

/-! ### Supplies, pin, clocks, watchdog (rules R329, R338, R362) -/

def execPorAssert (s : State) : Host.Outcome State Fault Refusal :=
  .next (finish s (settle (joinEpisode { Sources.none with por := true } true 0 [] 0 s)))
def execPorRelease (s : State) : Host.Outcome State Fault Refusal :=
  .next (finish s (releaseSource (fun x => { x with por := false }) s))

/-- The VCORE setpoint that the brown-out limits follow: the lower of the old and the new one while it ramps (rule R363), and that of
0.600 V until the first step after bring-up (rule R436). -/
def coreSetpoint (p : Pwr) : Nat :=
  if p.boot then 600
  else match p.avs with
    | some r => min r.start r.target
    | none => p.vcoreMv.toNat

/-- Threshold and release level of a rail in mV (Table 14.6). -/
def railLevels (p : Pwr) : Rail → Nat × Nat
  | .vcoreUncore => (coreSetpoint p - 75, coreSetpoint p - 50)
  | .vcoreWings => (coreSetpoint p - 75, coreSetpoint p - 50)
  | .vsram => (765, 790)
  | .vser => (810, 837)
  | .vhbm => (990, 1023)
  | .vlpio => (450, 465)
  | .vio => (1620, 1674)

/-- Whether BOR watches a rail: none in Off, and of VCORE only the uncore share in Drowse (rule R363). -/
def railWatched (s : State) (r : Rail) : Bool := !isOff s && !(s.pwr.state == .drowse && r == .vcoreWings)

/-- The monitored rails in the order of Table 14.6. -/
def rails : List Rail := [.vcoreUncore, .vcoreWings, .vsram, .vser, .vhbm, .vlpio, .vio]

/-- BOR_ASSERT: a rail has stayed at or below mv for 2 µs (rule R362). -/
def borAssert (r : Rail) (mv : Nat) (s : State) : State :=
  if railWatched s r && decide (mv < (railLevels s.pwr r).1) then joinEpisode { Sources.none with bor := true } true 0 [] 0 s else s

/-- BOR_RELEASE: what the rails read, in the order of Table 14.6; BOR releases when every one is at its release level. -/
def borRelease (mvs : List Nat) (s : State) : State :=
  if rails.zipIdx.all fun x => !railWatched s x.1 || decide ((railLevels s.pwr x.1).2 ≤ mvs.getD x.2 0) then
    releaseSource (fun x => { x with bor := false }) s
  else s

def execBorAssert (s : State) (rail : Rail := .vcoreUncore) (mv : Nat := 0) : Host.Outcome State Fault Refusal :=
  .next (finish s (settle (borAssert rail mv s)))
def execBorRelease (s : State) (mvs : List Nat := []) : Host.Outcome State Fault Refusal := .next (finish s (borRelease mvs s))

/-- Whether the device drives nRST low (rule R334). -/
def drivesRst (s : State) : Bool :=
  match s.rst.episode with
  | some e => e.driving
  | none => false

/-- NRST_LOW: the pin is low; PIN asserts unless the device drives it (rule R334). -/
def nrstLow (s : State) : State :=
  let s := s.setRst { s.rst with pinLow := true }
  if drivesRst s then s else joinEpisode { Sources.none with pin := true } true 1 [] 0 s

def execNrstLow (s : State) : Host.Outcome State Fault Refusal := .next (finish s (settle (nrstLow s)))

def nrstHigh (s : State) : State := releaseSource (fun x => { x with pin := false }) (s.setRst { s.rst with pinLow := false })
def execNrstHigh (s : State) : Host.Outcome State Fault Refusal := .next (finish s (nrstHigh s))

/-- CLK_DOMAIN codes (Table 13.11). -/
def domCode : ClkDom → Nat
  | .sys => 1
  | .aclk => 2
  | .mem => 3
  | _ => 0

/-- A domain that rule R338 holds in reset after three episodes. -/
def domHeld (s : State) (d : ClkDom) : Bool := s.rst.clkHold && s.rst.cause.clkDomain.toNat == domCode d

/-- No episode holds the host link and the fabric: an L3 episode does not touch them (Table 13.1). -/
def linksFree (s : State) : Bool := s.rst.episode.all fun e => e.level == 3

/-- Whether a core-domain clock is qualified, or awaited by a bring-up or a wake. -/
def coreWatched (s : State) (d : ClkDom) : Bool :=
  let r := s.rst
  let up := r.episode.isNone && r.bringup.isSome
  !domHeld s d && match d with
    | .sys => true
    | .aclk => r.qAclk || (up && decide (4 ≤ r.step.toNat)) || s.pwr.state == .waking
    | .mem => r.qMem || (up && decide (4 ≤ r.step.toNat))
    | _ => false

/-- CLOCK_FAILURE: CLK for a core domain; a link domain is put back into reset and held (Table 13.4). -/
def clockFailure (d : ClkDom) (s : State) : State :=
  let held := fun (s : State) => mgmtEvent s 0x09 (clkStatWord s.rst)
  if isOff s then s
  else
    match d with
    | .pcie =>
      if s.rst.pinsReleased && linksFree s && !s.rst.pcieHeld then
        let s := endpointReset s
        held (s.setRst { s.rst with qPcie := false, pcieHeld := true })
      else s
    | .serdes =>
      if s.rst.pinsReleased && linksFree s && !s.rst.serdesHeld then
        let s := forEach (List.range 9) s portDown
        held (s.setRst { s.rst with qSerdes := false, serdesHeld := true })
      else s
    | _ => if coreWatched s d then joinEpisode { Sources.none with clk := true } true 1 [] (domCode d) s else s

def execClockFailure (d : ClkDom) (s : State) : Host.Outcome State Fault Refusal := .next (finish s (settle (clockFailure d s)))

def execSystemReferenceReturn (s : State) : Host.Outcome State Fault Refusal :=
  .next (finish s (releaseSource (fun x => { x with clk := false }) s))

/-- Watchdog and heartbeat run from READY, or from the start of the recovery firmware, while no control core is halted
(rules R329, R395). -/
def dogArmed (s : State) : Bool := s.rst.armed && s.sec.halted == 0 && !isOff s

def execWatchdogExpire (s : State) : Host.Outcome State Fault Refusal :=
  .next (finish s (settle (if dogArmed s then joinEpisode { Sources.none with wdog := true } false 2 [] 0 s else s)))

/-- LOCKUP: the Warden has missed its heartbeats, or a control core, which runs once firmware has started, double-faults. -/
def lockup (doubleFault : Bool) (s : State) : State :=
  if dogArmed s || (doubleFault && s.mgt.serving && !isOff s) then joinEpisode { Sources.none with lockup := true } false 2 [] 0 s else s

def execLockup (s : State) (doubleFault : Bool := false) : Host.Outcome State Fault Refusal :=
  .next (finish s (settle (lockup doubleFault s)))

/-! ### The end of an episode (rules R331, R333, R335, R338) -/

/-- RST_CAUSE as the episode leaves it. -/
def causeOf (e : Episode) : Cause :=
  let (w, t) := e.targets.headD (0, 0)
  { sources := e.joined, level := e.level, clkDomain := e.clkDomain, multiL3 := decide (1 < e.targets.length), wing := w, target := t }

/-- The episode ends: RST_CAUSE is written, the count moves, L3 targets are logged, and bring-up begins. -/
def endEpisode (e : Episode) (s : State) : State :=
  let r := s.rst
  let clk := e.joined == { Sources.none with clk := true }
  let n := if clk then r.clkOnly + 1 else 0
  let hold := decide (3 ≤ n) && (e.clkDomain == 2 || e.clkDomain == 3) && e.level != 3
  let count := if e.level = 0 then 0 else satAdd r.episodes 1
  let r := { r with cause := causeOf e, episodes := count, episode := none, clkOnly := n, repeated := false }
  let s := s.setPwr { s.pwr with therm := false }
  let s :=
    if e.level = 3 then
      forEach e.targets (s.setRst r) fun s x => logPush s (logSrc 0 0) 0x0008 [x.1.toNat, x.2.toNat]
    else
      let s := s.setRst { r with bringup := some e.level, step := 0, clkHold := hold, safe := hold }
      let s := s.setSec { s.sec with nonceNo := s.sec.nonceNo + 1 }
      if e.level = 2 then s else s.setTick { s.tick with last := s.clk.now }
  mgmtEvent s 0x01 (causeWord s.rst.cause)

/-- The strap of an L0 episode: RATIO, CODE and the default management address (rules R339 to R341). -/
def latchStrap (ratio : Nat) (s : State) : State :=
  let x := min ratio 255
  let code := x / 16
  let base := [3, 4, 7, 8, 10, 12].contains code
  let s := s.setRst { s.rst with ratio := BitVec.ofNat 8 x, code := BitVec.ofNat 4 code }
  s.setMgt { s.mgt with dflt := if base then 0x5D else 0x5C }

/-- STRETCH_END, with the strap of an L0 episode: an episode in which the device does not drive nRST ends; in another it stops
driving nRST and waits for its sample (rules R331, R334, R335). After a trip the stretch lasts until sensor 68 has cooled (rule
R361). -/
def stretchEnd (ratio : Nat) (s : State) : State :=
  match s.rst.episode with
  | none => s
  | some e =>
    if !e.stretching || s.pwr.hot then s
    else
      let s := if e.level = 0 then latchStrap ratio s else s
      if !e.driving then endEpisode e s
      else s.setRst { s.rst with episode := some { e with stretching := false, driving := false } }

def execStretchEnd (ratio : Nat) (s : State) : Host.Outcome State Fault Refusal := .next (finish s (settle (stretchEnd ratio s)))

/-- NRST_SAMPLE, 20 µs after the device stops driving nRST. -/
def nrstSample (high : Bool) (s : State) : State :=
  match s.rst.episode with
  | none => s
  | some e =>
    if e.stretching || e.driving || e.asserted != Sources.none || e.level = 3 then s
    else if high then endEpisode e s
    else
      let s := joinEpisode { Sources.none with pin := true } true 1 [] 0 (s.setRst { s.rst with pinLow := true })
      s.setRst { s.rst with episode := s.rst.episode.map fun e => { e with waitHigh := true } }

def execNrstSample (high : Bool) (s : State) : Host.Outcome State Fault Refusal := .next (finish s (settle (nrstSample high s)))

end Sys2Proof.Machine
end

