-- ==== Sys2Proof/Machine/Bringup.lean ====
section
/-! DEFINITION. Bring-up (rules R103, R205, R209, R216, R304, R337 to R345, R350, R375, R384 to R390, R424): clocks, the option
block, the firmware, training, tests and READY. The commands CLOCK_QUALIFIED, CLOCK_QUALIFY_RETRY, HOST_GO,
OPTION_BLOCK_LOADED, FIRMWARE_VERIFIED, MEMORY_TRAINING_DONE, BRINGUP_READY and BRINGUP_SLOW. -/

namespace Sys2Proof.Machine

/-- The bring-up in progress, no episode running: its level. -/
def bringing (s : State) : Option Nat := if s.rst.episode.isSome || isOff s then none else s.rst.bringup.map fun b => b.toNat

/-- A bring-up has completed a step. -/
def atStep (s : State) (n : Nat) : Bool := (bringing s).isSome && s.rst.step.toNat == n

def setStep (s : State) (n : Nat) : State := s.setRst { s.rst with step := BitVec.ofNat 4 n }

/-! ### Wings come up (rules R103, R205, R209, R345) -/

/-- The repairs, the fill and the tests of every Wing. bad: physical arrays 33·w + a that
the start-up test finds failed. -/
def wingsUp (bad : List Nat) (s : State) : State :=
  let s := fillWings s false (List.range 32)
  let s := (readErrors s (vaultBase + failOff) 1024 .desk none).2
  let s := forEach (failRecords s) s fun s x => arrayFailed s x.1 x.2 0
  let s := forEach bad s fun s x => arrayFailed s (x / 33) (x % 33) 0
  let s := s.setRst { s.rst with arrMapSet := true, capsSet := true }
  forEach (List.range 32) s fun s w => modWing s w fun x => { x with powered := true }

/-- After an L3 episode: repairs and fill of the Wings reset, tests of the arrays reset; the capacity returns at the next
boundary. -/
def localUp (bad : List Nat) (s : State) : State :=
  let ts := s.rst.l3Wings
  let whole := fun (w : Nat) => ts.any fun x => x.1.toNat == w && x.2 == 0
  let s := fillWings s true ((List.range 32).filter whole)
  let tested := fun (x : Nat) => unitReset s (x / 33) (x % 33 + 1)
  let s := forEach (bad.filter tested) s fun s x =>
    if spareTaken s (x / 33) (x % 33) then testFailed s (x / 33) (x % 33) 0 else arrayFailed s (x / 33) (x % 33) 0
  let s := forEach ts s fun s x => modWing s x.1.toNat fun y => { y with inL3 := false }
  s.setRst { s.rst with l3Wings := [], l3Pend := nub (s.rst.l3Pend ++ ts.map fun x => x.1.toNat) }

/-- The next of the four groups of Wings that a wake brings up, by its first Wing (rule R354). -/
def nextGroup (s : State) : Option Nat := [0, 8, 16, 24].find? fun w => !(getWing s w).powered

/-- CLOCK_QUALIFIED in a wake: the ACLK of the next group of Wings qualifies; their registers take their reset values (rule R442),
and their repairs and their fill follow. Their arrays are not tested again. -/
def groupUp (s : State) : State :=
  match nextGroup s with
  | none => s
  | some g =>
    let ws := (List.range 8).map fun i => g + i
    let s := forEach ws s fun s w => resetWing w s
    let s := forEach ws (fillWings s (g == 0) ws) fun s w => modWing s w fun x => { x with powered := true }
    if g = 24 then s.setRst { s.rst with qAclk := true } else s

/-- Training and the tests have both ended. -/
def trainedAll (s : State) : State :=
  if s.rst.trained && s.rst.qAclk && !s.rst.safe && s.rst.step == 4 then setStep s 5 else s

/-! ### CLOCK_QUALIFIED, CLOCK_QUALIFY_RETRY (rules R337, R338) -/

def clockQualified (d : ClkDom) (bad : List Nat) (s : State) : State :=
  let r := s.rst
  let up := (bringing s).isSome && decide (4 ≤ r.step.toNat) && !domHeld s d
  let link := r.pinsReleased && linksFree s && !isOff s
  match d with
  | .sys => if atStep s 0 then setStep (s.setRst { r with qSys := true }) 1 else s
  | .pcie => if link then s.setRst { r with qPcie := true, pcieHeld := false } else s
  | .serdes => if link then s.setRst { r with qSerdes := true, serdesHeld := false } else s
  | .mem => if up && !r.qMem then s.setRst { r with qMem := true } else s
  | .aclk =>
    if up && !r.qAclk then
      let s := s.setRst { r with qAclk := true }
      if r.safe then s else trainedAll (wingsUp bad s)
    else if s.pwr.state == .waking then groupUp s
    else if r.episode.isNone && !isOff s && !r.l3Wings.isEmpty then localUp bad s
    else s

/-- A held link domain tries its clock again, each 1 ms. -/
def clockQualifyRetry (d : ClkDom) (good : Bool) (s : State) : State :=
  let r := s.rst
  if !good || !linksFree s || isOff s then s
  else
    match d with
    | .pcie => if r.pcieHeld then s.setRst { r with qPcie := true, pcieHeld := false } else s
    | .serdes => if r.serdesHeld then s.setRst { r with qSerdes := true, serdesHeld := false } else s
    | _ => s

def execClockQualifyRetry (d : ClkDom) (good : Bool) (s : State) : Host.Outcome State Fault Refusal :=
  .next (finish s (clockQualifyRetry d good s))

/-! ### OPTION_BLOCK_LOADED (rules R342, R343, R384 to R390) -/

/-- The digest of the owner public key that a block carries (rule R386). -/
def ownerHashOf (o : OptBlock) : Option (BitVec 384) := o.ownerKey.map Config.sha384

/-- Whether a copy verifies against a security record: signer, SVN, declared state and the ranges of its fields. An owner key counts
only when its digest equals OWNER_HASH; the step to Provisioned needs a block that carries one (rules R386, R389). -/
def optOk (rec_ : SecRec) (o : OptBlock) : Bool :=
  let own :=
    if rec_.state = 0 then o.signer == some 0 && (o.declared != 1 || o.ownerKey.isSome)
    else o.signer == some 1 && ownerHashOf o == some rec_.ownerHash
  let next := o.declared == rec_.state || (rec_.state == 0 && o.declared == 1) || (rec_.state == 1 && o.declared == 2)
  own && next && decide (rec_.optSvn.toNat ≤ o.svn.toNat) && decide (2 ≤ o.stretchMs) && decide (o.stretchMs ≤ 50) &&
    decide (10 ≤ o.wdogMs) && decide (o.wdogMs ≤ 1000) && decide (o.pinCfg.toNat < 4096)

def openRec : SecRec := { state := 0, ownerHash := 0, fwSvn := 0, optSvn := 0 }

/-- The record that the copies are checked against: the partition's, or, without a key, an Open one for a block that declares Open.
-/
def bootRec (s : State) (rpb : RpbAnswer) : Option SecRec :=
  match rpb with
  | .good => s.sec.rpb
  | .noKey => some openRec
  | _ => none

/-- A copy that verifies, with its code of OPT_SRC. -/
def pickOpt (rec_ : Option SecRec) (noKey : Bool) (src : Nat) (o : Option OptBlock) : Option (Nat × OptBlock) :=
  match rec_ with
  | none => none
  | some r => (o.filter fun o => optOk r o && (!noKey || o.declared == 0)).map fun o => (src, o)

/-! ### Reads of the flash (rules R340, R341, R431, R432; notes/assumptions/117) -/

/-- Whether the strap selects quad mode (Table 13.5). -/
def quadFlash (s : State) : Bool := [1, 2, 3, 4, 9, 10, 15].contains s.rst.code.toNat

/-- A read of the flash from an address on, in the mode that the strap selects. -/
def flashRead (s : State) (a : Nat) : State := emit s (.flash (if quadFlash s then .quadRead else .read) a)

/-- What an area of the flash gives. x: what the verification makes of what the read finds. In an area that the device has read or
written before, only the object that it holds verifies; what another area turns out to hold stands in the flash from now on. -/
def areaGives (s : State) (a : Nat) (x : Option FlashObj) : Option FlashObj × State :=
  let s := flashRead s a
  match s.sec.areas.lookup a with
  | some h => (x.filter fun y => h == some y, s)
  | none =>
    match x with
    | none => (none, s)
    | some (.image i) => (x, setArea s a (some (.image i)))
    | some (.options o) => (x, (setArea s a (some (.options o))).setFlash (memPut 0xFF (memClear s.flash a (a + 0x4000)) a o.bytes))

/-- An option block in an area. -/
def optAt (s : State) (a : Nat) (o : Option OptBlock) : Option OptBlock × State :=
  let r := areaGives s a (o.map .options)
  (match r.1 with
   | some (.options o) => some o
   | _ => none, r.2)

/-- An image in the first of some areas that gives one. -/
def imageAt (s : State) (as : List Nat) (i : Option FwImage) : Option FwImage × State :=
  as.foldl (fun st a =>
    match st.1 with
    | some _ => st
    | none =>
      let r := areaGives st.2 a (i.map .image)
      (match r.1 with
       | some (.image i) => some i
       | _ => none, r.2)) (none, s)

/-- The loader reads the copies in their order until one verifies: after an L2 episode the Vault's, then copies A and B in flash
(rule R342). v: the Vault's. -/
def readOpts (rec_ : Option SecRec) (noKey : Bool) (v a b : Option OptBlock) (s : State) : Option (Nat × OptBlock) × State :=
  match pickOpt rec_ noKey 3 v with
  | some p => (some p, s)
  | none =>
    let (a, s) := optAt s 0 a
    match pickOpt rec_ noKey 1 a with
    | some p => (some p, s)
    | none =>
      let (b, s) := optAt s 0x4000 b
      (pickOpt rec_ noKey 2 b, s)

/-! ### Pins (rules R336, R424, Table 18.2) -/

/-- The groups of inputs in Table 18.2, in the order of PIN_CFG. -/
inductive PinGroup where
  | tickIn | enumIn | flashIo | avsSdata | depPres | perstN
  deriving DecidableEq, Repr

inductive Pull where | none | up | down
  deriving DecidableEq, Repr

/-- Where a group stands in PIN_CFG, and its default. -/
def pinGroup : PinGroup → Nat × Pull
  | .tickIn => (0, .down)
  | .enumIn => (2, .none)
  | .flashIo => (4, .up)
  | .avsSdata => (6, .up)
  | .depPres => (8, .up)
  | .perstN => (10, .up)

/-- The pull of a group: the weak pull-up until the loader releases the pins, then what the option block gives it. -/
def pinPull (s : State) (g : PinGroup) : Pull :=
  let (at_, dflt) := pinGroup g
  if !s.rst.pinsReleased then .up
  else
    match bits (at_ + 1) at_ s.rst.pinCfg.toNat with
    | 1 => .none
    | 2 => .up
    | 3 => .down
    | _ => dflt

/-- The outputs that rule R424 names. -/
inductive OutPin where
  | enumOut | tickOut | flashCsN | avsMdata | avsClk
  deriving DecidableEq, Repr

/-- The level of an output between its transfers: its pull-up's while the outputs are disabled, then as the loader leaves it,
ENUM_OUT low until an address is assigned (rule R412) and TICK_OUT as the tick drives it (rule R427). -/
def pinLevel (s : State) (p : OutPin) : Bool :=
  !s.rst.pinsReleased || match p with
    | .enumOut => s.mgt.enumOut
    | .tickOut => s.tick.tickOut
    | .flashCsN => true
    | .avsMdata => true
    | .avsClk => false

/-- The fields of Table 13.6 that the loader itself applies; safe mode takes only the pin and management settings (rule R341). -/
def applyOpt (src : Nat) (o : OptBlock) (s : State) : State :=
  let r := { s.rst with opt := some o, optSrc := BitVec.ofNat 3 src, pinCfg := o.pinCfg }
  let r := if r.safe then r else { r with stretchMs := BitVec.ofNat 6 o.stretchMs, wdogMs := o.wdogMs }
  let s := (s.setRst r).setSec { s.sec with optDigest := Config.sha384 o.bytes }
  if src = 3 then s
  else
    let s := vaultPut (s.setVault (memClear s.vault 0 0x4000)) 0 (padTo 0 0x4000 o.bytes)
    s.setSec { s.sec with vaultOpt := some o }

/-- The PUF step and the option loader, up to the release of the pins; control memory's repairs and its fill (rules R205, R209).
RPB_FAIL is set in every case but a record read and one written for an Open block (rule R387). writeOk: whether a write of the
record succeeds. -/
def optionLoad (level : Nat) (pufOk : Bool) (rpb : RpbAnswer) (a b : Option OptBlock) (vaultOk writeOk : Bool) (s : State) : State :=
  let s := if level = 2 then s else flashRead (flashRead s 0x8000) 0x9000
  let keys := if level = 2 then s.sec.keys else pufOk
  let s := s.setSec { s.sec with keys := keys, pufFail := !keys }
  let noKey := rpb == .noKey
  let rec_ := if keys then bootRec s rpb else none
  let (bad, s) := if level = 2 then readErrors s vaultBase 0x4000 .desk none else (false, s)
  let (pick, s) := readOpts rec_ noKey (if level = 2 && vaultOk && !bad then s.sec.vaultOpt else none) a b s
  let lost := rec_.isNone || (noKey && (pick.isNone || !writeOk))
  let s := if noKey && pick.isSome && keys && writeOk then s.setSec { s.sec with rpb := some openRec } else s
  let code := s.rst.code.toNat
  let state := match rec_ with
    | some r => r.state
    | none => 0
  let host := decide (9 ≤ code) && decide (code ≤ 12)
  let safe := s.rst.safe || !keys || lost || pick.isNone || code == 0 || code == 13 || code == 14
  let s := s.setRst { s.rst with safe := safe, optFail := pick.isNone }
  let s := s.setSec { s.sec with state := state, rpbFail := lost, hostbootDenied := state == 2 && host }
  let s := match pick with
    | some (src, o) => applyOpt src o s
    | none => s
  let s := s.setFab { s.fab with candidate := [2, 4, 6, 8].contains code }
  let s := fillControl (flashRead s 0xA000)
  setStep (s.setRst { s.rst with pinsReleased := true }) 3

def optionBlockLoaded (pufOk : Bool) (rpb : RpbAnswer) (a b : Option OptBlock) (vaultOk writeOk : Bool) (s : State) : State :=
  match bringing s with
  | none => s
  | some level => if s.rst.step.toNat = 1 then optionLoad level pufOk rpb a b vaultOk writeOk s else s

def execOptionBlockLoaded (pufOk : Bool) (rpb : RpbAnswer) (a b : Option OptBlock) (vaultOk writeOk : Bool) (s : State) :
    Host.Outcome State Fault Refusal :=
  .next (finish s (optionBlockLoaded pufOk rpb a b vaultOk writeOk s))

/-! ### HOST_GO, FIRMWARE_VERIFIED (rules R341, R345, R386 to R389) -/

def hostGo (s : State) : State := barWrite 0x200014 0x80000000 (fun s => s.setRst { s.rst with hostGo := true }) s
def execHostGo (s : State) : Host.Outcome State Fault Refusal := .next (finish s (hostGo s))

/-- FW_SVN of the record. -/
def fwSvnOf (s : State) : Nat :=
  match s.sec.rpb with
  | some r => r.fwSvn.toNat
  | none => 0

/-- Whether an image verifies, and whether it is refused for its SVN alone. -/
def fwOk (s : State) (i : Option FwImage) : Bool :=
  match i with
  | some i => i.signedByRyvas && decide (fwSvnOf s ≤ i.svn.toNat)
  | none => false

def fwRefused (s : State) (i : Option FwImage) : Bool :=
  match i with
  | some i => i.signedByRyvas && decide (i.svn.toNat < fwSvnOf s)
  | none => false

/-- The image runs and serves MCTP. -/
def fwRuns (i : FwImage) (recovery : Bool) (s : State) : State :=
  let s := s.setDesk { s.desk with fwMajor := i.major, fwMinor := i.minor, fwBuild := i.build }
  let s := s.setSec { s.sec with fwDigest := i.digest }
  s.setMgt { s.mgt with serving := true, recovery := recovery }

/-- The record with the accepted state, OWNER_HASH and the larger SVNs (rule R389). -/
def newRec (old : SecRec) (o : Option OptBlock) (i : FwImage) : SecRec :=
  let big := fun (a b : BitVec 16) => if a.toNat < b.toNat then b else a
  match o with
  | none => { old with fwSvn := big old.fwSvn i.svn }
  | some o =>
    { state := o.declared, ownerHash := if old.state = 0 ∧ o.declared = 1 then (ownerHashOf o).getD 0 else old.ownerHash,
      fwSvn := big old.fwSvn i.svn, optSvn := big old.optSvn o.svn }

/-- SEC_STAT.STATE and SEC_SVN show the record. Perturbations stop when a permission lapses with it (rule R381). -/
def showRec (s : State) : State :=
  match s.sec.rpb with
  | some r =>
    let t := s.setSec { s.sec with state := r.state, ownerHash := r.ownerHash, fwSvn := r.fwSvn, optSvn := r.optSvn }
    if pertPermitted s && !pertPermitted t then pertStop t else t
  | none => s

/-- Safe mode: the recovery firmware, under the same check, the cap at 600 W, the ports DOWN, the watchdog armed (rules R341,
R444). -/
def recoveryBoot (i : Option FwImage) (s : State) : State :=
  let s := s.setRst { s.rst with safe := true }
  let s := forEach (List.range 9) s portDown
  let (i, s) := imageAt s [0x820000, 0xA20000] i
  let s := s.setSec { s.sec with rollback := s.sec.rollback || fwRefused s i }
  let s := s.setPwr { s.pwr with capInForce := 600 }
  match i with
  | some x => if fwOk s i then fwRuns x true (s.setRst { s.rst with armed := true, capsSet := true }) else s
  | none => s

/-- A bring-up that is not in safe mode: the record is written once, the Vault takes the digest (notes/assumptions/11), then the
firmware starts. -/
def primaryBoot (i : FwImage) (recovery : Option FwImage) (fromStacks writeOk : Bool) (s : State) : State :=
  match s.sec.rpb with
  | none => recoveryBoot recovery s
  | some old =>
    if writeOk then
      let s := showRec (s.setSec { s.sec with rpb := some (newRec old s.rst.opt i), vaultFw := some i.digest })
      let s := vaultPut s 0x6400 (bytesOf 48 i.digest.toNat)
      fwRuns i false (s.setRst { s.rst with fwFromStacks := fromStacks })
    else recoveryBoot recovery (s.setSec { s.sec with rpbFail := true })

def firmwareVerified (primary recovery : Option FwImage) (fromStacks writeOk : Bool) (s : State) : State :=
  let r := s.rst
  let host := decide (9 ≤ r.code.toNat) && decide (r.code.toNat ≤ 12) && !s.sec.hostbootDenied && !r.safe
  let near := fromStacks && bringing s == some 2 && r.fwCopy.isSome
  if !atStep s 3 || (host && !fromStacks && !r.hostGo) || (fromStacks && !near) then s
  else
  let (bad, s) := if near then readErrors s (vaultBase + 0x6400) 48 .desk none else (false, s)
  if near && (bad || !primary.any fun i => s.sec.vaultFw == some i.digest) then s
  else
    let s := s.setRst { s.rst with hostGo := false }
    let (primary, s) := if fromStacks || host || r.safe then (primary, s) else imageAt s [0x20000, 0x420000] primary
    let s :=
      if r.safe then recoveryBoot recovery s
      else
        match primary with
        | some i =>
          if fwOk s primary then primaryBoot i recovery fromStacks writeOk s
          else recoveryBoot recovery (s.setSec { s.sec with rollback := fwRefused s primary })
        | none => recoveryBoot recovery s
    showRec (setStep s 4)

/-! ### MEMORY_TRAINING_DONE (rules R216, R344, R345, R375) -/

/-- D in GiB of the modules found at the 8 sites; none when they form no legal population. -/
def populationOf (ms : List (Option Nat)) : Option Nat :=
  let found := ms.filterMap id
  match found with
  | [] => some 0
  | c :: _ => if found.length = 8 ∧ ms.length = 8 ∧ [32, 64, 128, 256].contains c ∧ found.all (· == c) then some (8 * c) else none

/-- Training ends, or at L2 the self-refresh; records held until now are written with their stamps. -/
def memoryTrainingDone (ms : List (Option Nat)) (s : State) : State :=
  match bringing s with
  | none => s
  | some level =>
    if !s.rst.qMem || s.rst.trained then s
    else
      let s :=
        if level = 2 then s
        else
          match populationOf ms with
          | some d => s.setTier { s.tier with depGib := d }
          | none => mgmtEvent (s.setTier { s.tier with depGib := 0 }) 0x0B (ms.filterMap id).length
      let early := s.rel.early
      let s := (s.setRst { s.rst with trained := true }).setRel { s.rel with early := [] }
      trainedAll (forEach early s logWrite)

def execMemoryTrainingDone (modules : List (Option Nat)) (s : State) : Host.Outcome State Fault Refusal :=
  .next (finish s (memoryTrainingDone modules s))

/-! ### BRINGUP_READY, BRINGUP_SLOW (rules R231, R304, R344, R345, R350, R361) -/

/-- COPYING entries that an L2 episode has left go back to their source (rule R231). -/
def revertMoves (s : State) : State :=
  forEach (s.tier.folios.filter fun x => x.2.valid && x.2.state == 1) s fun s x =>
    let s := modFolio s x.1 fun f => { f with state := 0, dest := 0 }
    let c := s.tier.cur
    let s := s.setTier { s.tier with cur := { c with moves := c.moves.filter fun m => m.folio != x.1 } }
    logPush s (logSrc 7 0) 0x0002 [x.1, 1, b2n (!x.2.tier)]

/-- The record and the event that a trip owes (rule R361, Table 17.4). -/
def tripOwed (s : State) : State :=
  if s.pwr.tripLog then
    let s := logPush s (logSrc 0 0) 0x0007 [s.pwr.tripSensor.toNat, s.pwr.tripTemp.toNat]
    mgmtEvent (s.setPwr { s.pwr with tripLog := false }) 0x06 (pwrStatWord s.pwr)
  else s

/-- The end of a bring-up: the firmware copy in the Stacks device reserve, the watchdog, READY (Table 13.7). -/
def bringupReady (s : State) : State :=
  if !atStep s 5 || s.rst.safe then s
  else
    let s := aloneNode (revertMoves s)
    let now := s.clk.now.toNat
    let s := s.setDesk { s.desk with ready := true }
    let s := s.setInv { s.inv with enabled := true, cursor := [], swept := [],
                                   began := ((List.range 33).map fun e => (e, now)).filter fun x => x.2 != 0 }
    let s := s.setRel { s.rel with scrubbed := (0, 0), scrubFrom := (now, now),
                                   firstReady := s.rel.firstReady.orElse fun _ => some s.clk.now }
    let s := s.setPwr { s.pwr with state := .active }
    tripOwed (s.setRst { s.rst with bringup := none, step := 6, armed := true, clkOnly := 0, fwCopy := some s.sec.fwDigest })

def execBringupReady (s : State) : Host.Outcome State Fault Refusal := .next (finish s (bringupReady s))

/-- BRINGUP_SLOW: a bring-up, that of an L3 episode too, is more than 1 s beyond its READY time (Table 13.8). -/
def bringupSlow (s : State) : State :=
  let local_ := s.rst.episode.isNone && !isOff s && !s.rst.l3Wings.isEmpty
  if ((bringing s).isNone && !local_) || s.rst.slow then s
  else mgmtEvent (s.setRst { s.rst with slow := true }) 0x01 (causeWord s.rst.cause)

def execBringupSlow (s : State) : Host.Outcome State Fault Refusal := .next (finish s (bringupSlow s))

end Sys2Proof.Machine
end

