-- ==== Sys2Proof/Machine/Power.lean ====
section
/-! DEFINITION. Power states, clock and voltage, thermal limits (rules R349 to R363, R380, R401, R436, R442). The commands
ACTIVE_REQUEST, DROWSE_REQUEST, OFF_REQUEST, DROWSE_ENTRY_DONE, WAKE_COMPLETE, DVFS_EVALUATION, AVS_STEP_RESPONSE,
THERMAL_THROTTLE, THROTTLE_RELEASE, THERMAL_TRIP and TRIP_SENSOR_COOLED. -/

namespace Sys2Proof.Machine

/-! ### Requests (rules R351, R395) -/

/-- A folio command is in progress. -/
def folioBusy (s : State) : Bool := s.desk.cmds.any fun c => opNamesFolio (mbOp (getMb s c.f c.k)) || mbOp (getMb s c.f c.k) == 0x30

/-- The conditions of rule R351, and no control core halted (rule R395). -/
def mayPowerDown (s : State) : Bool :=
  s.desk.ready && s.desk.queues.all (fun x => x.2.rounds.isEmpty && x.2.resv.isNone) && s.tier.cur.moves.isEmpty && !folioBusy s &&
    s.sec.halted == 0

/-- A request applies now: 1 ACTIVE, 2 DROWSE, 3 OFF. -/
def applyRequest (req : Nat) (s : State) : State :=
  let p := s.pwr
  if req = 1 then wakeRequest (s.setPwr { p with result := 0 })
  else if mayPowerDown s then
    if req = 2 && p.state == .drowse then s.setPwr { p with result := 0 }
    else pertStop (s.setPwr { p with state := .entering, offing := req == 3, result := 0 })
  else s.setPwr { p with result := 1 }

/-- A request: held during an entry or a wake, otherwise applied. REQ = 0 asks for nothing. -/
def powerRequest (req : Nat) (s : State) : State :=
  let p := s.pwr
  if req = 0 then s
  else if p.state == .entering || p.state == .waking then
    s.setPwr { p with held := p.held ++ [BitVec.ofNat 2 req], result := 2 }
  else applyRequest req s

/-- A host write of PWR_CTL. -/
def pwrCtl (req : Nat) (autoWake : Bool) (s : State) : State :=
  barWrite 0x300000 (BitVec.ofNat 32 (4 * b2n autoWake + req))
    (fun s => powerRequest req (s.setPwr { s.pwr with autoWake := autoWake })) s

def execActiveRequest (autoWake : Bool) (s : State) : Host.Outcome State Fault Refusal := .next (finish s (pwrCtl 1 autoWake s))
def execDrowseRequest (autoWake : Bool) (s : State) : Host.Outcome State Fault Refusal := .next (finish s (pwrCtl 2 autoWake s))
def execOffRequest (autoWake : Bool) (s : State) : Host.Outcome State Fault Refusal := .next (finish s (pwrCtl 3 autoWake s))

/-- Held requests apply in the order of arrival until one starts a transition; fuel: the requests held. -/
def applyHeld (s : State) : Nat → State
  | 0 => s
  | n + 1 =>
    match s.pwr.held with
    | [] => s
    | r :: rest =>
      if s.pwr.state == .entering || s.pwr.state == .waking then s
      else applyHeld (applyRequest r.toNat (s.setPwr { s.pwr with held := rest })) n

/-! ### Transitions (rules R350, R353, R354, R442) -/

/-- A Wing loses its power: its registers take their reset values but those kept through L3, its memories lose their contents. -/
def wingOff (w : Nat) (s : State) : State :=
  let s := zeroFill (resetWing w s) (wingRange w).1 (wingRange w).2
  modWing s w fun x => { x with powered := false, temp := 0 }

/-- Off: everything but the always-on domain is lost (rules R353, R400). -/
def goOff (s : State) : State :=
  let s := resetLogic 1 s
  s.setPwr { s.pwr with state := .off }

/-- DROWSE_ENTRY_DONE. -/
def drowseEntryDone (s : State) : State :=
  if s.pwr.state != .entering then s
  else if s.pwr.offing then goOff s
  else
    let s := s.setArrs { s.arrs with groups := [] }
    let s := forEach (List.range 32) s fun s w => wingOff w s
    let s := (s.setPwr { s.pwr with state := .drowse }).setRst { s.rst with qAclk := false }
    applyHeld s s.pwr.held.length

def execDrowseEntryDone (s : State) : Host.Outcome State Fault Refusal := .next (finish s (settle (drowseEntryDone s)))

/-- Rounds parsed before the wake ends miss a list that has closed already (rule R354). -/
def missList (s : State) : State :=
  if !s.tick.closed then s
  else
    let late := fun (x : Queue) => { x with rounds := x.rounds.map fun r => if r.state == .waiting then { r with late := true } else r }
    s.setDesk { s.desk with queues := s.desk.queues.map fun x => (x.1, late x.2) }

/-- WAKE_COMPLETE: every group of Wings is up, 160 µs after the wake began. -/
def wakeComplete (s : State) : State :=
  let due := match s.pwr.wakeFrom with
    | some t => decide (160000 ≤ (s.clk.now - t).toNat)
    | none => false
  if s.pwr.state != .waking || !due || (nextGroup s).isSome then s
  else
    let now := s.clk.now.toNat
    let s := s.setInv { s.inv with cursor := [], swept := [], began := ((List.range 33).map fun e => (e, now)).filter fun x => x.2 != 0 }
    let s := missList (s.setPwr { s.pwr with state := .active, wakeFrom := none })
    applyHeld s s.pwr.held.length

def execWakeComplete (s : State) : Host.Outcome State Fault Refusal := .next (finish s (settle (wakeComplete s)))

/-! ### Operating points (Table 14.3) and AVSBus (rules R356, R436) -/

/-- ACLK in MHz and VCORE in mV, lowest first. -/
def opPoints : List (Nat × Nat) :=
  [(600, 600), (700, 630), (800, 660), (900, 680), (1000, 700), (1100, 720), (1200, 740), (1250, 750), (1300, 765), (1400, 800)]

/-- The setpoint of a point. -/
def pointMv (mhz : Nat) : Nat := ((opPoints.find? fun x => x.1 == mhz).map fun x => x.2).getD 750

/-- The highest point that a test accepts. -/
def topPoint (p : Nat → Bool) : Option Nat := ((opPoints.filter fun x => p x.1).getLast?).map fun x => x.1

/-- The next point above. -/
def nextPoint (mhz : Nat) : Option Nat := (opPoints.find? fun x => mhz < x.1).map fun x => x.1

/-- ACLK changes: one record (Table 15.5, event 0x0001). -/
def setAclk (mhz cause : Nat) (s : State) : State :=
  let p := s.pwr
  let s := s.setPwr { p with aclkMhz := BitVec.ofNat 11 mhz }
  logPush s (logSrc 0 0) 0x0001 [65536 * p.aclkMhz.toNat + mhz, p.vcoreMv.toNat, cause]

/-- The setpoint of the step in hand: 750 mV before the first step after bring-up, otherwise at most 10 mV nearer to the target. -/
def avsNext (p : Pwr) (target : Nat) : Nat :=
  let v := p.vcoreMv.toNat
  if p.boot then 750 else if v < target then min target (v + 10) else max target (v - 10)

/-- Writes the setpoint of the step in hand. -/
def avsWrite (s : State) : State :=
  match s.pwr.avs with
  | some r => emit s (.avs (avsNext s.pwr r.target))
  | none => s

/-- A change of VCORE that has reached its target ends; a step up then changes ACLK, except under a throttle or above the
limit of an aged device (rules R360, R380). -/
def avsEnd (s : State) : State :=
  match s.pwr.avs with
  | none => s
  | some r =>
    let s := s.setPwr { s.pwr with avs := none }
    if r.up && !s.pwr.throttle && !(s.rel.aged && decide (1300 < r.aclk)) then
      setAclk r.aclk r.cause (s.setPwr { s.pwr with lastUp := some s.clk.now })
    else s

/-- A change of VCORE begins. -/
def avsStart (r : AvsRun) (s : State) : State :=
  let s := s.setPwr { s.pwr with avs := some r }
  if s.pwr.vcoreMv.toNat = r.target && !s.pwr.boot then avsEnd s else avsWrite s

/-- AVS_STEP_RESPONSE: a Good response makes the step; after 3 attempts the change is abandoned where it stands. -/
def avsStepResponse (good : Bool) (s : State) : State :=
  match s.pwr.avs with
  | none => s
  | some r =>
    let p := s.pwr
    if good then
      let v := avsNext p r.target
      let s := s.setPwr { p with vcoreMv := BitVec.ofNat 10 v, boot := false, avs := some { r with tries := 0 } }
      if v = r.target then avsEnd s else avsWrite s
    else if r.tries + 1 < 3 then avsWrite (s.setPwr { p with avs := some { r with tries := r.tries + 1 } })
    else s.setPwr { p with avs := none }

def execAvsStepResponse (good : Bool) (s : State) : Host.Outcome State Fault Refusal := .next (finish s (avsStepResponse good s))

/-- VCORE goes to the setpoint of a point at or below the ACLK in force. -/
def lowerCore (mhz cause : Nat) (s : State) : State :=
  avsStart { start := s.pwr.vcoreMv.toNat, target := pointMv mhz, aclk := mhz, up := false, tries := 0, cause := cause } s

/-- A step down changes ACLK, then lowers VCORE. Until the pins are released the AVSBus outputs are disabled (Table 18.1), and VCORE
stays for firmware's next evaluation. -/
def stepDown (mhz cause : Nat) (s : State) : State :=
  let s := if s.pwr.aclkMhz.toNat = mhz then s else setAclk mhz cause s
  if s.rst.pinsReleased then lowerCore mhz cause s else s

/-- An evaluation that changes no operating point tries again what an abandoned change has left: VCORE goes to the setpoint of the
point in force (rules R355, R436). -/
def retryCore (s : State) : State :=
  let mhz := s.pwr.aclkMhz.toNat
  if s.pwr.avs.isNone && s.pwr.vcoreMv.toNat != pointMv mhz then lowerCore mhz 0 s else s

/-- A step up raises VCORE, then changes ACLK. -/
def stepUp (mhz cause : Nat) (s : State) : State :=
  avsStart { start := s.pwr.vcoreMv.toNat, target := pointMv mhz, aclk := mhz, up := true, tries := 0, cause := cause } s

/-! ### DVFS_EVALUATION (rules R357, R359, R380) -/

/-- The hottest sensor and its reading; the lowest number among equals. -/
def hottest (temps : List Nat) : Nat × Nat :=
  (temps.take 69).zipIdx.foldl (fun b x => if b.2 < x.1 then (x.2, x.1) else b) (0, 0)

/-- The measurements show in PWR_PKG, PWR_TEMP and DSK_WING_STAT (Tables 14.11, 14.12, 19.9). -/
def showSample (m : PowerSample) (s : State) : State :=
  let h := hottest m.temps
  let s := s.setPwr { s.pwr with avg100us := BitVec.ofNat 16 m.p100, avg1ms := BitVec.ofNat 16 m.p1ms, hbmC := BitVec.ofNat 8 m.hbm,
                                 sensor := BitVec.ofNat 7 h.1, dieC := BitVec.ofNat 8 h.2 }
  forEach (List.range 32) s fun s w =>
    let t := max (m.temps.getD (2 * w) 0) (m.temps.getD (2 * w + 1) 0)
    modWing s w fun x => { x with temp := if x.powered then BitVec.ofNat 8 t else 0 }

/-- The evaluation finds P100 over the cap at 0.60 GHz: pacing goes one step deeper from the second such evaluation on. -/
def paceDown (s : State) : State :=
  let p := s.pwr
  let n := p.overs + 1
  if n < 2 then s.setPwr { p with overs := n }
  else if p.pace.toNat < 3 then s.setPwr { p with overs := n, pacing := true, pace := p.pace + 1 }
  else if p.capUnmet then s.setPwr { p with overs := n }
  else
    let s := s.setPwr { p with overs := n, capUnmet := true }
    mgmtEvent s 0x06 (pwrStatWord s.pwr)

/-- Pacing is relaxed by one step at or below 97 % of the cap. -/
def paceUp (s : State) : State :=
  let p := s.pwr
  if p.pace = 0 then s else s.setPwr { p with pace := p.pace - 1, pacing := p.pace.toNat != 1 }

/-- Whether firmware may step up now. -/
def mayStepUp (m : PowerSample) (s : State) : Bool :=
  let p := s.pwr
  let cap := p.capInForce.toNat
  let spaced := match p.lastUp with
    | some t => decide (1000000 ≤ (s.clk.now - t).toNat)
    | none => true
  m.calm && decide (100 * m.p1ms ≤ 97 * cap) && decide (100 * m.p100 ≤ 97 * cap) && decide ((hottest m.temps).2 ≤ 95) &&
    decide (m.amps ≤ 1235) && !p.throttle && !p.pacing && p.avs.isNone && spaced

def dvfsEvaluation (m : PowerSample) (s : State) : State :=
  if !s.desk.ready || isOff s then s
  else
    let s := showSample m s
    let cap := s.pwr.capInForce.toNat
    let die := (hottest m.temps).2
    let aclk := s.pwr.aclkMhz.toNat
    let overCap := decide (cap < m.p100)
    let s := if overCap then s else s.setPwr { s.pwr with capUnmet := false }
    let paced := s.pwr.pacing
    let s := if 100 * m.p100 ≤ 97 * cap then paceUp s else s
    if overCap || decide (100 ≤ die) || decide (1300 < m.amps) then
      let cause := if overCap then 0 else if 100 ≤ die then 4 else 5
      if aclk = 600 then retryCore (if overCap then paceDown s else s.setPwr { s.pwr with overs := 0 })
      else
        let goal := ((topPoint fun x => decide (x < aclk) && decide (x ≤ m.predicted)).getD 600)
        stepDown goal cause (s.setPwr { s.pwr with overs := 0 })
    else
      let s := s.setPwr { s.pwr with overs := 0 }
      match nextPoint aclk with
      | none => retryCore s
      | some n => if mayStepUp m s && !(s.rel.aged && decide (1300 < n)) then stepUp n (if paced then 3 else 1) s else retryCore s

def execDvfsEvaluation (m : PowerSample) (s : State) : Host.Outcome State Fault Refusal := .next (finish s (dvfsEvaluation m s))

/-! ### Heat (rules R360, R361) -/

def thermalThrottle (sensor temp hbm : Nat) (s : State) : State :=
  let hotNow := (decide (sensor ≤ 68) && decide (105 ≤ temp)) || decide (95 ≤ hbm)
  if !hotNow || s.pwr.throttle || isOff s || s.rst.episode.any (fun e => e.level != 3) then s
  else stepDown 600 2 (s.setPwr { s.pwr with throttle := true, throttles := satAdd s.pwr.throttles 1 })

def execThermalThrottle (sensor temp hbm : Nat) (s : State) : Host.Outcome State Fault Refusal :=
  .next (finish s (thermalThrottle sensor temp hbm s))

def execThrottleRelease (die hbm : Nat) (s : State) : Host.Outcome State Fault Refusal :=
  .next (finish s (if die < 100 && hbm < 90 then s.setPwr { s.pwr with throttle := false } else s))

/-- THERMAL_TRIP: every domain but AON goes off at once, whatever transition or episode is in progress; an
unfinished bring-up stays unfinished (rule R332). -/
def thermalTrip (sensor temp : Nat) (s : State) : State :=
  if temp < 115 ∨ 68 < sensor then s
  else
    let left := match s.rst.episode with
      | some e => if e.level = 3 then s.rst.bringup else some e.level
      | none => s.rst.bringup
    let s := goOff s
    let s := s.setRst { s.rst with episode := none, bringup := left }
    s.setPwr { s.pwr with tripped := true, tripSensor := BitVec.ofNat 8 sensor, tripTemp := BitVec.ofNat 8 temp, therm := true,
                          hot := true, tripLog := true }

def execThermalTrip (sensor temp : Nat) (s : State) : Host.Outcome State Fault Refusal :=
  .next (finish s (settle (thermalTrip sensor temp s)))

def execTripSensorCooled (temp : Nat) (s : State) : Host.Outcome State Fault Refusal :=
  .next (finish s (if temp < 95 then s.setPwr { s.pwr with hot := false } else s))

end Sys2Proof.Machine
end

