-- ==== Sys2Proof/Machine/Wear.lean ====
section
/-! DEFINITION. Wear (rules R378 to R380). The commands FOXING_MEASURE and STACK_MARGIN_MEASURE. -/

namespace Sys2Proof.Machine

/-- Firmware measures in Active and Idle. -/
def measures (s : State) : Bool := s.desk.ready && (s.pwr.state == .active || s.pwr.state == .idle)

/-- R0 of a monitor, from FOXING_R0 of the option block in force. -/
def foxR0 (s : State) (i : Nat) : Rat :=
  match s.rst.opt with
  | some o => o.foxing.getD i 1
  | none => 1

/-- The degradation D of a monitor from f_s and f_r. -/
def foxD (r0 fs fr : Rat) : Rat := 1 - fs / fr / r0

/-- Days of service: calendar days since the first READY that the Vault records (rule R379). -/
def serviceDays (s : State) : Nat :=
  match s.rel.firstReady with
  | some t => (s.clk.now - t).toNat / 86400000000000
  | none => 0

/-- What of an item's history lies in the last n days. -/
def lastDays (n today : Nat) (l : List (Nat × Rat)) : List (Nat × Rat) := l.filter fun x => decide (today < x.1 + n)

/-- A value of a day added to an item's history, which reaches back over a number of days. -/
def addDaily (keep : Nat) (day : Nat) (t : Tab (List (Nat × Rat))) (i : Nat) (v : Rat) : Tab (List (Nat × Rat)) :=
  tabSet [] t i (lastDays keep day (tabGet [] t i) ++ [(day, v)])

def ratSum (l : List Rat) : Rat := l.foldl (fun a b => a + b) 0

/-! ### Trends (Table 15.8) -/

/-- The line of least squares through points: its slope, and the means of x and of y through which it goes; none when all points
share one x. -/
def lineFit (ps : List (Rat × Rat)) : Option (Rat × Rat × Rat) :=
  let n : Rat := ((ps.length : Nat) : Rat)
  let mx := ratSum (ps.map fun p => p.1) / n
  let my := ratSum (ps.map fun p => p.2) / n
  let sxx := ratSum (ps.map fun p => (p.1 - mx) * (p.1 - mx))
  if ps.isEmpty || sxx == 0 then none else some (ratSum (ps.map fun p => (p.1 - mx) * (p.2 - my)) / sxx, mx, my)

/-- Whole days from today to a moment in days of service; fractions of a day are dropped (notes/assumptions/103). -/
def daysLeft (t : Rat) (today : Nat) : Nat := (t - ((today : Nat) : Rat)).floor.toNat

/-- A margin that falls: the days to its limit. -/
def linearDays (limit : Rat) (today : Nat) (l : List (Nat × Rat)) : Option Nat :=
  match lineFit (l.map fun x => (((x.1 : Nat) : Rat), x.2)) with
  | some (b, mx, my) => if b < 0 then some (daysLeft (mx + (limit - my) / b) today) else none
  | none => none

/-- Bits after the point in the logarithms of a trend. -/
def trendBits : Nat := 128

/-- 2^k for a whole number k. -/
def pow2Q (k : Int) : Rat := if k < 0 then 1 / ((2 ^ k.natAbs : Nat) : Rat) else ((2 ^ k.natAbs : Nat) : Rat)

/-- A multiple of 2^−128 as a rational. -/
def ofTrend (n : Int) : Rat := (n : Rat) / ((2 ^ trendBits : Nat) : Rat)

/-- ln q for q > 0. -/
def lnRat (q : Rat) : Rat :=
  let e : Int := (Nat.log2 q.num.natAbs : Int) - (Nat.log2 q.den : Int)
  let m := q / pow2Q e
  let (e, m) := if m < 1 then (e - 1, 2 * m) else (e, m)
  (e : Rat) * ofTrend (ivLn trendBits 2).1 + ofTrend (ivLn trendBits m).1

/-- The days to D = 4.0 % on the curve D = A·t^k that fits the daily means; past the range of DAYS, its end. -/
def foxingDays (today : Nat) (l : List (Nat × Rat)) : Option Nat :=
  let ps := (l.filter fun x => decide (0 < x.1) && decide (0 < x.2)).map fun x => (lnRat ((x.1 : Nat) : Rat), lnRat x.2)
  match lineFit ps with
  | some (k, mx, my) =>
    if k ≤ 0 then none
    else
      let u := mx + (lnRat (4 / 100) - my) / k
      some (if u < 0 then 0 else if 16 < u then 0xFFFF else daysLeft (ofTrend (ivExp trendBits u).1) today)
  | none => none

/-- A prediction: days, KIND and LIMITER. -/
abbrev Prediction := Nat × Nat × Nat

/-- Items with data of 7 days, each with its prediction; of lanes and channels those of the last 90 days (Table 15.8). -/
def predictions (s : State) : List Prediction :=
  let r := s.rel
  let today := serviceDays s
  let recent := fun (t : Tab (List (Nat × Rat))) => t.map fun x => (x.1, lastDays 90 today x.2)
  let of_ := fun (kind : Nat) (t : Tab (List (Nat × Rat))) (f : List (Nat × Rat) → Option Nat) =>
    (t.filter fun x => 7 ≤ (nub (x.2.map fun y => y.1)).length).filterMap fun x => (f x.2).map fun d => (d, kind, x.1)
  of_ 0 r.foxMeans (foxingDays today) ++ of_ 1 (recent r.laneDays) (linearDays 12 today) ++
    of_ 2 (recent r.chanDays) (linearDays (8 / 100) today)

/-- The smallest prediction; the first among equals. -/
def soonest (l : List Prediction) : Option Prediction :=
  l.foldl (fun b x => match b with
    | none => some x
    | some y => if x.1 < y.1 then some x else b) none

/-- The hourly report in REL_LIFE, and what a threshold crossed for the first time leads to (rules R379, R380). -/
def reportLife (s : State) : State :=
  let r := s.rel
  match soonest (predictions s) with
  | none => s.setRel { r with kind := 3, limiter := 0, days := 0xFFFF }
  | some (d, kind, lim) =>
    let days := min d 0xFFFF
    let s := s.setRel { r with kind := BitVec.ofNat 2 kind, limiter := BitVec.ofNat 13 lim, days := BitVec.ofNat 16 days }
    let src := if kind = 0 then logSrc 8 lim else logSrc 0 0
    forEach ([365, 90, 30].filter fun n => decide (days < n) && !r.lifeSeen.contains n) s fun s n =>
      let s := logPush (s.setRel { s.rel with lifeSeen := s.rel.lifeSeen ++ [n] }) src 0x0020 [days, lim]
      mgmtEvent s 0x07 (lifeWord s.rel)

/-- Firmware's daily work: the means of D go into the history with the days of service, and it keeps every one (rule R378). -/
def endDay (s : State) : State :=
  let r := s.rel
  let day := serviceDays s
  let means := r.foxDay.foldl (fun t x => addDaily (day + 1) day t x.1 (ratSum x.2 / (x.2.length : Nat))) r.foxMeans
  s.setRel { r with foxDay := [], foxMeans := means }

/-- FOXING_MEASURE. monitors: number, f_s and f_r; lanes: number and eye margin in mV of each lane of a port that is UP. -/
def foxingMeasure (monitors : List (Nat × Rat × Rat)) (lanes : List (Nat × Rat)) (dayEnd : Bool) (s : State) : State :=
  if !measures s then s
  else
    let ds := (monitors.filter fun x => decide (x.1 ≤ 33)).map fun x => (x.1, foxD (foxR0 s x.1) x.2.1 x.2.2)
    let lanes := lanes.filter fun x => decide (x.1 ≤ 35) && portUp s (x.1 / 4)
    let r := s.rel
    let day := ds.foldl (fun t x => tabSet [] t x.1 (tabGet [] t x.1 ++ [x.2])) r.foxDay
    let aged := ds.any fun x => decide ((4 / 100 : Rat) ≤ x.2)
    let ls := lanes.foldl (fun t x => addDaily 90 (serviceDays s) t x.1 x.2) r.laneDays
    let s := s.setRel { r with foxDay := day, laneDays := ls, aged := aged }
    let s := reportLife (if dayEnd then endDay s else s)
    if aged && decide (1300 < s.pwr.aclkMhz.toNat) then stepDown 1300 6 s else s

def execFoxingMeasure (monitors : List (Nat × Rat × Rat)) (lanes : List (Nat × Rat)) (dayEnd : Bool) (s : State) :
    Host.Outcome State Fault Refusal :=
  .next (finish s (foxingMeasure monitors lanes dayEnd s))

/-- STACK_MARGIN_MEASURE: the read timing margin, in unit intervals, of each channel (32·stack + channel). -/
def stackMarginMeasure (channels : List (Nat × Rat)) (s : State) : State :=
  if !measures s then s
  else
    let r := s.rel
    let cs := (channels.filter fun x => decide (x.1 < 256)).foldl (fun t x => addDaily 90 (serviceDays s) t x.1 x.2) r.chanDays
    s.setRel { r with chanDays := cs }

def execStackMarginMeasure (channels : List (Nat × Rat)) (s : State) : Host.Outcome State Fault Refusal :=
  .next (finish s (stackMarginMeasure channels s))

end Sys2Proof.Machine
end

