-- ==== Sys2Proof/Machine/Fabric.lean ====
section
/-! DEFINITION. The Brusol fabric (chapter 12): flits and retry, hellos and the manager, MGMT slips and time, and the slips that
reach this node. The commands FLIT_RECEIVE, NAK, HELLO_SEND, HELLO_MESSAGE, HELLO_TIMEOUT, LANE_LOCK_LOSS, PORT_TRAINING_DONE,
PORT_CONGESTED, MANAGER_ELECTION_TIMEOUT, MGMT_SLIP, TIME_SYNC_EXCHANGE, TIME_SYNC_LOST, SLIP_FORWARD, WRITE_SLIP, READ_SLIP,
READ_DATA, ADD_SLIP, RTS, CTS, ACK, LATE_BURST, SLIP_RESEND_TIMEOUT and AISLES_UNIT_CRC_FAIL. -/

namespace Sys2Proof.Machine

/-! ### Flits (rules R295 to R297, R300) -/

/-- A NAK with the expected SEQ; the eighth for one SEQ retrains the port. -/
def sendNak (s : State) (p : Nat) : State :=
  let x := getPort s p
  let n := if x.nakSeq = x.rxSeq then x.naks + 1 else 1
  let s := emit (setPort s p { x with discarding := true, naks := n, nakSeq := x.rxSeq }) (.nak p x.rxSeq.toNat)
  let s := sendCtl s p ctlNak (bytesOf 2 x.rxSeq.toNat)
  if n = 8 then retrain s p else s

/-- A flit that fails its CRC or comes out of sequence is discarded; later ones until the replay need no NAK of their own. -/
def dropFlit (s : State) (p : Nat) (bad : Bool) : State :=
  let x := getPort s p
  let s := setPort s p { x with crc := satAdd x.crc 1 }
  if bad || !x.discarding then sendNak s p else s

/-- A slip's data in an accepted flit; a slip that is whole leaves the receive buffer, whose credits are owed to the peer. -/
def takeSlipData (s : State) (p : Nat) (data : List Byte) : State :=
  let x := getPort s p
  let got := x.rx ++ [data]
  let sl := slipOfBytes got.flatten
  if got.length < slipFlits sl.len.toNat then setPort s p { x with rx := got }
  else emit (setPort s p { x with rx := [], owed := addAt x.owed sl.vc.toNat got.length }) (.received p sl)

/-- An accepted flit's data: a link control message goes to the port's link control, and its effect is that of the command NAK,
HELLO_MESSAGE or TIME_SYNC_EXCHANGE which carries it. -/
def takeData (s : State) (p : Nat) (data : List Byte) : State :=
  match if (getPort s p).rx.isEmpty then ctlOf data else none with
  | some c => emit s (.control p c.1 c.2)
  | none => takeSlipData s p data

/-- Whether the flits from SEQ a on are still to be acknowledged by a peer that expects SEQ k. -/
def unacked (tx k a : BitVec 12) : Bool := decide ((tx - a).toNat ≤ (tx - k).toNat)

/-- FLIT_RECEIVE. fec: symbols that FEC corrected in it. -/
def flitReceive (p : Nat) (flit : List Byte) (fec : Nat) (s : State) : State :=
  let x := getPort s p
  if x.state ≠ 2 then s
  else
    let s := setPort s p { x with fec := satAdd x.fec fec }
    let w := natOf (flit.take 4)
    let good := flit.length == 256 && natOf (flit.drop 252) == (crc32 (flit.take 252)).toNat
    if !good then dropFlit s p true
    else if bits 31 20 w ≠ x.rxSeq.toNat then dropFlit s p false
    else
      let k := BitVec.ofNat 12 (bits 19 8 w)
      let s := modPort s p fun y =>
        creditBack { y with rxSeq := y.rxSeq + 1, discarding := false, naks := 0,
                            sent := y.sent.filter fun f => unacked y.txSeq k f.1 } (bits 7 5 w) (bits 4 0 w)
      pumpPort (takeData s p ((flit.drop 4).take 248)) p

def execFlitReceive (p : Fin 9) (flit : List Byte) (fecSymbols : Nat) (s : State) : Host.Outcome State Fault Refusal :=
  .next (finish s (flitReceive p flit fecSymbols s))

/-- NAK: the port replays from the flit that the peer expects; after 8 for one SEQ the link retrains, and the replay waits for
that. -/
def nakReceive (p : Nat) (seq : BitVec 12) (s : State) : State :=
  let x := getPort s p
  if x.state ≠ 2 then s
  else
    let n := if x.nakGotSeq = seq then x.nakGot + 1 else 1
    let s := setPort s p { x with nakGot := n, nakGotSeq := seq, replay := satAdd x.replay (b2n (n != 8)),
                                  sent := x.sent.filter fun f => unacked x.txSeq seq f.1 }
    if n = 8 then retrain s p else replayFrom s p seq

def execNak (p : Fin 9) (seq : BitVec 12) (s : State) : Host.Outcome State Fault Refusal := .next (finish s (nakReceive p seq s))

/-! ### Training (rules R294, R297) -/

def execHelloTimeout (p : Fin 9) (s : State) : Host.Outcome State Fault Refusal :=
  .next (finish s (if portUp s p then retrain s p else s))

def laneLockLoss (p : Nat) (lane : Nat) (s : State) : State :=
  if portUp s p then retrain (modPort s p fun x => { x with lanes := x.lanes &&& ~~~BitVec.ofNat 4 (2 ^ lane) }) p else s

def execLaneLockLoss (p : Fin 9) (lane : Fin 4) (s : State) : Host.Outcome State Fault Refusal :=
  .next (finish s (laneLockLoss p lane s))

/-- Ports may train: the SERDES domain runs and the device is not in safe mode. -/
def mayTrain (s : State) : Bool :=
  s.rst.qSerdes && s.rst.pinsReleased && !s.rst.safe && !isOff s && s.rst.episode.all fun e => e.level == 3

/-- PORT_TRAINING_DONE. lanes: the lanes that work. -/
def portTrainingDone (p : Nat) (good : Bool) (lanes : BitVec 4) (s : State) : State :=
  let x := getPort s p
  let width := widthOf lanes
  if x.state = 2 || !mayTrain s then s
  else if good && width != 0 then
    let s := setPort s p { x with state := 2, width := BitVec.ofNat 2 width, lanes := lanes, failedTrains := 0 }
    if x.state = 0 then portRecord s p 2 width
    else
      match x.sent with
      | [] => pumpPort s p
      | f :: _ => pumpPort (replayFrom (modPort s p fun y => { y with replay := satAdd y.replay 1 }) p f.1) p
  else if x.state = 0 then s
  else if x.failedTrains + 1 < 3 then setPort s p { x with failedTrains := x.failedTrains + 1 }
  else portDown s p

def execPortTrainingDone (p : Fin 9) (good : Bool) (lanes : BitVec 4) (s : State) : Host.Outcome State Fault Refusal :=
  .next (finish s (portTrainingDone p good lanes s))

/-- PORT_CONGESTED: the pool has been below 64, or above 256, free credits for 10 µs (rule R307). -/
def portCongested (p : Nat) (s : State) : State :=
  let x := getPort s p
  let free := sharedFree (reservedAny s) x
  if x.state = 2 && ((!x.congested && decide (free < 64)) || (x.congested && decide (256 < free))) then flipCongested s p else s

def execPortCongested (p : Fin 9) (s : State) : Host.Outcome State Fault Refusal := .next (finish s (portCongested p s))

/-! ### Hellos and the manager (rules R301 to R305) -/

/-- HELLO_SEND: a hello on every UP port. -/
def helloSend (s : State) : State :=
  forEach (List.range 9) s fun s p =>
    if portUp s p then sendCtl (emit s (.hello p (helloOf s p))) p ctlHello (helloBody (helloOf s p)) else s

def execHelloSend (s : State) : Host.Outcome State Fault Refusal := .next (finish s (helloSend s))

/-- This node hears of a candidate, in a hello, as a manager that explores, or as a node that its own exploration finds: one with a
lower serial number takes the manager's place, so that the lowest of those that can reach one another stays (rule R302). -/
def hearOf (s : State) (serial : W64) : State :=
  s.setFab { s.fab with heard := (s.fab.heard.filter fun x => x != serial) ++ [serial],
                        manager := s.fab.manager && !decide (serial.toNat < serialNo.toNat) }

/-- HELLO_MESSAGE: the peer's ID, and its candidacy. -/
def helloMessage (p : Nat) (h : Hello) (s : State) : State :=
  if !portUp s p then s
  else
    let s := modPort s p fun x => { x with peerValid := h.assigned, peerNode := h.node }
    if h.candidate then hearOf s h.serial else s

def execHelloMessage (p : Fin 9) (h : Hello) (s : State) : Host.Outcome State Fault Refusal := .next (finish s (helloMessage p h s))

/-- MANAGER_ELECTION_TIMEOUT: 50 ms have passed. A candidate that has heard of no lower-numbered candidate in them becomes manager;
the manager explores again; a node that is no candidate and has heard of none runs alone, at once without an ID, and with one when
the next candidate has had 50 ms of its own to take over (rules R302 to R305; notes/assumptions/77). -/
def managerTimeout (s : State) : State :=
  let low := s.fab.heard.any fun x => decide (x.toNat < serialNo.toNat)
  let t := s.setFab { s.fab with heard := [], silent := s.fab.heard.isEmpty }
  if !((List.range 9).any (portUp s)) then s
  else if s.fab.candidate then
    if s.fab.manager then startSurvey t else if low then t else becomeManager t
  else if s.fab.heard.isEmpty && (!s.fab.assigned || s.fab.silent) then runAlone t
  else t

def execManagerElectionTimeout (s : State) : Host.Outcome State Fault Refusal := .next (finish s (managerTimeout s))

/-- MGMT_SLIP: what the manager sets on this node; a slip that explores is answered on the port by which it came, one whose route
goes on is passed on. -/
def mgmtSlip (op : MgmtOp) (s : State) : State :=
  if !((List.range 9).any (portUp s)) then s
  else
    match op with
    | .assign node =>
      let alone := s.fab.alone
      ownEntry (s.setFab { s.fab with assigned := true, alone := false, manager := false, nodeId := node,
                                      routed := s.fab.routed && !alone, routes := if alone then [] else s.fab.routes })
    | .loadRoutes es => loadRoutes s es
    | .setTime epoch n0 period =>
      if s.tick.source = 2 then
        s.setTick { s.tick with pend := some { source := 2, period := BitVec.ofNat 15 period, epoch := epoch, n0 := n0 } }
      else s.setTick { s.tick with epoch := epoch, n0 := n0 }
    | .setRouted => s.setFab { s.fab with routed := true }
    | .explore mgr entry path back =>
      let s := hearOf s mgr
      sendVia s (entry :: back) 0 (.identity path (helloOf s entry.toNat) (upPorts s))
    | .identity path hello ports =>
      if !s.fab.manager then s
      else
        let back := ((s.fab.survey.found.find? fun f => f.path == path.dropLast).map fun f => f.back).getD []
        let s := if hello.candidate then hearOf s hello.serial else s
        if !s.fab.manager then s
        else surveyAnswer s { hello := hello, path := path, back := hello.port :: back, ports := ports }
    | .via path op => sendVia s path 0 op

def execMgmtSlip (op : MgmtOp) (s : State) : Host.Outcome State Fault Refusal := .next (finish s (mgmtSlip op s))

/-! ### Time (rules R323 to R325) -/

/-- The signed offset from the parent, own time less the parent's, as FAB_TIME_STAT shows it (Table 12.9). -/
def offsetField (d : Int) : BitVec 16 := BitVec.ofInt 16 (max (-32767) (min 32767 d))

/-- A moment moved by a number of ns. -/
def moved (d : Int) (t : W64) : W64 := t + BitVec.ofInt 64 d

/-- The moments that durations are measured from move with a clock that is set, so that no duration changes. -/
def shiftTimes (d : Int) (s : State) : State :=
  let at_ := fun (n : Nat) => ((n : Int) + d).toNat
  let r := s.rel
  let s := s.setRel { r with scrubFrom := (at_ r.scrubFrom.1, at_ r.scrubFrom.2), firstReady := r.firstReady.map (moved d) }
  let began := ((List.range 33).map fun e => (e, at_ (tabGet 0 s.inv.began e))).filter fun x => x.2 != 0
  let s := s.setInv { s.inv with began := began }
  let s := s.setPwr { s.pwr with lastUp := s.pwr.lastUp.map (moved d), wakeFrom := s.pwr.wakeFrom.map (moved d) }
  let s := s.setSec { s.sec with scrubAt := s.sec.scrubAt.map fun x => (x.1, at_ x.2) }
  let s := s.setTick { s.tick with last := moved d s.tick.last, made := moved d s.tick.made, edge := s.tick.edge.map (moved d) }
  let s := s.setRun { s.run with tiles := s.run.tiles.map fun x => { x with waitFrom := x.waitFrom.map (moved d) } }
  s.setDesk { s.desk with lateRecs := s.desk.lateRecs.map fun e => { e with due := moved d e.due },
                          queues := s.desk.queues.map fun x => (x.1, { x.2 with destroyAt := moved d x.2.destroyAt }) }

/-- A node joins for the first time since its last L0 episode: its clock is set. -/
def setClock (parent : W64) (d : Int) (s : State) : State :=
  let s := (shiftTimes d s).setClk { s.clk with now := parent, slew := 0 }
  let s := s.setFab { s.fab with joined := true, synced := true }
  let v := (BitVec.ofInt 64 d).toNat
  logPush s (logSrc 0 0) 0x0006 [v % 2 ^ 32, v / 2 ^ 32]

/-- The timestamped flits of an exchange: one on every UP port (notes/assumptions/77). -/
def sendTimes (s : State) : State :=
  forEach (List.range 9) s fun s p => if portUp s p then sendCtl s p ctlTime (bytesOf 8 s.clk.now.toNat) else s

/-- TIME_SYNC_EXCHANGE. parent: the parent's time now, corrected for the link delay; depth: links to the manager, whose own clock is
the fabric's time. -/
def timeSync (parent : W64) (depth : Nat) (s : State) : State :=
  let s := sendTimes s
  if s.fab.manager || !((List.range 9).any (portUp s)) then s
  else
    let d : Int := (parent.toNat : Int) - s.clk.now.toNat
    let s := s.setFab { s.fab with depth := BitVec.ofNat 8 depth, offset := offsetField (-d) }
    if s.fab.joined then
      (s.setClk { s.clk with slew := d }).setFab { s.fab with synced := decide (-40 ≤ d) && decide (d ≤ 40) }
    else setClock parent d s

def execTimeSyncExchange (parent : W64) (depth : Nat) (s : State) : Host.Outcome State Fault Refusal :=
  .next (finish s (timeSync parent depth s))

/-- TIME_SYNC_LOST: 100 ms without a synchronisation flit (rules R235, R325). -/
def timeSyncLost (s : State) : State :=
  if s.fab.manager || !s.fab.joined then s
  else
    let s := (s.setFab { s.fab with lost := true, synced := false }).setClk { s.clk with slew := 0 }
    if s.tick.source = 2 then tickLost s else s

def execTimeSyncLost (s : State) : Host.Outcome State Fault Refusal := .next (finish s (timeSyncLost s))

/-! ### Slips at this node (rules R309 to R318) -/

/-- Request slips are applied in Active and Idle; one that comes in Drowse is neither applied nor answered (rule R352). -/
def fabricLive (s : State) : Bool := s.desk.ready && (s.pwr.state == .active || s.pwr.state == .idle)

/-- A slip for this node of a kind. -/
def forUs (s : State) (sl : Slip) (kind : Nat) : Bool := sl.dest == s.fab.nodeId && sl.kind.toNat == kind

/-- SLIP_FORWARD: a slip for another node leaves by this node's own entry, or is dropped and counted. The flow keeps its alternative
while that port is UP, since a forwarder does not see which slips of a flow are outstanding (notes/assumptions/61). -/
def slipForward (sl : Slip) (s : State) : State :=
  if sl.dest = s.fab.nodeId then s
  else
    let key := (65536 * sl.src.toNat + sl.dest.toNat) * 8 + sl.vc.toNat
    let cur := tabGet none s.fab.fwd key
    let leaves := s.fab.joined && (pickAlt s (slipClass sl) sl.dest.toNat (cur.getD 0) cur.isSome).isSome
    let (s, alt) := routeOut s sl (cur.getD 0) cur.isSome none
    if slipClass sl = 0 || !leaves then s else s.setFab { s.fab with fwd := tabSet none s.fab.fwd key (some alt) }

def execSlipForward (sl : Slip) (s : State) : Host.Outcome State Fault Refusal := .next (finish s (slipForward sl s))

/-- The checks of rules R316 and R317 on a slip that names n bytes of a folio: 0, or the status of the response. A lookup that meets
a damaged entry answers UNCORRECTABLE (Table 15.2). -/
def slipCheck (s : State) (sl : Slip) (n : Nat) : Nat × State :=
  let fid := sl.folio.toNat
  let (bad, s) := if fid = 0 then (false, s) else readErrors s (entryAddr fid) 16 .remote none
  let fits := folioOk s fid sl.func.toNat && decide (sl.offset.toNat + n ≤ folioSize (getFolio s fid)) &&
    (sl.rank == 0 || sl.rank == rankHint s fid)
  (if bad then 0x0B else if fits then 0 else 3, s)

/-- A part of the rows that another node sends for stations here; with the last part the stations work (rules R19, R315). The answer
carries what they counted for the tile's status. -/
def takeFar (s : State) (sl : Slip) : State × Slip :=
  let mine := fun (x : FarTile) => x.src == sl.src && x.cls == slipClass sl && x.func == sl.func.toNat
  let rest := s.fab.far.filter fun x => !mine x
  let old := if sl.offset = 0 then [] else ((s.fab.far.find? mine).map fun x => x.data).getD []
  let f : FarTile := { src := sl.src, cls := slipClass sl, func := sl.func.toNat, data := old ++ sl.payload }
  if f.data.length < sl.countLen.toNat % 2 ^ 31 then (s.setFab { s.fab with far := rest ++ [f] }, answerTo s sl kAck 0)
  else
    let (code, t, x) := farRun (s.setFab { s.fab with far := rest }) f
    (t, { answerTo t sl kAck code with countLen := BitVec.ofNat 32 x.clip, rank := BitVec.ofNat 8 (b2n x.nonfinite) })

/-- WRITE_SLIP: rows for a folio, rows for stations here, or data of a SEND or a collective. -/
def writeSlip (sl : Slip) (hits : List EccHit) (s : State) : State :=
  if !forUs s sl kWrite || !fabricLive s then s
  else
    let s := addHits s hits
    receiveRequest s sl fun s =>
      if isFar sl then takeFar s sl
      else if sl.folio = 0 && sl.countLen != 0 then
        let t := loanData s sl
        (t, answerTo t sl kAck 0)
      else
        let (code, s) := slipCheck s sl sl.payload.length
        if code ≠ 0 then (s, answerTo s sl kAck code)
        else
          let (ok, t) := storeFolioAs s .remote none sl.folio.toNat sl.offset.toNat sl.payload
          (t, answerTo t sl kAck (if ok then 0 else 0x0B))

def execWriteSlip (sl : Slip) (ecc : List EccHit) (s : State) : Host.Outcome State Fault Refusal :=
  .next (finish s (settle (writeSlip sl ecc s)))

/-- READ_SLIP: COUNT_LEN bytes of a folio go back in READ_DATA. -/
def readSlip (sl : Slip) (hits : List EccHit) (s : State) : State :=
  if !forUs s sl kRead || !fabricLive s then s
  else
    let s := addHits s hits
    let n := sl.countLen.toNat
    receiveRequest s sl fun s =>
      let (code, s) := slipCheck s sl n
      if code ≠ 0 then (s, answerTo s sl kReadData code)
      else
        let (bad, t) := readFolioErrors s sl.folio.toNat [(sl.offset.toNat, n)] .remote none
        if bad then (t, answerTo t sl kReadData 0x0B)
        else
          let bs := folioData s sl.folio.toNat sl.offset.toNat n
          (t, { answerTo t sl kReadData 0 with len := BitVec.ofNat 13 n, payload := bs })

def execReadSlip (sl : Slip) (ecc : List EccHit) (s : State) : Host.Outcome State Fault Refusal :=
  .next (finish s (settle (readSlip sl ecc s)))

/-- ADD_SLIP: one atomic add at the memory controller; a peer signal that fails its checks or meets an uncorrectable word is lost and
counted (rules R313, R316). -/
def applyAdd (sl : Slip) (hits : List EccHit) (s : State) : State :=
  if !forUs s sl kAdd || !fabricLive s then s
  else
    let s := addHits s hits
    let fail := fun (s : State) (code : Nat) =>
      let t := if sl.countLen = 1 then s.setFab { s.fab with sigLost := satAdd s.fab.sigLost 1 } else s
      (t, answerTo t sl kAck code)
    receiveRequest s sl fun s =>
      let (code, s) := slipCheck s sl 8
      if code ≠ 0 then fail s code
      else
        let (bad, t) := readFolioErrors s sl.folio.toNat [(sl.offset.toNat, 8)] .remote none
        if bad then fail t 0x0B
        else
          let v := natOf (folioData s sl.folio.toNat sl.offset.toNat 8) + natOf (sl.payload.take 8)
          let t := (storeFolio t sl.folio.toNat sl.offset.toNat (bytesOf 8 (v % 2 ^ 64))).2
          (t, answerTo t sl kAck 0)

def execAddSlip (sl : Slip) (ecc : List EccHit) (s : State) : Host.Outcome State Fault Refusal :=
  .next (finish s (settle (applyAdd sl ecc s)))

/-- An RTS waits for its turn with its RECV or its collective. -/
def holdRts (s : State) (sl : Slip) : State := s.setFab { s.fab with rtsWait := s.fab.rtsWait ++ [sl] }

/-- RTS: one of a collective is acknowledged and joins its tile or waits; one of a SEND waits for the RECV whose CTS answers it
(rules R318, R320). -/
def rtsReceive (sl : Slip) (s : State) : State :=
  if !forUs s sl kRts || !fabricLive s then s
  else
    let node := sl.src.toNat
    let fl := getRx s node (slipClass sl)
    if isRing sl then
      receiveRequest s sl fun s =>
        let t := match collFor s sl with
          | some x => collRts s x sl
          | none => holdRts s sl
        (t, answerTo t sl kAck 0)
    else if sl.seq = fl.seq then holdRts (setRx s node (slipClass sl) { fl with seq := fl.seq + 1 }) sl
    else receiveRequest s sl fun s => (s, answerTo s sl kCts 0)

def execRts (sl : Slip) (s : State) : Host.Outcome State Fault Refusal := .next (finish s (settle (rtsReceive sl s)))

/-- A response for this node: the source releases the request, and the tile learns of it. -/
def takeResponse (sl : Slip) (s : State) : State :=
  let (x, s) := takeAnswer s sl
  match x with
  | none => s
  | some x => loanAnswer s x sl

def execReadData (sl : Slip) (s : State) : Host.Outcome State Fault Refusal :=
  .next (finish s (settle (if forUs s sl kReadData then takeResponse sl s else s)))
def execCts (sl : Slip) (s : State) : Host.Outcome State Fault Refusal :=
  .next (finish s (settle (if forUs s sl kCts then takeResponse sl s else s)))
def execAck (sl : Slip) (s : State) : Host.Outcome State Fault Refusal :=
  .next (finish s (settle (if forUs s sl kAck then takeResponse sl s else s)))

/-- Whether a slip brings data, or a response, for a tile that has ended (rules R140, R312). -/
def lateSlip (s : State) (sl : Slip) : Bool :=
  if sl.kind.toNat = kWrite then
    sl.folio == 0 && sl.countLen != 0 && !isFar sl && (dataTile s sl).isNone && (lateFor s sl).isSome
  else
    match (takeAnswer s sl).1 with
    | some x => x.tile.any fun t => x.ended || (findTile s t).isNone
    | none => false

/-- LATE_BURST: data for a tile that has ended arrives. -/
def lateBurst (sl : Slip) (s : State) : State :=
  if !lateSlip s sl then s
  else if sl.kind.toNat = kWrite then writeSlip sl [] s
  else if forUs s sl sl.kind.toNat then takeResponse sl s
  else s

def execLateBurst (slip : Slip) (s : State) : Host.Outcome State Fault Refusal := .next (finish s (settle (lateBurst slip s)))

/-- SLIP_RESEND_TIMEOUT: every unanswered slip of the flow goes out again, from the oldest (rule R311). -/
def slipResend (dest cls : Nat) (s : State) : State :=
  let fl := getTx s dest cls
  if fl.open_.isEmpty then s
  else
    let s := s.setFab { s.fab with resends := satAdd s.fab.resends 1 }
    forEach fl.open_ s fun s x =>
      let f := getTx s dest cls
      let (s, alt) := routeOut s { x.slip with stamp := s.clk.now.setWidth 32 } f.alt true (some x.q)
      setTx s dest cls { getTx s dest cls with alt := alt }

def execSlipResendTimeout (dest : BitVec 16) (cls : BitVec 2) (s : State) : Host.Outcome State Fault Refusal :=
  .next (finish s (slipResend dest.toNat cls.toNat s))

/-- AISLES_UNIT_CRC_FAIL: the link retries; after 8 retries of one unit the tile ends UNCORRECTABLE (Table 15.1). -/
def aislesFail (t : TileId) (retries : Nat) (s : State) : State :=
  match findTile s t with
  | none => s
  | some x => if retries < 8 || x.phase == .finished then s else failTile s t 0x0B

def execAislesUnitCrcFail (t : TileId) (retries : Nat) (s : State) : Host.Outcome State Fault Refusal :=
  .next (finish s (settle (aislesFail t retries s)))

end Sys2Proof.Machine
end

