-- ==== Sys2Proof/Machine/RegWing.lean ====
section
/-! DEFINITION. The registers of a Wing window (Table 19.12; rules R69, R111, R148, R180, R211, R442): the value of each, what a
read of an RC field clears, and what a write does. Offsets are word offsets within the window. -/

namespace Sys2Proof.Machine

/-! ### Values -/

/-- Tables 3.9 to 3.13. -/
def arrStatWord (y : Arr) (o : Nat) : Nat :=
  match o with
  | 0x00 => y.satTiles.toNat
  | 0x04 => y.satPasses.toNat
  | 0x08 => y.replays.toNat
  | 0x0C => y.nonfinite.toNat
  | 0x10 => y.peak.toNat
  | _ => 0

/-- WNG_ARR_MAP (Table 4.7). -/
def arrMapWord (x : Wing) : Nat :=
  fld 31 (b2n x.retired) + fld 30 (b2n x.hostsFold) + fld 25 x.foldWing.toNat + fld 24 (b2n x.spareUsed) +
    fld 23 (b2n x.spareFailed) + fld 16 x.spareFor.toNat + x.foldedTo.toNat

/-- WNG_ACC_CTL (Table 4.9). -/
def accCtlWord (x : Wing) : Nat :=
  fld 31 (b2n x.accRun.isSome) + fld 30 (b2n x.accWrite) + fld 26 x.accGroup.toNat + fld 16 x.accLarray.toNat

/-- WNG_ACC_STAT (Table 4.10). -/
def accStatWord (x : Wing) : Nat :=
  fld 31 (b2n x.accDone) + fld 24 x.accResult.toNat + fld 22 x.accMode.toNat + x.accTokens.toNat

/-- The logical arrays that a physical array serves: its own Wing's and a folded-in one (rules R103, R109). -/
def ownLogical (s : State) (w a : Nat) : Option Nat :=
  if !s.rst.arrMapSet || (getWing s w).retired then none else (servedBy s w a).map fun i => 32 * w + i

def foldLogical (s : State) (w a : Nat) : Option Nat :=
  if (getWing s w).hostsFold then (servedBy s w a).map fun i => 32 * (getWing s w).foldWing.toNat + i else none

/-- Whether the tile in an array adds to a group: the group is filling (Table 4.12). -/
def groupFills (s : State) (w a l g : Nat) : Bool :=
  match (getArr s w a).tile.bind (findTile s) with
  | some t => dOp t.d == 1 && dLarray t.d == l && dGroup t.d == g
  | none => false

/-- ARR_GROUPS and ARR_GROUPS_F for the logical array they show (Table 4.12). -/
def groupsWord (s : State) (w a : Nat) (l : Option Nat) : Nat :=
  match l with
  | none => 0
  | some l =>
    let drains := sumNat ((List.range 8).map fun k =>
      let z := getSlot s w a k
      if z.draining && z.larray == l then 2 ^ k else 0)
    fld 24 drains + sumNat ((List.range 4).map fun g =>
      let x := getGroup s l g
      if x.live then fld (6 * g + 4) (if groupFills s w a l g then 1 else 2) + fld (6 * g) x.slot else 0)

/-- ARR_LOGICAL (Table 4.15). -/
def logicalWord (s : State) (w a : Nat) : Nat :=
  let x := getWing s w
  let own := ownLogical s w a
  let fold := foldLogical s w a
  let failed := if a = 32 then x.spareFailed else bit a x.failed.toNat
  fld 31 (b2n (own.isSome || fold.isSome)) + fld 30 (b2n failed) + fld 29 (b2n fold.isSome) + fld 16 (fold.getD 0) + own.getD 0

/-- Tables 4.12 to 4.15. -/
def arrGroupWord (s : State) (w a o : Nat) : Nat :=
  match o with
  | 0x00 => groupsWord s w a (ownLogical s w a)
  | 0x04 => (getArr s w a).ownFaults.toNat
  | 0x08 => (getArr s w a).checkErrs.toNat
  | 0x0C => logicalWord s w a
  | 0x10 => groupsWord s w a (foldLogical s w a)
  | _ => 0

/-- Whether a round has a tile of a Runner behind a FENCE that is not complete, from index i on; fenced: one stands before it. The
second answer is whether one stands before what follows. -/
def heldRound (s : State) (w r : Nat) (rd : Round) : Nat → Nat → Bool → Bool × Bool
  | 0, _, fenced => (false, fenced)
  | fuel + 1, i, fenced =>
    let d := descOf s rd i
    if fenced && runnerOf s (dLarray d) == some (w, r) then (true, fenced)
    else
      let f := fenced || opFence (dOp d)
      if dLast d then (false, f) else heldRound s w r rd fuel (i + 1) f

def heldStream (s : State) (w r : Nat) : List Round → Bool → Bool
  | [], _ => false
  | rd :: rest, fenced =>
    if rd.result.isSome || rd.stopping || rd.state != .running then heldStream s w r rest fenced
    else
      let h := heldRound s w r rd (rd.descCount - rd.done) rd.done fenced
      h.1 || heldStream s w r rest h.2

/-- Whether a FENCE that is not complete holds a stream at a Runner: it is the Runner's own, or a tile that the Runner serves stands
behind it (rule R119). -/
def fencedAt (s : State) (w r : Nat) : Bool :=
  (s.run.tiles.any fun f => f.phase == .fenced && f.w == w && f.r == r) ||
    s.desk.queues.any fun x => heldStream s w r x.2.rounds false

/-- WNG_RUN_STAT (Table 5.15). -/
def runStatWord (s : State) (w r : Nat) : Nat :=
  let x := getRun s w r
  fld 16 (tabGet 0 (issueAll s).2 (4 * w + r)) + fld 8 (min 64 (aheadCount s w r)) + fld 3 (b2n (fencedAt s w r)) +
    fld 2 (b2n x.stallPart.isSome) + fld 1 (b2n x.stallWin.isSome) + b2n (splitWait s w r)

/-- Tables 5.14 to 5.17. A stall that still runs counts up to now. -/
def runWord (s : State) (w r o : Nat) : Nat :=
  let x := getRun s w r
  match o with
  | 0x0 => x.window.toNat
  | 0x4 => runStatWord s w r
  | 0x8 => (satAdd x.cntWin (stallCycles s x.stallWin)).toNat
  | 0xC => (satAdd x.cntPart (stallCycles s x.stallPart)).toNat
  | _ => 0

/-- Tables 6.9 to 6.11. -/
def arrSlipWord (y : Arr) (o : Nat) : Nat :=
  match o with
  | 0x0 => fld 12 y.wCause.toNat + fld 8 y.aCause.toNat + fld 1 (b2n y.wSlip) + b2n y.aSlip
  | 0x4 => y.wSlips.toNat
  | 0x8 => y.aSlips.toNat
  | _ => 0

/-- Tables 7.10 to 7.13. -/
def gloWord (g : Glo) (o : Nat) : Nat :=
  match o with
  | 0x0 =>
    let busy := g.tile.isSome
    fld 31 (b2n busy) + fld 30 (b2n g.heldBySoftmax) + fld 29 (b2n (busy && g.compat)) +
      fld 20 (if busy then g.gfunc.toNat else 0) + g.cache.length
  | 0x4 => g.limited.toNat
  | 0x8 => g.domain.toNat
  | 0xC => g.fetches.toNat
  | _ => 0

/-- Tables 7.14 to 7.16. -/
def ledWord (l : Led) (o : Nat) : Nat :=
  match o with
  | 0x0 =>
    let busy := l.tile.isSome
    fld 31 (b2n busy) + (if busy then fld 20 l.lfunc.toNat + l.rowsOpen.toNat else 0)
  | 0x4 => l.rows.toNat
  | 0x8 => l.nonfinite.toNat
  | _ => 0

/-- Tables 8.5 to 8.8. -/
def bankWord (b : Bank) (o : Nat) : Nat :=
  match o with
  | 0x0 =>
    fld 31 (b2n b.superseded) + fld 30 (b2n b.ueSeen) + fld 29 (b2n b.ceSeen) + fld 28 (b2n b.failed) + fld 16 b.sparesUsed.toNat
  | 0x4 => b.ce.toNat
  | 0x8 => b.ue.toNat
  | 0xC => b.super.toNat
  | _ => 0

/-- The register at a word offset of the window of Wing w (Table 19.12). -/
def wingWord (s : State) (w o : Nat) : Nat :=
  let x := getWing s w
  if !wingReach s w then 0
  else if 0x20000 ≤ o ∧ o < 0x22000 then natOf ((List.range 4).map fun i => tabGet 0 x.winBuf (o - 0x20000 + i))
  else if 0x30000 ≤ o ∧ o < 0x30420 then arrStatWord (getArr s w ((o - 0x30000) / 0x20)) (o % 0x20)
  else if 0x30800 ≤ o ∧ o < 0x30808 then (getRet s w (o % 8 / 4)).clip.toNat
  else if o = 0x31000 then arrMapWord x
  else if o = 0x31004 then x.failed.toNat
  else if o = 0x31010 then accCtlWord x
  else if o = 0x31014 then accStatWord x
  else if o = 0x31018 then x.accSteps.toNat
  else if 0x32000 ≤ o ∧ o < 0x32420 then arrGroupWord s w ((o - 0x32000) / 0x20) (o % 0x20)
  else if 0x33000 ≤ o ∧ o < 0x33040 then runWord s w ((o - 0x33000) / 0x10) (o % 0x10)
  else if o = 0x33040 then x.lateBursts.toNat
  else if 0x34000 ≤ o ∧ o < 0x34210 then arrSlipWord (getArr s w ((o - 0x34000) / 0x10)) (o % 0x10)
  else if 0x34400 ≤ o ∧ o < 0x34410 then
    let t := getRet s w ((o - 0x34400) / 8)
    if o % 8 = 0 then t.spxSegs.toNat else t.spxRaw.toNat
  else if 0x35000 ≤ o ∧ o < 0x35020 then gloWord (getGlo s w ((o - 0x35000) / 0x10)) (o % 0x10)
  else if 0x35100 ≤ o ∧ o < 0x35120 then ledWord (getLed s w ((o - 0x35100) / 0x10)) (o % 0x10)
  else if 0x36000 ≤ o ∧ o < 0x36250 then bankWord (getBank s w ((o - 0x36000) / 0x10)) (o % 0x10)
  else 0

/-! ### What a read clears (access code RC) -/

def arrStatClear (y : Arr) (o : Nat) : Arr :=
  match o with
  | 0x00 => { y with satTiles := 0 }
  | 0x04 => { y with satPasses := 0 }
  | 0x08 => { y with replays := 0 }
  | 0x0C => { y with nonfinite := 0 }
  | 0x10 => { y with peak := 0 }
  | _ => y

def arrGroupClear (y : Arr) (o : Nat) : Arr :=
  match o with
  | 0x04 => { y with ownFaults := 0 }
  | 0x08 => { y with checkErrs := 0 }
  | _ => y

/-- A stall that still runs counts anew from the read on. -/
def runClear (s : State) (x : Runner) (o : Nat) : Runner :=
  match o with
  | 0x8 => { x with cntWin := 0, stallWin := x.stallWin.map fun _ => s.clk.acyc }
  | 0xC => { x with cntPart := 0, stallPart := x.stallPart.map fun _ => s.clk.acyc }
  | _ => x

def arrSlipClear (y : Arr) (o : Nat) : Arr :=
  match o with
  | 0x4 => { y with wSlips := 0 }
  | 0x8 => { y with aSlips := 0 }
  | _ => y

def gloClear (g : Glo) (o : Nat) : Glo :=
  match o with
  | 0x4 => { g with limited := 0 }
  | 0x8 => { g with domain := 0 }
  | 0xC => { g with fetches := 0 }
  | _ => g

def ledClear (l : Led) (o : Nat) : Led :=
  match o with
  | 0x4 => { l with rows := 0 }
  | 0x8 => { l with nonfinite := 0 }
  | _ => l

def bankClear (b : Bank) (o : Nat) : Bank :=
  match o with
  | 0x4 => { b with ce := 0 }
  | 0x8 => { b with ue := 0 }
  | 0xC => { b with super := 0 }
  | _ => b

/-- The window of Wing w after a read at a word offset. -/
def wingClear (s : State) (w o : Nat) : State :=
  if !wingReach s w then s
  else if 0x30000 ≤ o ∧ o < 0x30420 then modArr s w ((o - 0x30000) / 0x20) fun y => arrStatClear y (o % 0x20)
  else if 0x30800 ≤ o ∧ o < 0x30808 then modRet s w (o % 8 / 4) fun t => { t with clip := 0 }
  else if 0x32000 ≤ o ∧ o < 0x32420 then modArr s w ((o - 0x32000) / 0x20) fun y => arrGroupClear y (o % 0x20)
  else if 0x33000 ≤ o ∧ o < 0x33040 then modRun s w ((o - 0x33000) / 0x10) fun x => runClear s x (o % 0x10)
  else if o = 0x33040 then modWing s w fun x => { x with lateBursts := 0 }
  else if 0x34000 ≤ o ∧ o < 0x34210 then modArr s w ((o - 0x34000) / 0x10) fun y => arrSlipClear y (o % 0x10)
  else if 0x34400 ≤ o ∧ o < 0x34410 then
    modRet s w ((o - 0x34400) / 8) fun t => if o % 8 = 0 then { t with spxSegs := 0 } else { t with spxRaw := 0 }
  else if 0x35000 ≤ o ∧ o < 0x35020 then modGlo s w ((o - 0x35000) / 0x10) fun g => gloClear g (o % 0x10)
  else if 0x35100 ≤ o ∧ o < 0x35120 then modLed s w ((o - 0x35100) / 0x10) fun l => ledClear l (o % 0x10)
  else if 0x36000 ≤ o ∧ o < 0x36250 then modBank s w ((o - 0x36000) / 0x10) fun b => bankClear b (o % 0x10)
  else s

/-! ### Writes -/

/-- W1C bits of WNG_BANK_STAT. -/
def bankW1c (b : Bank) (v : Nat) : Bank :=
  { b with superseded := b.superseded && !bit 31 v, ueSeen := b.ueSeen && !bit 30 v, ceSeen := b.ceSeen && !bit 29 v }

/-- A write at a word offset of the window of Wing w. -/
def wingStore (s : State) (w o : Nat) (v : W32) : State :=
  let n := v.toNat
  if !wingReach s w then s
  else if 0x20000 ≤ o ∧ o < 0x22000 then modWing s w fun x => { x with winBuf := winPut x.winBuf (bytesOf 4 n) (o - 0x20000) }
  else if o = 0x31010 then accCtlWrite w v s
  else if o = 0x31014 then modWing s w fun x => { x with accDone := x.accDone && !bit 31 n }
  else if 0x33000 ≤ o ∧ o < 0x33040 then
    if o % 0x10 = 0 then settleStalls (modRun s w ((o - 0x33000) / 0x10) fun x => { x with window := BitVec.ofNat 7 n }) else s
  else if 0x34000 ≤ o ∧ o < 0x34210 then
    if o % 0x10 = 0 then
      modArr s w ((o - 0x34000) / 0x10) fun y => { y with wSlip := y.wSlip && !bit 1 n, aSlip := y.aSlip && !bit 0 n }
    else s
  else if 0x36000 ≤ o ∧ o < 0x36250 then
    if o % 0x10 = 0 then modBank s w ((o - 0x36000) / 0x10) fun b => bankW1c b n else s
  else s

end Sys2Proof.Machine
end

