-- ==== Sys2Proof/Machine/Sec.lean ====
section
/-! DEFINITION. Debug authorisation (rules R381, R395 to R400, Tables 16.1, 16.4, 16.9): the level, a write of SEC_DBG_CTL, the
checks of a token and what a Return token does. The commands DEBUG_LEVEL_APPLY, TOKEN_SUBMIT and TOKEN_VERIFY_DONE. -/

namespace Sys2Proof.Machine

/-- The level becomes n: a change raises a management event, Intrusive ends the class-0 guarantee of rounds in flight, and a lapse
of permission stops the perturbations (rules R381, R398, R400). -/
def setLevel (n : Nat) (s : State) : State :=
  if s.sec.level.toNat = n then s
  else
    let could := pertPermitted s
    let s := mgmtEvent (s.setSec { s.sec with level := BitVec.ofNat 2 n }) 0x08 n
    let s := if n = 2 then loseC0 s else s
    if could && !pertPermitted s then pertStop s else s

def setResult (n : Nat) (s : State) : State := s.setSec { s.sec with result := BitVec.ofNat 4 n }

/-- APPLY with NEW_LEVEL (rule R396). A level that equals the one in force is left as it is, with RESULT = OK (DESIGN CHOICE,
notes/assumptions/106). -/
def applyLevel (n : Nat) (s : State) : State :=
  if n = 3 then setResult 1 s
  else if s.sec.state = 0 ∨ n ≤ s.sec.level.toNat then setResult 0 (setLevel n s)
  else setResult 5 s

/-- The 256 bytes of the token window. -/
def windowToken (s : State) : List Byte := (List.range 256).map fun i => tabGet 0 s.sec.token i

/-- A submission begins; during a verification it has no effect (rule R398). -/
def submit (viaBus : Bool) (token : List Byte) (s : State) : State :=
  if s.sec.submit then s else s.setSec { s.sec with submit := true, viaBus := viaBus, busToken := token }

/-- A write of SEC_DBG_CTL (Table 16.9). -/
def dbgCtlWrite (v : Nat) (s : State) : State :=
  let s := if bit 2 v then applyLevel (bits 1 0 v) s else s
  if bit 31 v then submit false (windowToken s) s else s

/-- DEBUG_LEVEL_APPLY: the value written must have APPLY = 1. -/
def debugLevelApply (v : W32) (s : State) : State :=
  if bit 2 v.toNat then barWrite 0x500004 v (dbgCtlWrite v.toNat) s else s

def execDebugLevelApply (v : W32) (s : State) : Host.Outcome State Fault Refusal := .next (finish s (debugLevelApply v s))

def tokenSubmit (s : State) : State := barWrite 0x500004 0x80000000 (dbgCtlWrite 0x80000000) s

def execTokenSubmit (s : State) : Host.Outcome State Fault Refusal := .next (finish s (tokenSubmit s))

/-! ### The checks (rules R385, R398) -/

/-- A slice of the token. -/
def tokenPart (t : List Byte) (a n : Nat) : List Byte := (t.drop a).take n
def tokenByte (t : List Byte) (i : Nat) : Nat := (t.getD i 0).toNat

/-- Check 1. -/
def tokenForm (t : List Byte) : Bool :=
  t.length == 256 && natOf (tokenPart t 0 4) == 0x54444D4B && decide (1 ≤ tokenByte t 4) && decide (tokenByte t 4 ≤ 3) &&
    decide (tokenByte t 5 ≤ 1) && natOf (tokenPart t 6 2) == 0 && natOf (tokenPart t 88 72) == 0

/-- Whether a signer (0 Ryvas, 1 the owner) may ask for a level in a security state (Table 16.1): Return from Ryvas alone; in Open
no other token is needed, and none is permitted. -/
def signerMay (state level signer : Nat) : Bool :=
  if level = 3 then signer == 0
  else if state = 1 then true
  else state == 2 && level == 1 && signer == 1

/-- The public key of a signer: the Ryvas root's, or that of the owner that the block in force carries, when its digest equals
OWNER_HASH (rule R386). -/
def signerKey (s : State) (signer : Nat) : Option (List Byte) :=
  if signer = 0 then some Config.ryvasKey
  else match s.rst.opt with
    | some o => if ownerHashOf o = some s.sec.ownerHash then o.ownerKey else none
    | none => none

/-- Whether a token's signature verifies. -/
def tokenSigned (s : State) (t : List Byte) : Bool :=
  match signerKey s (tokenByte t 5) with
  | some k => Config.ecdsaOk k (tokenPart t 0 160) (tokenPart t 160 96)
  | none => false

/-- RESULT of a token. With no identity reconstructed none is accepted (rule R385). -/
def tokenResult (s : State) (t : List Byte) : Nat :=
  let signer := tokenByte t 5
  if s.sec.pufFail then 5
  else if !tokenForm t then 1
  else if natOf (tokenPart t 8 48) ≠ Config.deviceId.toNat then 2
  else if natOf (tokenPart t 56 32) ≠ (Config.nonce s.sec.nonceNo).toNat then 3
  else if !tokenSigned s t then 4
  else if !signerMay s.sec.state.toNat (tokenByte t 4) signer then 5
  else 0

/-! ### A Return token (rule R399) -/

/-- The Vault filled with zeros, and with it what firmware keeps there. -/
def clearVault (s : State) : State :=
  let keep := fun (x : Nat) => decide (x < vaultBase)
  let s := (s.setVault []).setEcc { ue := s.ecc.ue.filter keep, ce := s.ecc.ce.filter keep }
  let s := s.setSec { s.sec with vaultFw := none, vaultOpt := none }
  s.setRel { s.rel with foxMeans := [], laneDays := [], chanDays := [], firstReady := none, lifeSeen := [] }

/-- Flash blocks of the repair log erased (rule R205). -/
def eraseRepairLog (s : State) : State := flashDo (flashDrain s) (.erase 0xA000 0x2000)

/-- The record back to Open, the Vault cleared, the repair log erased, an L1 episode. -/
def returnDevice (s : State) : State :=
  let s := match s.sec.rpb with
    | some r => s.setSec { s.sec with rpb := some { r with state := 0, ownerHash := 0 } }
    | none => s
  joinEpisode { Sources.none with sw := true } false 1 [] 0 (eraseRepairLog (clearVault s))

/-- TOKEN_VERIFY_DONE: a verification ends; the nonce is replaced whatever its result (rule R397). -/
def tokenVerifyDone (s : State) : State :=
  if !s.sec.submit then s
  else
    let t := s.sec.busToken
    let res := tokenResult s t
    let bus := s.sec.viaBus
    let s := s.setSec { s.sec with submit := false, viaBus := false, busToken := [], nonceNo := s.sec.nonceNo + 1 }
    let s := setResult res s
    let s := if bus then emit s (.reply "SUBMIT_TOKEN" 0 [res]) else s
    if res ≠ 0 then s
    else if tokenByte t 4 = 3 then returnDevice s
    else setLevel (tokenByte t 4) s

def execTokenVerifyDone (s : State) : Host.Outcome State Fault Refusal := .next (finish s (settle (tokenVerifyDone s)))

end Sys2Proof.Machine
end

