-- ==== Sys2Proof/Machine/Regs.lean ====
section
/-! DEFINITION. The register map (chapter 19; rules R6 to R12, R437 to R446): the value at every BAR0 offset, what a read does
besides, what a write does, and the paths from a BAR0, control space and debug. The commands REGISTER_WRITE, RC_FIELD_READ,
DSK_ACLOCK_LO_READ, RST_TICK_NUM_LO_READ, QUE_LOST_EVENTS_READ, FN_EVENT_EN_WRITE and REL_PERT_CTL_WRITE. -/

namespace Sys2Proof.Machine

/-! ### Values -/

/-- Queues of a function that are not ABSENT. -/
def queuesHeld (s : State) (f : Nat) : Nat := ((queuesOf f).filter fun q => (getQ s q).state != 0).length

/-- DSK_FN_EVENT and DSK_FN_EVENT_EN (Tables 11.18, 11.19). -/
def fnEventWord (x : FnReg) : Nat := fld 31 (b2n x.cblocked) + fld 30 (b2n x.halted) + fld 29 (b2n x.mgmt)
def fnEnableWord (x : FnReg) : Nat := fld 31 (b2n x.cblockedEn) + fld 30 (b2n x.haltedEn) + fld 29 (b2n x.mgmtEn)

/-- A mailbox page (Tables 11.1, 11.2, 11.15 to 11.19): offset o in mailbox k of function f. -/
def pageWord (s : State) (f k o : Nat) : Nat :=
  let m := getMb s f k
  if o < 0x100 then (tabGet 0 m.req (o / 4)).toNat
  else if o < 0x1E0 then (tabGet 0 m.resp ((o - 0x100) / 4)).toNat
  else
    match o with
    | 0x1E0 => fld 31 (b2n (m.state == 1))
    | 0x1E4 => fld 30 m.state.toNat + m.seq.toNat
    | 0x1E8 => fld 31 (b2n s.desk.ready) + fld 30 (b2n (f == 0)) + fld 25 f + fld 8 (queuesHeld s f)
    | 0x1EC => fnEventWord (getFn s f)
    | 0x1F0 => fnEnableWord (getFn s f)
    | _ => 0

/-- DSK_ADM_C0_RES (Table 10.17). -/
def c0ResWord (s : State) : Nat :=
  let rf := sumNat (s.desk.queues.map fun x => match x.2.resv with
    | some r => r.rf
    | none => 0)
  fld 16 rf + ((List.range 32).map (raSum s)).foldl max 0

/-- DSK_CAPS (Table 19.7): firmware writes it at bring-up, D once the tiers are trained (rule R444). -/
def capsWord (s : State) : Nat :=
  let ports := ((List.range 9).filter (portUp s)).length
  fld 20 (if s.rst.trained then s.tier.depGib else 0) + fld 16 ports + (if s.rst.capsSet && s.rst.arrMapSet then larrays s else 0)

/-- DSK_WING_STAT (Table 19.9). ACLK runs in a powered Wing that has work, except in Idle (Table 14.1). After an L2 episode the
copies of the map's fields show what the map keeps, not the reset values of rule R444 (DESIGN CHOICE, notes/assumptions/116). -/
def wingStatWord (s : State) (w : Nat) : Nat :=
  let x := getWing s w
  let work := s.run.tiles.any fun t => t.w == w || (match stOf t with
    | some st => st.wing.val == w
    | none => false)
  fld 31 (b2n x.powered) + fld 30 (b2n (x.powered && work && s.pwr.state == .active)) + fld 29 (b2n x.inL3) +
    fld 28 (b2n x.retired) + fld 27 (b2n x.hostsFold) + (if x.powered then x.temp.toNat else 0)

/-- The Desk device registers, by offset from 0x0002_0000 (Tables 10.13 to 10.17, 11.20, 19.4 to 19.9). -/
def deskWord (s : State) (o : Nat) : Nat :=
  if 0x300 ≤ o ∧ o < 0x380 then wingStatWord s ((o - 0x300) / 4)
  else
    match o with
    | 0x000 => s.adm.deferred.toNat
    | 0x004 => s.adm.overruns.toNat
    | 0x008 => s.adm.demoted.toNat
    | 0x00C => s.adm.c0Late.toNat
    | 0x010 => c0ResWord s
    | 0x100 => fld 31 (b2n (decide (25000000 < pollDemand s))) + wholeNum (pollDemand s)
    | 0x200 => 0x10401100
    | 0x204 => fld 16 s.desk.fwMinor.toNat + s.desk.fwMajor.toNat
    | 0x208 => s.desk.fwBuild.toNat
    | 0x20C => capsWord s
    | 0x210 => s.clk.now.toNat % 2 ^ 32
    | 0x214 => s.clk.hi.toNat
    | _ => 0

/-- Reset, tick and Vault, by offset from 0x0020_0000 (Tables 13.9, 13.11 to 13.18, 10.7 to 10.12). -/
def rstWord (s : State) (o : Nat) : Nat :=
  let r := s.rst
  let t := s.tick
  if 0x10000 ≤ o then (if vaultBad s (o - 0x10000) 4 then 0 else natOf (memBytes 0 s.vault (o - 0x10000) 4))
  else if 0x100 ≤ o ∧ o < 0x140 then (tabGet 0 r.backup ((o - 0x100) / 4)).toNat
  else
    match o with
    | 0x0000 => causeWord r.cause
    | 0x0008 => r.stretchMs.toNat
    | 0x000C => fld 4 r.ratio.toNat + r.code.toNat
    | 0x0010 => clkStatWord r
    | 0x0014 => bootStatWord r
    | 0x0018 => r.episodes.toNat
    | 0x2000 => fld 30 t.source.toNat + t.period.toNat
    | 0x2004 => tickStatWord s
    | 0x2008 => t.num.toNat % 2 ^ 32
    | 0x200C => t.numHi.toNat
    | 0x2010 => t.earlyCnt.toNat
    | 0x2014 => t.lostCnt.toNat
    | _ => 0

/-- Power and management, by offset from 0x0030_0000 (Tables 14.8 to 14.14, 17.7 to 17.10). -/
def pwrWord (s : State) (o : Nat) : Nat :=
  let p := s.pwr
  let m := s.mgt
  match o with
  | 0x0000 => fld 2 (b2n p.autoWake)
  | 0x0004 => pwrStatWord p
  | 0x0008 => fld 16 p.capReq.toNat + p.capInForce.toNat
  | 0x000C => fld 16 p.avg1ms.toNat + p.avg100us.toNat
  | 0x0010 => fld 24 p.hbmC.toNat + fld 16 p.sensor.toNat + p.dieC.toNat
  | 0x0014 => fld 31 (b2n p.tripped) + fld 8 p.tripSensor.toNat + p.tripTemp.toNat
  | 0x0018 => p.throttles.toNat
  | 0x1000 =>
    fld 31 (b2n m.assigned) + fld 30 (b2n m.enumIn) + fld 29 (b2n m.enumOut) + fld 16 m.addr.toNat + fld 8 m.eid.toNat +
      fld 1 m.dflt.toNat
  | 0x1004 =>
    fld 31 (b2n m.serving) + fld 30 (b2n m.recovery) + fld 29 (b2n m.update.isSome) + fld 28 (b2n (!m.events.isEmpty)) +
      m.speed.toNat
  | 0x1008 => fld 16 m.lost.toNat + m.events.length
  | 0x100C => fld 24 m.timeouts.toNat + fld 16 m.arbDrops.toNat + fld 8 m.msgDrops.toNat + m.pecErrs.toNat
  | _ => 0

/-- Device address of the log slot that an offset in the log window reads (rule R374). -/
def logSlotAddr (s : State) (o : Nat) : Nat := logBase + 32 * ((128 * s.rel.logSlot.toNat + o / 32) % 2 ^ 21)

/-- Reliability, log window and Inventory, by offset from 0x0040_0000 (Tables 15.11 to 15.21, 8.9 to 8.13). -/
def relWord (s : State) (o : Nat) : Nat :=
  let r := s.rel
  let p := r.pert
  let v := s.inv
  if 0x1000 ≤ o ∧ o < 0x2000 then
    let a := logSlotAddr s (o - 0x1000)
    if (ueIn s a 32).isEmpty then natOf (readMem s (a + o % 32) 4) else 0
  else
    match o with
    | 0x0000 => r.logHead.toNat
    | 0x0004 => fld 7 r.logSlot.toNat
    | 0x0008 => r.logDrops.toNat
    | 0x000C => r.errCe.toNat
    | 0x0010 => r.errUe.toNat
    | 0x0014 => fld 31 (b2n r.scrubLate) + fld 8 r.deposPct.toNat + r.stacksPct.toNat
    | 0x0020 => lifeWord r
    | 0x0100 => pertCtlWord s
    | 0x0104 => p.seed.toNat
    | 0x0108 => p.stationReg.toNat
    | 0x010C => p.jitter.toNat
    | 0x0110 => p.complUs.toNat
    | 0x0114 => p.credReg.toNat
    | 0x3000 => v.winBase.toNat
    | 0x3004 => fld 31 (b2n (inventoryOn s)) + fld 30 (b2n v.late) + fld 16 v.period.toNat + v.sweeps.toNat
    | 0x3008 => v.fails.toNat
    | 0x300C => fld 16 v.applied.toNat + v.invalid.toNat
    | 0x3010 => fld 16 v.cmCe.toNat + v.cmUe.toNat
    | _ => 0

/-- Security, by offset from 0x0050_0000 (Tables 16.4, 16.8 to 16.12). -/
def secWord (s : State) (o : Nat) : Nat :=
  let x := s.sec
  if 0x100 ≤ o ∧ o < 0x200 then natOf ((List.range 4).map fun i => tabGet 0 x.token (o - 0x100 + i))
  else if 0x20 ≤ o ∧ o < 0x40 then (Config.nonce x.nonceNo).toNat / 2 ^ (8 * (o - 0x20)) % 2 ^ 32
  else
    match o with
    | 0x00 =>
      fld 30 x.state.toNat + fld 28 x.level.toNat + fld 27 (b2n x.pufFail) + fld 26 (b2n x.rpbFail) +
        fld 25 (b2n x.hostbootDenied) + fld 24 (b2n x.rollback)
    | 0x04 => fld 31 (b2n x.submit) + fld 24 x.result.toNat
    | 0x08 => fld 16 x.optSvn.toNat + x.fwSvn.toNat
    | 0x0C => x.scrub.toNat
    | _ => 0

/-- FAB_PORT_STAT (Table 12.11). -/
def portStatWord (p : Port) : Nat :=
  fld 30 p.state.toNat + fld 28 p.width.toNat + fld 27 (b2n p.congested) + fld 26 (b2n p.peerValid) + p.peerNode.toNat

/-- The fabric, by offset from 0x0060_0000 (Tables 12.4, 12.8 to 12.12). -/
def fabWord (s : State) (o : Nat) : Nat :=
  let x := s.fab
  if 0x100 ≤ o ∧ o < 0x220 then
    let p := getPort s ((o - 0x100) / 0x20)
    match o % 0x20 with
    | 0x00 => portStatWord p
    | 0x04 => p.fec.toNat
    | 0x08 => p.crc.toNat
    | 0x0C => p.replay.toNat
    | 0x10 => p.cong.toNat
    | _ => 0
  else
    match o with
    | 0x00 => fld 31 (b2n x.assigned) + fld 30 (b2n x.routed) + fld 29 (b2n x.manager) + fld 28 (b2n x.candidate) + x.nodeId.toNat
    | 0x04 => fld 31 (b2n x.synced) + fld 30 (b2n x.lost) + fld 16 x.depth.toNat + x.offset.toNat
    | 0x08 => x.routeIdx.toNat
    | 0x0C => routeEnt s x.routeIdx.toNat
    | 0x10 => x.sigLost.toNat
    | 0x14 => x.resends.toNat
    | 0x18 => x.noRoute.toNat
    | _ => 0

/-- The register at a word offset of BAR0, all mailbox pages and queue mirrors present (rules R437, R443, R446). An offset with no
register reads 0 (rule R10). -/
def regValue (s : State) (off : Nat) : Nat :=
  if off < 0x20000 then pageWord s (off / 0x1000) (off % 0x1000 / 0x200) (off % 0x200)
  else if off < 0x20400 then deskWord s (off - 0x20000)
  else if 0x100000 ≤ off ∧ off < 0x120000 then
    (mirrorWords s (32 * ((off - 0x100000) / 0x1000) + off % 0x1000 / 0x80)).getD (off % 0x80 / 4) 0
  else if 0x200000 ≤ off ∧ off < 0x220000 then rstWord s (off - 0x200000)
  else if 0x300000 ≤ off ∧ off < 0x302000 then pwrWord s (off - 0x300000)
  else if 0x400000 ≤ off ∧ off < 0x404000 then relWord s (off - 0x400000)
  else if 0x500000 ≤ off ∧ off < 0x500200 then secWord s (off - 0x500000)
  else if 0x600000 ≤ off ∧ off < 0x600400 then fabWord s (off - 0x600000)
  else if 0x800000 ≤ off ∧ off < 0x1000000 then wingWord s ((off - 0x800000) / 0x40000) (off % 0x40000)
  else 0

/-! ### Paths (rules R12, R438, R439, R443) -/

/-- Where an access comes from: the BAR0 of a function, a debug register message, or control space. -/
inductive Via where
  | bar (f : Nat)
  | debug
  | control
  deriving DecidableEq, Repr

/-- The function whose mailbox page or queue mirror stands at an offset. -/
def offsetFn (off : Nat) : Option Nat :=
  if off < 0x20000 then some (off / 0x1000)
  else if 0x100000 ≤ off ∧ off < 0x120000 then some ((off - 0x100000) / 0x1000)
  else none

/-- READER of Table 15.6 for a path. -/
def viaReader : Via → Reader
  | .bar _ => .window
  | _ => .debug

/-- Whether a path reaches the register at an offset. A debug register message reaches what the physical function reaches. -/
def reaches (via : Via) (off : Nat) : Bool :=
  let pf := decide (0x1000 ≤ off ∧ off < 0x20000)
  match via with
  | .control => true
  | .debug => !pf
  | .bar 0 => !pf
  | .bar f => offsetFn off == some f

/-! ### Reads -/

/-- A read of QUE_LOST_EVENTS clears it only through the BAR0 of its owner (rule R438). -/
def queClear (via : Via) (off : Nat) (s : State) : State :=
  let f := (off - 0x100000) / 0x1000
  if off % 0x80 = 0x14 ∧ via = .bar f then modQ s (32 * f + off % 0x1000 / 0x80) fun x => { x with lostEvents := 0 } else s

/-- RC fields and _LO registers of the Desk. -/
def deskClear (s : State) (o : Nat) : State :=
  match o with
  | 0x000 => s.setAdm { s.adm with deferred := 0 }
  | 0x004 => s.setAdm { s.adm with overruns := 0 }
  | 0x008 => s.setAdm { s.adm with demoted := 0 }
  | 0x00C => s.setAdm { s.adm with c0Late := 0 }
  | 0x210 => s.setClk { s.clk with hi := BitVec.ofNat 32 (s.clk.now.toNat / 2 ^ 32) }
  | _ => s

/-- Reset, tick and Vault: a read in the Vault window meets the check code of its word, as in control memory (Table 15.1). -/
def rstClear (s : State) (rd : Reader) (o : Nat) : State :=
  if 0x10000 ≤ o then (readErrors s (vaultBase + (o - 0x10000)) 4 rd none).2
  else
  match o with
  | 0x2008 => s.setTick { s.tick with numHi := BitVec.ofNat 16 (s.tick.num.toNat / 2 ^ 32) }
  | 0x2010 => s.setTick { s.tick with earlyCnt := 0 }
  | 0x2014 => s.setTick { s.tick with lostCnt := 0 }
  | _ => s

def pwrClear (s : State) (o : Nat) : State :=
  match o with
  | 0x0018 => s.setPwr { s.pwr with throttles := 0 }
  | 0x1008 => s.setMgt { s.mgt with lost := 0 }
  | 0x100C => s.setMgt { s.mgt with timeouts := 0, arbDrops := 0, msgDrops := 0, pecErrs := 0 }
  | _ => s

/-- A read in the log window meets the check code of its record (Table 15.2). -/
def relClear (s : State) (rd : Reader) (o : Nat) : State :=
  if 0x1000 ≤ o ∧ o < 0x2000 then (readErrors s (logSlotAddr s (o - 0x1000)) 32 rd none).2
  else
    match o with
    | 0x0008 => s.setRel { s.rel with logDrops := 0 }
    | 0x000C => s.setRel { s.rel with errCe := 0 }
    | 0x0010 => s.setRel { s.rel with errUe := 0 }
    | 0x3008 => s.setInv { s.inv with fails := 0 }
    | 0x3010 => s.setInv { s.inv with cmCe := 0, cmUe := 0 }
    | _ => s

def fabClear (s : State) (o : Nat) : State :=
  if 0x100 ≤ o ∧ o < 0x220 then
    modPort s ((o - 0x100) / 0x20) fun p =>
      match o % 0x20 with
      | 0x04 => { p with fec := 0 }
      | 0x08 => { p with crc := 0 }
      | 0x0C => { p with replay := 0 }
      | 0x10 => { p with cong := 0 }
      | _ => p
  else
    match o with
    | 0x10 => s.setFab { s.fab with sigLost := 0 }
    | 0x14 => s.setFab { s.fab with resends := 0 }
    | 0x18 => s.setFab { s.fab with noRoute := 0 }
    | _ => s

/-- What a read of a word does besides returning it: it clears RC fields and latches the high half of a pair (rules R6, R11). -/
def regRead (via : Via) (off : Nat) (s : State) : State :=
  if off < 0x20000 then s
  else if off < 0x20400 then deskClear s (off - 0x20000)
  else if 0x100000 ≤ off ∧ off < 0x120000 then queClear via off s
  else if 0x200000 ≤ off ∧ off < 0x220000 then rstClear s (viaReader via) (off - 0x200000)
  else if 0x300000 ≤ off ∧ off < 0x302000 then pwrClear s (off - 0x300000)
  else if 0x400000 ≤ off ∧ off < 0x404000 then relClear s (viaReader via) (off - 0x400000)
  else if 0x600000 ≤ off ∧ off < 0x600400 then fabClear s (off - 0x600000)
  else if 0x800000 ≤ off ∧ off < 0x1000000 then wingClear s ((off - 0x800000) / 0x40000) (off % 0x40000)
  else s

/-- A read of the word that contains an offset, by a path (rules R9, R12): the value and the state after it. -/
def readReg (via : Via) (off : Nat) (s : State) : Nat × State :=
  let o := off / 4 * 4
  if reaches via o then (regValue s o, regRead via o s) else (0, s)

/-! ### Writes -/

/-- A write of DSK_MB_CTL: GO submits the request of a mailbox that is not BUSY, once the Desk is ready (rule R264). -/
def mbGo (s : State) (f k : Nat) : State :=
  let m := getMb s f k
  if m.state = 1 || !s.desk.ready then s
  else
    let s := setMb s f k { m with state := 1, taken := false, order := s.desk.goOrder }
    s.setDesk { s.desk with goOrder := s.desk.goOrder + 1 }

/-- A write of DSK_FN_EVENT_EN; the vector fires when an enable is written to 1 while its bit is 1 (rule R287). MGMT_EN is the
physical function's alone. -/
def fnEnableWrite (s : State) (f n : Nat) : State :=
  let x := { getFn s f with cblockedEn := bit 31 n, haltedEn := bit 30 n, mgmtEn := bit 29 n && f == 0 }
  let t := setFn s f x
  if (x.cblockedEn && x.cblocked) || (x.haltedEn && x.halted) || (x.mgmtEn && x.mgmt) then fireMsix t f else t

/-- A write in a mailbox page. The request area is closed while the mailbox is BUSY (rule R262). -/
def pageStore (s : State) (f k o : Nat) (v : W32) : State :=
  let n := v.toNat
  if o < 0x100 then
    if (getMb s f k).state = 1 then s else modMb s f k fun m => { m with req := tabSet 0 m.req (o / 4) v }
  else
    match o with
    | 0x1E0 => if bit 31 n then mbGo s f k else s
    | 0x1EC =>
      modFn s f fun x => { x with cblocked := x.cblocked && !bit 31 n, halted := x.halted && !bit 30 n, mgmt := x.mgmt && !bit 29 n }
    | 0x1F0 => fnEnableWrite s f n
    | _ => s

/-- A write of 4 bytes in the Vault's host area: over an uncorrectable word it is discarded (rule R200). -/
def vaultStore (s : State) (rd : Reader) (off n : Nat) : State :=
  let s := storeErrors s (vaultBase + off) 4 rd none
  if vaultBad s off 4 then s else vaultPut s off (bytesOf 4 n)

/-- Reset, backup registers, tick status and the Vault's host area. -/
def rstStore (s : State) (rd : Reader) (o : Nat) (v : W32) : State :=
  let n := v.toNat
  let r := s.rst
  if 0x10000 ≤ o then (if 0x1C000 ≤ o then vaultStore s rd (o - 0x10000) n else s)
  else if 0x100 ≤ o ∧ o < 0x140 then s.setRst { r with backup := tabSet 0 r.backup ((o - 0x100) / 4) v }
  else
    match o with
    | 0x0004 => rstReq n s
    | 0x0008 => s.setRst { r with stretchMs := BitVec.ofNat 6 n }
    | 0x0014 => s.setRst { r with hostGo := r.hostGo || bit 31 n, slow := r.slow && !bit 27 n }
    | 0x2004 => s.setTick { s.tick with lost := s.tick.lost && !bit 31 n, early := s.tick.early && !bit 30 n }
    | _ => s

def pwrStore (s : State) (o n : Nat) : State :=
  match o with
  | 0x0000 => powerRequest (bits 1 0 n) (s.setPwr { s.pwr with autoWake := bit 2 n })
  | 0x0014 => s.setPwr { s.pwr with tripped := s.pwr.tripped && !bit 31 n }
  | _ => s

/-- A keyed write of REL_PERT_CTL (rules R65, R381, R382, Tables 15.9, 15.16). The generator is loaded when TICK_EN goes from 0
to 1, and gives the delay of the next boundary; a change writes a record. -/
def pertCtlWrite (n : Nat) (s : State) : State :=
  if bits 31 24 n ≠ 0xA5 || !pertPermitted s then s
  else
    let p := s.rel.pert
    let gen := if bit 2 n && !p.tick then (if p.seed = 0 then 0x6D2B79F5 else p.seed) else p.gen
    let q := { p with cred := bit 4 n, compl := bit 3 n, tick := bit 2 n, station := bit 1 n, gen := gen }
    let was := pertCtlWord s
    let s := s.setRel { s.rel with pert := q }
    let s := if q.tick = p.tick then s else drawJitter s
    let s := if pertActive s then loseC0 s else s
    if pertCtlWord s = was then s else logPush s (logSrc 9 0) 0x0030 [pertCtlWord s]

/-- The other perturbation registers. -/
def pertStore (s : State) (o : Nat) (v : W32) : State :=
  let p := s.rel.pert
  let put := fun (q : Pert) => s.setRel { s.rel with pert := q }
  if !pertPermitted s then s
  else
    match o with
    | 0x0104 => put { p with seed := v }
    | 0x0108 => put { p with stationReg := v }
    | 0x010C => put { p with jitter := BitVec.ofNat 16 v.toNat }
    | 0x0110 => put { p with complUs := BitVec.ofNat 14 v.toNat }
    | 0x0114 => put { p with credReg := v }
    | _ => s

def relStore (s : State) (o : Nat) (v : W32) : State :=
  let n := v.toNat
  match o with
  | 0x0004 => s.setRel { s.rel with logSlot := BitVec.ofNat 14 (bits 20 7 n) }
  | 0x0014 => s.setRel { s.rel with scrubLate := s.rel.scrubLate && !bit 31 n }
  | 0x0100 => pertCtlWrite n s
  | 0x3000 => s.setInv { s.inv with winBase := BitVec.ofNat 11 n }
  | 0x3004 => s.setInv { s.inv with late := s.inv.late && !bit 30 n }
  | _ => pertStore s o v

def secStore (s : State) (o n : Nat) : State :=
  if 0x100 ≤ o ∧ o < 0x200 then s.setSec { s.sec with token := winPut s.sec.token (bytesOf 4 n) (o - 0x100) }
  else if o = 4 then dbgCtlWrite n s
  else s

def fabStore (s : State) (o n : Nat) : State :=
  match o with
  | 0x04 => s.setFab { s.fab with lost := s.fab.lost && !bit 30 n }
  | 0x08 => s.setFab { s.fab with routeIdx := BitVec.ofNat 16 n }
  | _ => s

/-- A write of the word at an offset of BAR0; fields that software does not write, and offsets with no register, ignore it
(rules R6, R10). -/
def regStore (via : Via) (off : Nat) (v : W32) (s : State) : State :=
  if off < 0x20000 then pageStore s (off / 0x1000) (off % 0x1000 / 0x200) (off % 0x200) v
  else if 0x200000 ≤ off ∧ off < 0x220000 then rstStore s (viaReader via) (off - 0x200000) v
  else if 0x300000 ≤ off ∧ off < 0x302000 then pwrStore s (off - 0x300000) v.toNat
  else if 0x400000 ≤ off ∧ off < 0x404000 then relStore s (off - 0x400000) v
  else if 0x500000 ≤ off ∧ off < 0x500200 then secStore s (off - 0x500000) v.toNat
  else if 0x600000 ≤ off ∧ off < 0x600400 then fabStore s (off - 0x600000) v.toNat
  else if 0x800000 ≤ off ∧ off < 0x1000000 then wingStore s ((off - 0x800000) / 0x40000) (off % 0x40000) v
  else s

/-- A write by a path: only naturally aligned 32-bit writes count (rule R9), and only where the path reaches (rule R12). -/
def writeReg (via : Via) (off size : Nat) (v : W32) (s : State) : State :=
  if size = 4 ∧ off % 4 = 0 ∧ reaches via off then regStore via off v s else s

/-! ### Commands -/

/-- REGISTER_WRITE: a host write through the BAR0 of function f. -/
def registerWrite (f off size : Nat) (v : W32) (s : State) : State :=
  if !barOpen s f then closedBar f s
  else if f == 0 && barHeld s then holdAcc s (.regWrite off size v)
  else writeReg (.bar f) off size v s

def execRegisterWrite (f : Fin 32) (off : BitVec 26) (size : Nat) (v : W32) (s : State) : Host.Outcome State Fault Refusal :=
  .next (finish s (settle (registerWrite f off.toNat size v s)))

/-- The value and the effect of a read through the BAR0 of a function. Before READY a register reads as its reset value (rule R409),
and the read has no other effect (notes/assumptions/67). -/
def barRead (f off : Nat) (ecc : List EccHit) (s : State) : State :=
  let r := if s.desk.ready then readReg (.bar f) off (addHits s ecc) else ((readReg (.bar f) off State.reset).1, addHits s ecc)
  emit r.2 (.readData f (bytesOf 4 r.1))

/-- A host read of the word at an offset through the BAR0 of function f, and its data. The SRAM windows have their own command. -/
def hostReadReg (f off : Nat) (ecc : List EccHit) (s : State) : State :=
  if !barOpen s f then closedRead f s
  else if f == 0 && (windowAt s off).isSome then s
  else if f == 0 && barHeld s then holdAcc s (.regRead (off / 4 * 4) ecc)
  else barRead f off ecc s

def execRcFieldRead (f : Fin 32) (off : BitVec 26) (s : State) (ecc : List EccHit := []) : Host.Outcome State Fault Refusal :=
  .next (finish s (hostReadReg f off.toNat ecc s))
def execDskAclockLoRead (s : State) : Host.Outcome State Fault Refusal := .next (finish s (hostReadReg 0 0x20210 [] s))
def execRstTickNumLoRead (s : State) : Host.Outcome State Fault Refusal := .next (finish s (hostReadReg 0 0x202008 [] s))

/-- QUE_LOST_EVENTS_READ: function f reads the register of device queue q. -/
def execQueLostEventsRead (f : Fin 32) (q : Fin 1024) (s : State) : Host.Outcome State Fault Refusal :=
  .next (finish s (hostReadReg f (0x100000 + 0x1000 * (q.val / 32) + 0x80 * (q.val % 32) + 0x14) [] s))

def execFnEventEnWrite (f : Fin 32) (v : W32) (s : State) : Host.Outcome State Fault Refusal :=
  .next (finish s (registerWrite f (0x1000 * f.val + 0x1F0) 4 v s))
def execRelPertCtlWrite (v : W32) (s : State) : Host.Outcome State Fault Refusal :=
  .next (finish s (registerWrite 0 0x400100 4 v s))

end Sys2Proof.Machine
end

