-- ==== Sys2Proof/Machine/Debug.lean ====
section
/-! DEFINITION. Debug access by register and by device address (rules R213, R395, R401, R439, R443; Tables 9.1, 19.2): what REG_READ,
REG_WRITE, MEM_READ, MEM_WRITE and LOG_READ of the management bus reach. -/

namespace Sys2Proof.Machine

/-- The Wings and the tiers cannot be reached in Drowse (Table 16.5). -/
def dark (s : State) : Bool := s.pwr.state == .drowse || s.pwr.state == .off

/-- Whether debug reaches a word of on-chip SRAM by its view offset. -/
def sramLit (s : State) (o : Nat) : Bool :=
  match sramAt o with
  | .bank _ _ _ => !dark s
  | .ctrl _ => true
  | .none => false

/-- Whether debug reaches a word through an SRAM window: what the physical function reaches (rule R439). -/
def windowLit (s : State) (o : Nat) : Bool := sramHost o && sramLit s o

/-! ### Reads of device addresses -/

/-- A byte of the boot ROM or of the route table in control space (Table 19.2). -/
def controlByte (s : State) (a : Nat) : Nat :=
  if 0x70010000000 ≤ a ∧ a < 0x70010040000 then (Config.bootRom (a - 0x70010000000)).toNat
  else if 0x70020000000 ≤ a ∧ a < 0x70020040000 then
    let o := a - 0x70020000000
    routeEnt s (o / 4) / 2 ^ (8 * (o % 4)) % 256
  else 0

/-- The byte at a device address that is no register. -/
def deviceByte (s : State) (a : Nat) : Byte :=
  match regionOf s a with
  | .nearTier => if dark s then 0 else readByte s a
  | .depos => if dark s then 0 else readByte s a
  | .reserve =>
    if dark s then 0
    else if a < logBase then
      let o := a - 0x07FF0000000
      BitVec.ofNat 8 ((entryWords (getFolio s (o / 16))).getD (o % 16 / 4) 0 / 2 ^ (8 * (o % 4)))
    else readByte s a
  | .sram _ => if sramLit s (viewOff a) then readByte s (plainAddr a) else 0
  | .control => BitVec.ofNat 8 (controlByte s a)
  | .hole => 0

/-- Whether an address lies in the register mirror of control space; the SRAM windows have no mirror (rule R439). -/
def inMirror (a : Nat) : Bool := decide (0x70000000000 ≤ a) && decide (a < 0x70002000000)

/-- A read of n bytes from address a, piece by piece: a register is read once for the bytes of it that the access takes
(rule R9). fuel: the bytes. -/
def readDevice (s : State) (a : Nat) : Nat → Nat → List Byte × State
  | 0, _ => ([], s)
  | _, 0 => ([], s)
  | fuel + 1, n + 1 =>
    if inMirror a then
      let r := readReg .control (a - 0x70000000000) s
      let k := min (4 - a % 4) (n + 1)
      let rest := readDevice r.2 (a + k) fuel (n + 1 - k)
      (((bytesOf 4 r.1).drop (a % 4)).take k ++ rest.1, rest.2)
    else
      let rest := readDevice s (a + 1) fuel n
      (deviceByte s a :: rest.1, rest.2)

/-- Where one region of Table 9.1, or one view of Table 8.2, ends and the next begins. -/
def regionCuts (s : State) : List Nat :=
  [0x07FF0000000, logBase, 0x08000000000, 0x10000000000, 0x10000000000 + deposBytes s, 0x40000000000, 0x50000000000, 0x60000000000,
    0x70000000000, 0x80000000000]

/-- An access in parts that lie in one region each, as address and length: an access of at most 1,024 bytes
crosses at most one border. -/
def accessParts (s : State) (a n : Nat) : List (Nat × Nat) :=
  match (regionCuts s).find? fun c => decide (a < c) && decide (c < a + n) with
  | none => [(a, n)]
  | some c => [(a, c - a), (c, a + n - c)]

/-- The part of an access to control space that meets the Vault window, as offset in the Vault and length. -/
def vaultPart (a n : Nat) : Nat × Nat :=
  let base := 0x70000210000
  let lo := max a base
  (lo - base, min (a + n) (base + 0x10000) - lo)

/-- Whether a read in one region meets uncorrectable words, and the state with every error that it meets reported. A correction in
the Vault window is counted when its register is read. -/
def partErrors (s : State) (a n : Nat) : Bool × State :=
  match regionOf s a with
  | .sram _ =>
    ((wordsTouched (viewOff a) n).filter (sramLit s)).foldl (fun st w =>
      let r := readErrors st.2 (sramAddr w) 8 .debug none
      (st.1 || r.1, r.2)) (false, s)
  | .control =>
    let p := vaultPart a n
    if vaultBad s p.1 p.2 then readErrors s (vaultBase + p.1) p.2 .debug none else (false, s)
  | .hole => (false, s)
  | _ => if dark s then (false, s) else readErrors s a n .debug none

/-- Whether an access meets uncorrectable words, and the state with every error that it meets reported (rules R200, R368, R370). -/
def debugErrors (s : State) (a n : Nat) : Bool × State :=
  (accessParts s a n).foldl (fun st p =>
    let r := partErrors st.2 p.1 p.2
    (st.1 || r.1, r.2)) (false, s)

/-! ### Writes of device addresses -/

/-- A Shelfmark entry with bytes written from offset o of the table. -/
def writeEntries (s : State) (o : Nat) : List Byte → State
  | [] => s
  | b :: bs =>
    let f := getFolio s (o / 16)
    let old := (entryWords f).flatMap (bytesOf 4)
    writeEntries (setFolio s (o / 16) (entryOf (wordsOf (old.set (o % 16) b)))) (o + 1) bs

/-- A write of Shelfmark entries under their check code: one that covers a damaged 32-byte word partly is discarded. -/
def storeEntries (s : State) (a : Nat) (bs : List Byte) : Nat × State :=
  let n := bs.length
  let whole := fun x => decide (a ≤ x) && decide (x + 32 ≤ a + n)
  if (ueIn s a n).all whole then
    let t := writeEntries s (a - 0x07FF0000000) bs
    (0, t.setEcc { ue := t.ecc.ue.filter fun x => !meets a n x, ce := t.ecc.ce.filter fun x => !meets a n x })
  else (2, s)

/-- Aligned 32-bit writes of the register mirror; a part of a word is discarded (rule R9). -/
def writeMirror (s : State) (o : Nat) : Nat → List Byte → State
  | 0, _ => s
  | fuel + 1, bs =>
    if bs.isEmpty then s
    else
      let k := 4 - o % 4
      let t := if k = 4 ∧ 4 ≤ bs.length then writeReg .control o 4 (BitVec.ofNat 32 (natOf (bs.take 4))) s else s
      writeMirror t (o + k) fuel (bs.drop k)

/-- Whether a write of bytes to the register mirror meets an uncorrectable word in the Vault's host area, which discards it there. -/
def mirrorBad (s : State) (a n : Nat) : Bool :=
  (List.range n).any fun i =>
    let o := a + i - 0x70000210000
    (a + i) % 4 == 0 && decide (i + 4 ≤ n) && decide (0x7000021C000 ≤ a + i) && decide (a + i < 0x70000220000) && vaultBad s o 4

/-- A write of bytes in one region: 0 done, 1 superseded, 2 uncorrectable (rules R195, R200, R213, R368). -/
def writePart (s : State) (portA : List (Nat × W64)) (a : Nat) (bs : List Byte) : Nat × State :=
  match regionOf s a with
  | .sram view => sramWrite s .debug view portA (sramLit s) (viewOff a) bs
  | .control =>
    if inMirror a then (if mirrorBad s a bs.length then 2 else 0, writeMirror s (a - 0x70000000000) bs.length bs) else (0, s)
  | .hole => (0, s)
  | .reserve =>
    if dark s then (0, s)
    else if a < logBase then storeEntries s a bs
    else
      let r := storeBytes s a bs
      (if r.1 then 0 else 2, r.2)
  | _ =>
    if dark s then (0, s)
    else
      let r := storeBytes s a bs
      (if r.1 then 0 else 2, r.2)

/-- A write of bytes at a device address; the status is the gravest of its parts. -/
def writeDevice (s : State) (portA : List (Nat × W64)) (a : Nat) (bs : List Byte) : Nat × State :=
  (accessParts s a bs.length).foldl (fun st p =>
    let r := writePart st.2 portA p.1 ((bs.drop (p.1 - a)).take p.2)
    (max st.1 r.1, r.2)) (0, s)

/-- Whether an access waits for the fill of a Wing (rule R209): the message is answered after it. -/
def deviceWaits (s : State) (a n : Nat) : Bool :=
  (accessParts s a n).any fun p => match regionOf s p.1 with
    | .sram _ => viewWaits s (viewOff p.1) p.2
    | _ => false

/-- Whether a register message names a window onto a memory whose fill is still to come. -/
def windowWaits (s : State) (off : Nat) : Bool := (windowAt s off).any fun x => viewWaits s x.2 4

/-! ### Registers and the log -/

/-- Whether an offset of BAR0 lies in the Vault window. -/
def inVault (off : Nat) : Bool := decide (0x210000 ≤ off) && decide (off < 0x220000)
/-- Whether it lies in the log window, whose records stand in the Stacks. -/
def inLogWindow (off : Nat) : Bool := decide (0x401000 ≤ off) && decide (off < 0x402000)

/-- A debug read of a word by BAR0 offset: whether it met an uncorrectable word, its value, the state after it (Table 17.5). -/
def debugRegRead (off : Nat) (s : State) : Bool × Nat × State :=
  let full := s.sec.level == 2
  let o := off / 4 * 4
  match windowAt s o with
  | some (_, v) =>
    if full && windowLit s (v / 8 * 8) then
      let r := debugErrors s (sramAddr v) 4
      (r.1, if r.1 then 0 else natOf (sramBytes s (windowLit s) v 4), r.2)
    else (false, 0, s)
  | none =>
    if (inVault o && !full) || (inLogWindow o && dark s) then (false, 0, s)
    else
      let r := readReg .debug o s
      (inVault o && vaultBad s (o - 0x210000) 4, r.1, r.2)

/-- A debug write of a word by BAR0 offset; the status as writeDevice answers it. portA: what owners write in the same cycle
(rule R196). -/
def debugRegWrite (off : Nat) (v : W32) (portA : List (Nat × W64)) (s : State) : Nat × State :=
  match windowAt s off with
  | some (view, o) => if off % 4 = 0 then sramWrite s .debug view portA (windowLit s) o (bytesOf 4 v.toNat) else (0, s)
  | none =>
    (if off % 4 = 0 ∧ inVault off ∧ 0x21C000 ≤ off ∧ vaultBad s (off - 0x210000) 4 then 2 else 0, writeReg .debug off 4 v s)

/-- Log records from number first: those that have been written and not overwritten, as bytes; a damaged one reads as 0. -/
def logRecords (first count : Nat) (s : State) : List Byte × State :=
  let head := s.rel.logHead.toNat
  let nums := ((List.range count).map fun i => first + i).filter fun n => decide (n < head) && decide (head ≤ n + 2 ^ 21)
  nums.foldl (fun st n =>
    let a := logBase + 32 * (n % 2 ^ 21)
    if dark s then (st.1 ++ List.replicate 32 0, st.2)
    else
      let r := readErrors st.2 a 32 .debug none
      (st.1 ++ (if r.1 then List.replicate 32 0 else readMem s a 32), r.2)) ([], s)

end Sys2Proof.Machine
end

