-- ==== Sys2Proof/Machine/Mgmt.lean ====
section
/-! DEFINITION. The management bus (rules R410 to R416): when it answers, the enumeration chain, bus errors, MCTP packets and
control commands, SPDM (rule R391, Table 16.2) and PLDM Types 0 and 2 (Table 17.3). Responses are put out as decoded data
(notes/assumptions/11). -/

namespace Sys2Proof.Machine

/-! ### When the bus answers (rule R411) -/

/-- The bus interface answers: pins released, no L0, L1 or L2 episode, not Off. -/
def busUp (s : State) : Bool :=
  let held := match s.rst.episode with
    | some e => e.level != 3
    | none => false
  s.rst.pinsReleased && !held && !isOff s

/-- A message at the assigned address is served by the running firmware; otherwise it is not acknowledged (rules R411, R412). -/
def serve (name : String) (f : State → State) (s : State) : State :=
  if busUp s && s.mgt.serving && s.mgt.assigned then f s else emit s (.nack name)

def answer (name : String) (status : Nat) (data : List Nat) (s : State) : State := emit s (.reply name status data)

def byteData (bs : List Byte) : List Nat := bs.map BitVec.toNat

/-! ### Enumeration and bus errors (rules R410, R412) -/

/-- Data bytes that name an address which may not be assigned. -/
def addrReserved (a : Nat) : Bool :=
  decide (a ≤ 0x07) || decide (0x78 ≤ a) || [0x0C, 0x28, 0x37, 0x5C, 0x5D, 0x61].contains a

/-- MGT_STAT.SPEED of a rate that the device has measured. -/
def rateCode : BusRate → BitVec 2
  | .k100 => 0
  | .k400 => 1
  | .m1 => 2

/-- ADDRESS_COMMAND: a Write Byte 0xF0 at an address, with the level of ENUM_IN at its START. -/
def addressCommand (addr : BitVec 7) (data : Byte) (pecOk enumIn : Bool) (rate : BusRate) (s : State) : State :=
  if !busUp s then s
  else if s.mgt.assigned then s.setMgt { s.mgt with speed := rateCode rate }
  else
    let m := { s.mgt with enumIn := enumIn, speed := rateCode rate }
    let s := s.setMgt m
    if addr ≠ m.dflt ∨ !enumIn then s
    else if !pecOk then emit (s.setMgt { m with pecErrs := satAdd m.pecErrs 1 }) (.nack "ADDRESS_COMMAND")
    else if data.toNat % 2 ≠ 0 ∨ addrReserved (data.toNat / 2) then emit s (.nack "ADDRESS_COMMAND")
    else s.setMgt { m with assigned := true, addr := BitVec.ofNat 7 (data.toNat / 2), enumOut := true }

def execAddressCommand (addr : BitVec 7) (data : Byte) (pecOk enumIn : Bool) (s : State) (rate : BusRate := .k100) :
    Host.Outcome State Fault Refusal :=
  .next (finish s (addressCommand addr data pecOk enumIn rate s))

/-- ALERT_RESPONSE: the device answers with its address while it asserts ALERT_N, unless a lower address wins. -/
def alertResponse (lowerWins : Bool) (s : State) : State :=
  let m := s.mgt
  if busUp s && !m.events.isEmpty && !lowerWins then
    answer "ALERT_RESPONSE" 0 [(if m.assigned then m.addr else m.dflt).toNat] s
  else s

def execAlertResponse (lowerWins : Bool) (s : State) : Host.Outcome State Fault Refusal :=
  .next (finish s (alertResponse lowerWins s))

def smbusTimeout (s : State) : State :=
  if busUp s then s.setMgt { s.mgt with timeouts := satAdd s.mgt.timeouts 1, retries := 0 } else s

def execSmbusTimeout (s : State) : Host.Outcome State Fault Refusal := .next (finish s (smbusTimeout s))

def isReply : Out → Bool
  | .reply _ _ _ => true
  | _ => false

/-- The place in out of the response that the device is sending: its last. -/
def sendingAt (s : State) : Option Nat := ((s.out.zipIdx.filter fun x => isReply x.1).getLast?).map fun x => x.2

/-- ARBITRATION_LOST: up to 3 retries of the response, then it is dropped and counted. -/
def arbitrationLost (s : State) : State :=
  match if busUp s then sendingAt s else none with
  | none => s
  | some i =>
    let m := s.mgt
    let lost := if m.retryOf = i then m.retries else 0
    if lost < 3 then s.setMgt { m with retries := lost + 1, retryOf := i }
    else (s.setMgt { m with retries := 0, retryOf := i, arbDrops := satAdd m.arbDrops 1 }).setOut (s.out.eraseIdx i)

def execArbitrationLost (s : State) : Host.Outcome State Fault Refusal := .next (finish s (arbitrationLost s))

/-! ### MCTP (rule R414) -/

def msgDrop (s : State) : State := s.setMgt { s.mgt with msgDrops := satAdd s.mgt.msgDrops 1 }

/-- A message whose reassembly is as given after a packet: too long it is dropped, ended it leaves, otherwise it waits. -/
def reassembled (x : Reasm) (eom : Bool) (s : State) : State :=
  if 1088 < x.body.length then msgDrop s
  else if eom then s
  else s.setMgt { s.mgt with reasm := s.mgt.reasm ++ [x] }

/-- A packet that its PEC accepts. A first packet begins a message and drops one of the same source and tag; a further packet
without its message is discarded. A message that is whole is the command of its own row. -/
def packetIn (p : MctpPkt) (s : State) : State :=
  let same := fun (x : Reasm) => x.src == p.src && x.msgTag == p.msgTag
  let rest := s.mgt.reasm.filter fun x => !same x
  let t := s.setMgt { s.mgt with reasm := rest }
  if p.som then
    if !([0x00, 0x01, 0x05, 0x7E].contains p.msgType.toNat) then msgDrop t
    else if 4 ≤ rest.length then msgDrop t
    else reassembled { src := p.src, msgTag := p.msgTag, msgType := p.msgType, body := p.body } p.eom t
  else
    match s.mgt.reasm.find? same with
    | none => s
    | some x => reassembled { x with body := x.body ++ p.body } p.eom t

def mctpPacket (p : MctpPkt) (rate : BusRate) (s : State) : State :=
  serve "MCTP_PACKET" (fun s =>
    let s := s.setMgt { s.mgt with speed := rateCode rate }
    if p.pecOk then packetIn p s else s.setMgt { s.mgt with pecErrs := satAdd s.mgt.pecErrs 1 }) s

def execMctpPacket (p : MctpPkt) (s : State) (rate : BusRate := .k100) : Host.Outcome State Fault Refusal :=
  .next (finish s (mctpPacket p rate s))

/-- SET_ENDPOINT_ID: the null and the broadcast ID are refused with ERROR_INVALID_DATA. -/
def setEndpointId (eid : Byte) (s : State) : State :=
  serve "SET_ENDPOINT_ID" (fun s =>
    if eid = 0 ∨ eid = 0xFF then answer "SET_ENDPOINT_ID" 2 [] s
    else answer "SET_ENDPOINT_ID" 0 [eid.toNat] (s.setMgt { s.mgt with eid := eid })) s

def execSetEndpointId (eid : Byte) (s : State) : Host.Outcome State Fault Refusal := .next (finish s (setEndpointId eid s))

def execGetEndpointId (s : State) : Host.Outcome State Fault Refusal :=
  .next (finish s (serve "GET_ENDPOINT_ID" (fun s => answer "GET_ENDPOINT_ID" 0 [s.mgt.eid.toNat] s) s))

/-- DEVICE_ID, byte 0 first. -/
def deviceIdBytes : List Byte := bytesOf 48 Config.deviceId.toNat

/-- The UUID: bytes 8 to 23 of DEVICE_ID; without an identity its value is not stated. -/
def endpointUuid (s : State) : State :=
  if s.sec.pufFail then
    let (v, s) := freePick s
    answer "GET_ENDPOINT_UUID" 0 (byteData (bytesOf 16 v)) s
  else answer "GET_ENDPOINT_UUID" 0 (byteData ((deviceIdBytes.drop 8).take 16)) s

def execGetEndpointUuid (s : State) : Host.Outcome State Fault Refusal :=
  .next (finish s (serve "GET_ENDPOINT_UUID" endpointUuid s))

/-- The version of MCTP is 1.3; those of the bindings are not stated. -/
def mctpVersion (t : Nat) (s : State) : State :=
  if t = 0xFF ∨ t = 0x00 then answer "GET_MCTP_VERSION_SUPPORT" 0 [1, 0xF1F3F100] s
  else if t = 0x01 ∨ t = 0x05 ∨ t = 0x7E then
    let (v, s) := freePick s
    answer "GET_MCTP_VERSION_SUPPORT" 0 [1, v] s
  else answer "GET_MCTP_VERSION_SUPPORT" 0x80 [] s

def execGetMctpVersionSupport (msgType : Byte) (s : State) : Host.Outcome State Fault Refusal :=
  .next (finish s (serve "GET_MCTP_VERSION_SUPPORT" (mctpVersion msgType.toNat) s))

def execGetMessageTypeSupport (s : State) : Host.Outcome State Fault Refusal :=
  .next (finish s (serve "GET_MESSAGE_TYPE_SUPPORT" (answer "GET_MESSAGE_TYPE_SUPPORT" 0 [4, 0x00, 0x01, 0x05, 0x7E]) s))

def execGetVendorDefinedMessageSupport (s : State) : Host.Outcome State Fault Refusal :=
  .next (finish s (serve "GET_VENDOR_DEFINED_MESSAGE_SUPPORT"
    (answer "GET_VENDOR_DEFINED_MESSAGE_SUPPORT" 0 [0xFF, 0, 0x1FC7]) s))

/-! ### SPDM (rules R385, R391) -/

/-- Without an identity no attestation request is answered. -/
def spdm (name : String) (f : State → State) (s : State) : State := serve name (fun s => if s.sec.pufFail then s else f s) s

/-- The certificate chain of slot 0, in the flash. -/
def certChain (s : State) : List Byte := memBytes 0xFF s.flash 0x10000 0x10000

def digestBytes (d : BitVec 384) : List Byte := bytesOf 48 d.toNat

def execSpdmGetVersion (s : State) : Host.Outcome State Fault Refusal :=
  .next (finish s (spdm "SPDM_GET_VERSION" (answer "SPDM_GET_VERSION" 0 [0x12]) s))

/-- Certificates, challenge and signed measurements; no session. -/
def execSpdmGetCapabilities (s : State) : Host.Outcome State Fault Refusal :=
  .next (finish s (spdm "SPDM_GET_CAPABILITIES" (answer "SPDM_GET_CAPABILITIES" 0 [0x16]) s))

/-- ECDSA P-384 and SHA-384. -/
def execSpdmNegotiateAlgorithms (s : State) : Host.Outcome State Fault Refusal :=
  .next (finish s (spdm "SPDM_NEGOTIATE_ALGORITHMS" (answer "SPDM_NEGOTIATE_ALGORITHMS" 0 [0x80, 0x02]) s))

def execSpdmGetDigests (s : State) : Host.Outcome State Fault Refusal :=
  .next (finish s (spdm "SPDM_GET_DIGESTS" (fun s =>
    answer "SPDM_GET_DIGESTS" 0 (0x01 :: byteData (digestBytes (Config.sha384 (certChain s)))) s) s))

/-- A part of the chain: its length, what remains behind it, its bytes. -/
def certificatePart (slot offset length : Nat) (s : State) : State :=
  let chain := certChain s
  if slot ≠ 0 ∨ chain.length ≤ offset then answer "SPDM_GET_CERTIFICATE" 1 [] s
  else
    let part := (chain.drop offset).take length
    answer "SPDM_GET_CERTIFICATE" 0 ([part.length, chain.length - offset - part.length] ++ byteData part) s

def execSpdmGetCertificate (slot : Byte) (offset length : Nat) (s : State) : Host.Outcome State Fault Refusal :=
  .next (finish s (spdm "SPDM_GET_CERTIFICATE" (certificatePart slot.toNat offset length) s))

/-- A challenge on slot 0: the digest of the chain, the responder's nonce, and the signature of IDK over the nonces and it. -/
def challenge (slot : Nat) (nonce : List Byte) (s : State) : State :=
  if slot ≠ 0 then answer "SPDM_CHALLENGE" 1 [] s
  else
    let (v, s) := freePick s
    let body := digestBytes (Config.sha384 (certChain s)) ++ bytesOf 32 v
    answer "SPDM_CHALLENGE" 0 (byteData (body ++ Config.signIdk (nonce ++ body))) s

def execSpdmChallenge (slot : Byte) (nonce : List Byte) (s : State) : Host.Outcome State Fault Refusal :=
  .next (finish s (spdm "SPDM_CHALLENGE" (challenge slot.toNat nonce) s))

/-- A measurement block (Table 16.2). -/
def measurement (s : State) (index : Nat) : Option (List Byte) :=
  match index with
  | 1 => some (digestBytes Config.bootRomDigest)
  | 2 => some (digestBytes s.sec.fwDigest)
  | 3 => some (digestBytes s.sec.optDigest)
  | 4 =>
    some ([s.sec.state.toNat, s.sec.level.toNat, s.rst.code.toNat, b2n s.rst.safe + fld 1 (b2n (pertActive s))].flatMap (bytesOf 1))
  | 5 => some (bytesOf 2 s.sec.fwSvn.toNat ++ bytesOf 2 s.sec.optSvn.toNat)
  | _ => none

/-- Index 0 asks for the number of blocks, 0xFF for all of them. -/
def measurements (index : Nat) (signed_ : Bool) (nonce : List Byte) (s : State) : State :=
  let body := if index = 0 then some [5]
    else if index = 0xFF then some ([1, 2, 3, 4, 5].flatMap fun i => (measurement s i).getD [])
    else measurement s index
  match body with
  | none => answer "SPDM_GET_MEASUREMENTS" 1 [] s
  | some b => answer "SPDM_GET_MEASUREMENTS" 0 (byteData (if signed_ then b ++ Config.signIdk (nonce ++ b) else b)) s

def execSpdmGetMeasurements (index : Byte) (signed : Bool) (nonce : List Byte) (s : State) : Host.Outcome State Fault Refusal :=
  .next (finish s (spdm "SPDM_GET_MEASUREMENTS" (measurements index.toNat signed nonce) s))

/-! ### PLDM Type 0 -/

def execGetTid (s : State) : Host.Outcome State Fault Refusal :=
  .next (finish s (serve "GET_TID" (fun s => answer "GET_TID" 0 [s.mgt.tid.toNat] s) s))

/-- The null and the reserved terminus ID are refused. -/
def setTid (tid : Byte) (s : State) : State :=
  if tid = 0 ∨ tid = 0xFF then answer "SET_TID" 2 [] s else answer "SET_TID" 0 [] (s.setMgt { s.mgt with tid := tid })

def execSetTid (tid : Byte) (s : State) : Host.Outcome State Fault Refusal := .next (finish s (serve "SET_TID" (setTid tid) s))

/-- The versions of the three types are not stated. -/
def pldmVersion (t : Nat) (s : State) : State :=
  if t = 0 ∨ t = 2 ∨ t = 5 then
    let (v, s) := freePick s
    answer "GET_PLDM_VERSION" 0 [v] s
  else answer "GET_PLDM_VERSION" 0x83 [] s

def execGetPldmVersion (pldmType : Byte) (s : State) : Host.Outcome State Fault Refusal :=
  .next (finish s (serve "GET_PLDM_VERSION" (pldmVersion pldmType.toNat) s))

def execGetPldmTypes (s : State) : Host.Outcome State Fault Refusal :=
  .next (finish s (serve "GET_PLDM_TYPES" (answer "GET_PLDM_TYPES" 0 [0x25]) s))

/-- The commands of each type (rules R416, R419) by their codes in the PLDM standards. -/
def pldmCommands (t : Nat) (s : State) : State :=
  match t with
  | 0 => answer "GET_PLDM_COMMANDS" 0 [0x01, 0x02, 0x03, 0x04, 0x05] s
  | 2 => answer "GET_PLDM_COMMANDS" 0 [0x0B, 0x11, 0x21, 0x50, 0x51] s
  | 5 => answer "GET_PLDM_COMMANDS" 0 [0x01, 0x02, 0x10, 0x13, 0x14, 0x15, 0x16, 0x17, 0x18, 0x1A, 0x1B, 0x1D] s
  | _ => answer "GET_PLDM_COMMANDS" 0x83 [] s

def execGetPldmCommands (pldmType : Byte) (s : State) : Host.Outcome State Fault Refusal :=
  .next (finish s (serve "GET_PLDM_COMMANDS" (pldmCommands pldmType.toNat) s))

/-! ### PLDM Type 2 (Table 17.3) -/

/-- The first of warning 1, critical 2 and fatal 3 that a reading has reached from below, gravest first. -/
def upper (v : Nat) : List (Nat × Nat) → Nat
  | [] => 0
  | (lim, st) :: t => if lim ≤ v then st else upper v t

/-- The same for a reading that falls below its limits. -/
def lower (v : Nat) : List (Nat × Nat) → Nat
  | [] => 0
  | (lim, st) :: t => if v < lim then st else lower v t

/-- A numeric sensor: its reading and its threshold state; none for a reading that is unavailable. -/
def sensor (s : State) (id : Nat) : Option (Option (Nat × Nat)) :=
  let p := s.pwr
  let r := s.rel
  let days := r.days.toNat
  let count := fun (n : Nat) => n % 2 ^ 32
  match id with
  | 1 => some (some (p.avg1ms.toNat, upper p.avg1ms.toNat [(p.capInForce.toNat, 1)]))
  | 2 => some (some (p.dieC.toNat, upper p.dieC.toNat [(115, 3), (105, 2), (100, 1)]))
  | 3 => some (some (p.hbmC.toNat, upper p.hbmC.toNat [(95, 2), (90, 1)]))
  | 4 => some (some (p.aclkMhz.toNat, 0))
  | 5 => some (some (p.vcoreMv.toNat, 0))
  | 6 => some (some (p.capInForce.toNat, 0))
  | 8 => some (if days = 0xFFFF then none else some (days, lower days [(30, 3), (90, 2), (365, 1)]))
  | 9 => some (some (count r.totalCe, 0))
  | 10 => some (some (count r.totalUe, upper r.totalUe [(1, 1)]))
  | 11 => some (some (larrays s, lower (larrays s) [(1024, 1)]))
  | 12 => some (some (((List.range 9).filter (portUp s)).length, 0))
  | 13 => some (some (s.tier.depGib, 0))
  | _ => none

/-- GET_SENSOR_READING: 1 with the reading and its state, or 0 where it is unavailable. A read clears no register. -/
def sensorReading (id : Nat) (s : State) : State :=
  match sensor s id with
  | none => answer "GET_SENSOR_READING" 0x80 [] s
  | some none => answer "GET_SENSOR_READING" 0 [0] s
  | some (some (v, st)) => answer "GET_SENSOR_READING" 0 [1, v, st] s

def execGetSensorReading (id : BitVec 16) (s : State) : Host.Outcome State Fault Refusal :=
  .next (finish s (serve "GET_SENSOR_READING" (sensorReading id.toNat) s))

/-- The state sensors 7 and 14. -/
def stateReadings (id : Nat) (s : State) : State :=
  match id with
  | 7 => answer "GET_STATE_SENSOR_READINGS" 0 [pstateCode s.pwr.state] s
  | 14 => answer "GET_STATE_SENSOR_READINGS" 0 [s.sec.state.toNat, s.sec.level.toNat] s
  | _ => answer "GET_STATE_SENSOR_READINGS" 0x80 [] s

def execGetStateSensorReadings (id : BitVec 16) (s : State) : Host.Outcome State Fault Refusal :=
  .next (finish s (serve "GET_STATE_SENSOR_READINGS" (stateReadings id.toNat) s))

/-- Record handle 0 asks for the first record. -/
def pdrRead (handle : Nat) (s : State) : State :=
  let h := max handle 1
  if h ≤ Config.pdrCount then answer "GET_PDR" 0 (byteData (Config.pdr h)) s else answer "GET_PDR" 0x82 [] s

def execGetPdr (handle : Nat) (s : State) : Host.Outcome State Fault Refusal := .next (finish s (serve "GET_PDR" (pdrRead handle) s))

def execGetPdrRepositoryInfo (s : State) : Host.Outcome State Fault Refusal :=
  .next (finish s (serve "GET_PDR_REPOSITORY_INFO" (answer "GET_PDR_REPOSITORY_INFO" 0 [Config.pdrCount]) s))

/-- The 13 data bytes of an event (rule R417). -/
def eventData (e : MEvt) : List Byte := [e.code] ++ bytesOf 4 e.data.toNat ++ bytesOf 8 e.stamp.toNat

/-- POLL_FOR_PLATFORM_EVENT_MESSAGE: an acknowledgement removes the oldest event; the answer is the oldest that remains. -/
def pollEvents (acknowledge : Bool) (s : State) : State :=
  let s := if acknowledge then s.setMgt { s.mgt with events := s.mgt.events.drop 1 } else s
  match s.mgt.events with
  | [] => answer "POLL_FOR_PLATFORM_EVENT_MESSAGE" 0 [] s
  | e :: _ => answer "POLL_FOR_PLATFORM_EVENT_MESSAGE" 0 (byteData (eventData e)) s

def execPollForPlatformEventMessage (acknowledge : Bool) (s : State) : Host.Outcome State Fault Refusal :=
  .next (finish s (serve "POLL_FOR_PLATFORM_EVENT_MESSAGE" (pollEvents acknowledge) s))

end Sys2Proof.Machine
end

