-- ==== Sys2Proof/Machine/Update.lean ====
section
/-! DEFINITION. PLDM Type 5, the firmware update (rules R419, R420), and the vendor-defined commands (rule R418, Table 17.5). -/

namespace Sys2Proof.Machine

/-! ### Firmware update -/

/-- Flash areas of a component: copy A, copy B and the size of each (Table 18.6). -/
def flashArea (component : Nat) : Option (Nat × Nat × Nat) :=
  match component with
  | 1 => some (0x20000, 0x420000, 0x400000)
  | 2 => some (0x820000, 0xA20000, 0x200000)
  | 3 => some (0x0, 0x4000, 0x4000)
  | _ => none

def setUpdate (s : State) (u : Option Update) : State := s.setMgt { s.mgt with update := u }

/-- The identity of a function in its configuration space (Table 17.1): Vendor and Device ID, class code, Revision ID. The option
block gives the Subsystem IDs, in a field that Table 13.6 does not name (notes/assumptions/13). -/
structure PcieId where
  vendor : BitVec 16
  device : BitVec 16
  classCode : BitVec 24
  revision : Byte
  deriving DecidableEq, Repr

def pcieId (f : Nat) : PcieId :=
  { vendor := 0x1FC7, device := if f = 0 then 0x1040 else 0x1041, classCode := 0x120000, revision := 0x11 }

/-- QUERY_DEVICE_IDENTIFIERS: the PCI vendor and device IDs (Table 17.1), and the serial number, which management reports too (rule
R385; that this reply carries it: DESIGN CHOICE, notes/assumptions/106). Without an identity its value is not stated. -/
def deviceIdentifiers (s : State) : State :=
  if s.sec.pufFail then
    let (v, s) := freePick s
    answer "QUERY_DEVICE_IDENTIFIERS" 0 [(pcieId 0).vendor.toNat, (pcieId 0).device.toNat, v % 2 ^ 64] s
  else answer "QUERY_DEVICE_IDENTIFIERS" 0 [(pcieId 0).vendor.toNat, (pcieId 0).device.toNat, serialNo.toNat] s

def execQueryDeviceIdentifiers (s : State) : Host.Outcome State Fault Refusal :=
  .next (finish s (serve "QUERY_DEVICE_IDENTIFIERS" deviceIdentifiers s))

/-- GET_FIRMWARE_PARAMETERS: the components, and the version of the running firmware. -/
def execGetFirmwareParameters (s : State) : Host.Outcome State Fault Refusal :=
  .next (finish s (serve "GET_FIRMWARE_PARAMETERS" (fun s =>
    answer "GET_FIRMWARE_PARAMETERS" 0 [1, 2, 3, s.desk.fwMajor.toNat, s.desk.fwMinor.toNat, s.desk.fwBuild.toNat] s) s))

/-- REQUEST_UPDATE: ALREADY_IN_UPDATE_MODE during an update. -/
def requestUpdate (s : State) : State :=
  if s.mgt.update.isSome then answer "REQUEST_UPDATE" 0x81 [] s
  else answer "REQUEST_UPDATE" 0 [] (setUpdate s (some { component := none, size := 0, got := 0, table := [], verified := [] }))

def execRequestUpdate (s : State) : Host.Outcome State Fault Refusal := .next (finish s (serve "REQUEST_UPDATE" requestUpdate s))

/-- A command that needs an update in progress. -/
def inUpdate (name : String) (f : Update → State → State) (s : State) : State :=
  match s.mgt.update with
  | none => answer name 0x80 [] s
  | some u => f u s

/-- PASS_COMPONENT_TABLE: one entry of the table. -/
def passComponent (c : BitVec 16) (u : Update) (s : State) : State :=
  if u.component.isSome then answer "PASS_COMPONENT_TABLE" 0x84 [] s
  else if (flashArea c.toNat).isNone then answer "PASS_COMPONENT_TABLE" 0x82 [] s
  else answer "PASS_COMPONENT_TABLE" 0 [] (setUpdate s (some { u with table := u.table ++ (if u.table.contains c then [] else [c]) }))

def execPassComponentTable (component : BitVec 16) (s : State) : Host.Outcome State Fault Refusal :=
  .next (finish s (serve "PASS_COMPONENT_TABLE" (inUpdate "PASS_COMPONENT_TABLE" (passComponent component)) s))

/-- A write of an update waits for the flash, behind those that wait (rule R431; when it is carried out: notes/assumptions/117). -/
def flashLater (s : State) (o : FlashOp) : State := s.setMgt { s.mgt with flashQ := s.mgt.flashQ ++ [o] }

/-- UPDATE_COMPONENT: copy B is erased and the transfer begins. -/
def startComponent (c : BitVec 16) (size : Nat) (u : Update) (s : State) : State :=
  match flashArea c.toNat with
  | none => answer "UPDATE_COMPONENT" 0x82 [] s
  | some (_, b, n) =>
    if u.component.isSome then answer "UPDATE_COMPONENT" 0x84 [] s
    else if !u.table.contains c || size == 0 || decide (n < size) then answer "UPDATE_COMPONENT" 0x82 [] s
    else
      let s := flashLater (flashDrain s) (.erase b n)
      let verified := u.verified.filter fun x => x != c
      answer "UPDATE_COMPONENT" 0 [] (setUpdate s (some { u with component := some c, size := size, got := 0, verified := verified }))

def execUpdateComponent (component : BitVec 16) (size : Nat) (s : State) : Host.Outcome State Fault Refusal :=
  .next (finish s (serve "UPDATE_COMPONENT" (inUpdate "UPDATE_COMPONENT" (startComponent component size)) s))

/-- Whether what the verification of copy B finds passes: the signature, and the SVN and the declared state against the security
record (rules R386, R388, R389). An option block is the bytes that the area holds. -/
def copyGood (s : State) (c b n : Nat) (signedOk : Bool) (found : Option FlashObj) : Bool :=
  signedOk && match found with
  | some (.image i) => decide (c ≤ 2) && fwOk s (some i)
  | some (.options o) =>
    c == 3 && s.sec.rpb.any (fun r => optOk r o) &&
      memPut 0xFF [] b o.bytes == s.flash.filter fun x => decide (b ≤ x.1) && decide (x.1 < b + n)
  | none => false

/-- Copy B is whole: it is verified, and copied into copy A, which is verified (rule R420). copyOk: whether copy A verifies. -/
def endComponent (c : BitVec 16) (a b n : Nat) (signedOk : Bool) (found : Option FlashObj) (copyOk : Bool) (u : Update) (s : State) :
    State :=
  let len := u.got
  let s := flashRead (flashDrain s) b
  let good := copyGood s c.toNat b n signedOk found
  let s := answer "TRANSFER_COMPLETE" 0 [c.toNat] s
  let ok := good && copyOk
  let s := setUpdate s (some { u with component := none, size := 0, got := 0, verified := if ok then u.verified ++ [c] else u.verified })
  if good then
    let s := flashRead (flashDo (setArea s b found) (.copy b a n len)) a
    let s := if copyOk then s else setArea s a none
    answer "APPLY_COMPLETE" (b2n (!copyOk)) [c.toNat] (answer "VERIFY_COMPLETE" 0 [c.toNat] s)
  else answer "VERIFY_COMPLETE" 1 [c.toNat] s

/-- REQUEST_FIRMWARE_DATA: the block of 1,024 bytes that the device has pulled, the last one shorter; with the last, copy B is
whole. -/
def takeBlock (block : List Byte) (signedOk : Bool) (found : Option FlashObj) (copyOk : Bool) (u : Update) (s : State) : State :=
  match u.component with
  | none => answer "REQUEST_FIRMWARE_DATA" 0x84 [] s
  | some c =>
    match flashArea c.toNat with
    | none => answer "REQUEST_FIRMWARE_DATA" 0x84 [] s
    | some (a, b, n) =>
      if block.length ≠ min 1024 (u.size - u.got) then answer "REQUEST_FIRMWARE_DATA" 0x83 [u.got] s
      else
        let s := flashLater (flashDrain s) (.program (b + u.got) block)
        let s := answer "REQUEST_FIRMWARE_DATA" 0 [u.got, block.length] s
        let u := { u with got := u.got + block.length }
        if u.got = u.size then endComponent c a b n signedOk found copyOk u s else setUpdate s (some u)

def execRequestFirmwareData (block : List Byte) (signedOk : Bool) (s : State) (found : Option FlashObj := none)
    (copyOk : Bool := true) : Host.Outcome State Fault Refusal :=
  .next (finish s (serve "REQUEST_FIRMWARE_DATA" (inUpdate "REQUEST_FIRMWARE_DATA" (takeBlock block signedOk found copyOk)) s))

/-- ACTIVATE_FIRMWARE: every component of the table has been verified; the Vault copies become invalid and the update ends. -/
def activate (u : Update) (s : State) : State :=
  if u.component.isSome || u.table.isEmpty || !(u.table.all fun c => u.verified.contains c) then answer "ACTIVATE_FIRMWARE" 0x85 [] s
  else answer "ACTIVATE_FIRMWARE" 0 [] (setUpdate ((flashDrain s).setSec { s.sec with vaultFw := none, vaultOpt := none }) none)

def execActivateFirmware (s : State) : Host.Outcome State Fault Refusal :=
  .next (finish s (serve "ACTIVATE_FIRMWARE" (inUpdate "ACTIVATE_FIRMWARE" activate) s))

/-- GET_STATUS: idle, learning the components, ready, or downloading, with what has come of the component. -/
def updateStatus (s : State) : State :=
  match s.mgt.update with
  | none => answer "GET_STATUS" 0 [0] s
  | some u =>
    let st := if u.component.isSome then 3 else if u.table.isEmpty then 1 else 2
    answer "GET_STATUS" 0 [st, u.got, u.size] s

def execGetStatus (s : State) : Host.Outcome State Fault Refusal := .next (finish s (serve "GET_STATUS" updateStatus s))

def execCancelUpdate (s : State) : Host.Outcome State Fault Refusal :=
  .next (finish s (serve "CANCEL_UPDATE" (inUpdate "CANCEL_UPDATE" fun _ s => answer "CANCEL_UPDATE" 0 [] (setUpdate (flashDrain s) none)) s))

/-! ### Vendor-defined commands: statuses 0 OK, 1 LEVEL_DENIED, 2 BAD_PARAM, 3 BUSY, 4 UNCORRECTABLE, 5 WRITE_SUPERSEDED -/

/-- A command below its minimum debug level is refused and has no effect. -/
def atLevel (name : String) (n : Nat) (f : State → State) (s : State) : State :=
  serve name (fun s => if s.sec.level.toNat < n then answer name 1 [] s else f s) s

def execGetNonce (s : State) : Host.Outcome State Fault Refusal :=
  .next (finish s (atLevel "GET_NONCE" 0 (fun s =>
    answer "GET_NONCE" 0 (byteData (bytesOf 32 (Config.nonce s.sec.nonceNo).toNat)) s) s))

/-- SUBMIT_TOKEN: its response is written when the verification ends. -/
def submitToken (token : List Byte) (s : State) : State :=
  if token.length ≠ 256 then answer "SUBMIT_TOKEN" 2 [] s
  else if s.sec.submit then answer "SUBMIT_TOKEN" 3 [] s
  else submit true token s

def execSubmitToken (token : List Byte) (s : State) : Host.Outcome State Fault Refusal :=
  .next (finish s (atLevel "SUBMIT_TOKEN" 0 (submitToken token) s))

def powerReq (req : Nat) (s : State) : State :=
  let s := powerRequest req s
  answer "POWER_REQ" 0 [s.pwr.result.toNat] s

def execPowerReq (req : BitVec 2) (s : State) : Host.Outcome State Fault Refusal :=
  .next (finish s (atLevel "POWER_REQ" 0 (powerReq req.toNat) s))

/-- REG_READ; one that names a window onto a memory whose fill is still to come waits for it (rule R209), as do the three that
follow. -/
def vdmRegRead (off : Nat) (ecc : List EccHit) (s : State) : State :=
  if windowWaits s off then holdAcc s (.debugRead off ecc)
  else
    let r := debugRegRead off (addHits s ecc)
    if r.1 then answer "REG_READ" 4 [] r.2.2 else answer "REG_READ" 0 [r.2.1] r.2.2

def execRegRead (off : BitVec 26) (s : State) (ecc : List EccHit := []) : Host.Outcome State Fault Refusal :=
  .next (finish s (atLevel "REG_READ" 1 (vdmRegRead off.toNat ecc) s))

/-- The status of a write. -/
def writeStatus (st : Nat) : Nat := if st = 2 then 4 else if st = 1 then 5 else 0

def vdmRegWrite (off : Nat) (v : W32) (portA : List (Nat × W64)) (s : State) : State :=
  if windowWaits s off then holdAcc s (.debugWrite off v portA)
  else
    let r := debugRegWrite off v portA s
    answer "REG_WRITE" (writeStatus r.1) [] r.2

def execRegWrite (off : BitVec 26) (v : W32) (s : State) (portA : List (Nat × W64) := []) : Host.Outcome State Fault Refusal :=
  .next (finish s (settle (atLevel "REG_WRITE" 2 (vdmRegWrite off.toNat v portA) s)))

/-- VDM_MEM_READ: 8 to 1,024 bytes; an uncorrectable word gives UNCORRECTABLE and no data (rule R200). -/
def vdmMemRead (a n : Nat) (ecc : List EccHit) (s : State) : State :=
  if n < 8 ∨ 1024 < n then answer "MEM_READ" 2 [] s
  else if deviceWaits s a n then holdAcc s (.memRead a n ecc)
  else
    let r := debugErrors (addHits s ecc) a n
    if r.1 then answer "MEM_READ" 4 [] r.2
    else
      let d := readDevice r.2 a n n
      answer "MEM_READ" 0 (byteData d.1) d.2

def execVdmMemRead (addr : BitVec 44) (len : Nat) (ecc : List EccHit) (s : State) : Host.Outcome State Fault Refusal :=
  .next (finish s (atLevel "MEM_READ" 2 (vdmMemRead addr.toNat len ecc) s))

def vdmMemWrite (a : Nat) (data : List Byte) (portA : List (Nat × W64)) (s : State) : State :=
  if data.length < 8 ∨ 1024 < data.length then answer "MEM_WRITE" 2 [] s
  else if deviceWaits s a data.length then holdAcc s (.memWrite a data portA)
  else
    let r := writeDevice s portA a data
    answer "MEM_WRITE" (writeStatus r.1) [] r.2

def execVdmMemWrite (addr : BitVec 44) (data : List Byte) (portA : List (Nat × W64)) (s : State) :
    Host.Outcome State Fault Refusal :=
  .next (finish s (settle (atLevel "MEM_WRITE" 2 (vdmMemWrite addr.toNat data portA) s)))

/-- CORE_CTL: a step leaves a halted core halted (rule R395). -/
def coreCtl (core : Nat) (op : CoreOp) (s : State) : State :=
  let m := BitVec.ofNat 4 (2 ^ core)
  let h := match op with
    | .halt => s.sec.halted ||| m
    | .step => s.sec.halted
    | .resume => s.sec.halted &&& ~~~m
  answer "CORE_CTL" 0 [] (s.setSec { s.sec with halted := h })

def execCoreCtl (core : Fin 4) (op : CoreOp) (s : State) : Host.Outcome State Fault Refusal :=
  .next (finish s (atLevel "CORE_CTL" 2 (coreCtl core op) s))

/-- RESET: the DBG source, of reach L2, or L1 when that is requested at Intrusive (rule R329). -/
def vdmReset (l1 : Bool) (s : State) : State :=
  if l1 && s.sec.level != 2 then answer "RESET" 1 [] s
  else joinEpisode { Sources.none with dbg := true } false (if l1 then 1 else 2) [] 0 (answer "RESET" 0 [] s)

def execReset (l1 : Bool) (s : State) : Host.Outcome State Fault Refusal :=
  .next (finish s (settle (atLevel "RESET" 1 (vdmReset l1) s)))

/-- LOG_READ: up to 32 records from a record number. -/
def logRead (first count : Nat) (ecc : List EccHit) (s : State) : State :=
  if count = 0 ∨ 32 < count then answer "LOG_READ" 2 [] s
  else
    let r := logRecords first count (addHits s ecc)
    answer "LOG_READ" 0 (byteData r.1) r.2

def execLogRead (first count : Nat) (s : State) (ecc : List EccHit := []) : Host.Outcome State Fault Refusal :=
  .next (finish s (atLevel "LOG_READ" 1 (logRead first count ecc) s))

end Sys2Proof.Machine
end

