-- ==== Sys2Proof/Machine/Held.lean ====
section
/-! DEFINITION. Accesses that wait for the fill of a Wing, or behind one that does (rules R209, R441), and the commands after which they
may take place: CLOCK_QUALIFIED and FIRMWARE_VERIFIED. -/

namespace Sys2Proof.Machine

/-- An access that has waited takes place, or waits on. -/
def heldRun (x : SramAcc) (s : State) : State :=
  match x with
  | .read view o n ecc => windowRead view o n ecc s
  | .write view o bs portA => windowWrite view o bs portA s
  | .regRead off ecc => if barHeld s then holdAcc s x else barRead 0 off ecc s
  | .regWrite off size v => if barHeld s then holdAcc s x else writeReg (.bar 0) off size v s
  | .debugRead off ecc => vdmRegRead off ecc s
  | .debugWrite off v portA => vdmRegWrite off v portA s
  | .memRead a n ecc => vdmMemRead a n ecc s
  | .memWrite a bs portA => vdmMemWrite a bs portA s

/-- The accesses that waited take place after a fill, in their order, as far as no other fill holds them. -/
def runWaits (s : State) : State := forEach s.inv.waits (s.setInv { s.inv with waits := [] }) fun s x => heldRun x s

def execClockQualified (d : ClkDom) (badArrays : List Nat) (s : State) : Host.Outcome State Fault Refusal :=
  .next (finish s (settle (runWaits (clockQualified d badArrays s))))

/-- In safe mode no fill comes, and what waited for one waits no longer. -/
def execFirmwareVerified (primary recovery : Option FwImage) (fromStacks writeOk : Bool) (s : State) :
    Host.Outcome State Fault Refusal :=
  .next (finish s (settle (runWaits (firmwareVerified primary recovery fromStacks writeOk s))))

end Sys2Proof.Machine
end

