-- ==== Sys2Proof/Machine/Dispatch.lean ====
section
/-! DEFINITION. exec: the effect of a command on everything but the queue, one arm per constructor of Instr. -/

namespace Sys2Proof.Machine

def exec (i : Instr) (s : State) : Host.Outcome State Fault Refusal :=
  match i with
  | .getVersion f k => Sys2Proof.Machine.execGetVersion f k s
  | .getInfo f k => Sys2Proof.Machine.execGetInfo f k s
  | .queueCreate f k => Sys2Proof.Machine.execQueueCreate f k s
  | .queueDestroy f k => Sys2Proof.Machine.execQueueDestroy f k s
  | .queueResume f k => Sys2Proof.Machine.execQueueResume f k s
  | .queueSetAttr f k => Sys2Proof.Machine.execQueueSetAttr f k s
  | .queueQuery f k => Sys2Proof.Machine.execQueueQuery f k s
  | .c0Reserve f k => Sys2Proof.Machine.execC0Reserve f k s
  | .c0Release f k => Sys2Proof.Machine.execC0Release f k s
  | .folioAlloc f k => Sys2Proof.Machine.execFolioAlloc f k s
  | .folioFree f k => Sys2Proof.Machine.execFolioFree f k s
  | .folioPin f k => Sys2Proof.Machine.execFolioPin f k s
  | .folioUnpin f k => Sys2Proof.Machine.execFolioUnpin f k s
  | .folioQuery f k => Sys2Proof.Machine.execFolioQuery f k s
  | .folioWrite f k => Sys2Proof.Machine.execFolioWrite f k s
  | .folioRead f k ecc => Sys2Proof.Machine.execFolioRead f k ecc s
  | .setTierLimits f k => Sys2Proof.Machine.execSetTierLimits f k s
  | .setCurator f k => Sys2Proof.Machine.execSetCurator f k s
  | .setTick f k => Sys2Proof.Machine.execSetTick f k s
  | .setInventory f k => Sys2Proof.Machine.execSetInventory f k s
  | .setPowerCap f k => Sys2Proof.Machine.execSetPowerCap f k s
  | .memRead f k ecc => Sys2Proof.Machine.execMemRead f k ecc s
  | .memWrite f k portA => Sys2Proof.Machine.execMemWrite f k portA s
  | .matmul w r => Sys2Proof.Machine.execMatmul w r s
  | .accRead w r => Sys2Proof.Machine.execAccRead w r s
  | .accWrite w r => Sys2Proof.Machine.execAccWrite w r s
  | .map w r => Sys2Proof.Machine.execMap w r s
  | .rowstat w r => Sys2Proof.Machine.execRowstat w r s
  | .copy w r => Sys2Proof.Machine.execCopy w r s
  | .send w r => Sys2Proof.Machine.execSend w r s
  | .recv w r => Sys2Proof.Machine.execRecv w r s
  | .put w r => Sys2Proof.Machine.execPut w r s
  | .get w r => Sys2Proof.Machine.execGet w r s
  | .signal w r => Sys2Proof.Machine.execSignal w r s
  | .allreduce w r => Sys2Proof.Machine.execAllreduce w r s
  | .allgather w r => Sys2Proof.Machine.execAllgather w r s
  | .fence w r => Sys2Proof.Machine.execFence w r s
  | .psplitChange w r => Sys2Proof.Machine.execPsplitChange w r s
  | .slabArrive t part tagOk ecc => Sys2Proof.Machine.execSlabArrive t part tagOk ecc s
  | .passStart w a chk ecc => Sys2Proof.Machine.execPassStart w a chk ecc s
  | .drainStart w a ecc => Sys2Proof.Machine.execDrainStart w a s ecc
  | .drainEnd w a => Sys2Proof.Machine.execDrainEnd w a s
  | .creditReturn st ecc => Sys2Proof.Machine.execCreditReturn st ecc s
  | .stationTakeUp st ecc => Sys2Proof.Machine.execStationTakeUp st ecc s
  | .userTableFill w u ecc => Sys2Proof.Machine.execUserTableFill w u ecc s
  | .stationTileFinish st ecc => Sys2Proof.Machine.execStationTileFinish st s ecc
  | .tileComplete q => Sys2Proof.Machine.execTileComplete q s
  | .roundReexecute w a => Sys2Proof.Machine.execRoundReexecute w a s
  | .roundOverrun q rnd => Sys2Proof.Machine.execRoundOverrun q rnd s
  | .c0Demotion q rnd => Sys2Proof.Machine.execC0Demotion q rnd s
  | .inputWaitTimeout t => Sys2Proof.Machine.execInputWaitTimeout t s
  | .lateBurst slip => Sys2Proof.Machine.execLateBurst slip s
  | .accWindowRead w v => Sys2Proof.Machine.execAccWindowRead w v s
  | .accWindowWrite w v => Sys2Proof.Machine.execAccWindowWrite w v s
  | .accWindowTransferEnd w ecc => Sys2Proof.Machine.execAccWindowTransferEnd w s ecc
  | .tickBoundary => Sys2Proof.Machine.execTickBoundary s
  | .admissionListClose => Sys2Proof.Machine.execAdmissionListClose s
  | .tickOutFall => Sys2Proof.Machine.execTickOutFall s
  | .tickInEdge => Sys2Proof.Machine.execTickInEdge s
  | .substituteBoundary => Sys2Proof.Machine.execSubstituteBoundary s
  | .producerPoll q => Sys2Proof.Machine.execProducerPoll q s
  | .flushReadDone tag res => Sys2Proof.Machine.execFlushReadDone tag res s
  | .queueDestroyComplete q => Sys2Proof.Machine.execQueueDestroyComplete q s
  | .destroyTimeout q => Sys2Proof.Machine.execDestroyTimeout q s
  | .moveChunkCopied folio ecc => Sys2Proof.Machine.execMoveChunkCopied folio ecc s
  | .moveSwitch folio => Sys2Proof.Machine.execMoveSwitch folio s
  | .inventoryRegionTest engine fail1 fail2 ecc => Sys2Proof.Machine.execInventoryRegionTest engine fail1 fail2 ecc s
  | .arrayInventoryTest w a good => Sys2Proof.Machine.execArrayInventoryTest w a good s
  | .repairLogCopy => Sys2Proof.Machine.execRepairLogCopy s
  | .patrolScrub depository word raced ecc => Sys2Proof.Machine.execPatrolScrub depository word raced ecc s
  | .logRecordWrite source => Sys2Proof.Machine.execLogRecordWrite source s
  | .sramWindowRead off len ecc => Sys2Proof.Machine.execSramWindowRead off len ecc s
  | .sramWindowWrite off data portA => Sys2Proof.Machine.execSramWindowWrite off data portA s
  | .setViewWrite off data portA => Sys2Proof.Machine.execSetViewWrite off data portA s
  | .clearViewWrite off data portA => Sys2Proof.Machine.execClearViewWrite off data portA s
  | .registerWrite f off size v => Sys2Proof.Machine.execRegisterWrite f off size v s
  | .dskAclockLoRead => Sys2Proof.Machine.execDskAclockLoRead s
  | .rstTickNumLoRead => Sys2Proof.Machine.execRstTickNumLoRead s
  | .queLostEventsRead f q => Sys2Proof.Machine.execQueLostEventsRead f q s
  | .fnEventEnWrite f v => Sys2Proof.Machine.execFnEventEnWrite f v s
  | .relPertCtlWrite v => Sys2Proof.Machine.execRelPertCtlWrite v s
  | .swResetL1 v => Sys2Proof.Machine.execSwResetL1 v s
  | .swResetL2 v => Sys2Proof.Machine.execSwResetL2 v s
  | .swResetL3 v => Sys2Proof.Machine.execSwResetL3 v s
  | .hostGo => Sys2Proof.Machine.execHostGo s
  | .porAssert => Sys2Proof.Machine.execPorAssert s
  | .porRelease => Sys2Proof.Machine.execPorRelease s
  | .borAssert rail mv => Sys2Proof.Machine.execBorAssert s rail mv
  | .borRelease mvs => Sys2Proof.Machine.execBorRelease s mvs
  | .nrstLow => Sys2Proof.Machine.execNrstLow s
  | .nrstHigh => Sys2Proof.Machine.execNrstHigh s
  | .clockFailure d => Sys2Proof.Machine.execClockFailure d s
  | .systemReferenceReturn => Sys2Proof.Machine.execSystemReferenceReturn s
  | .watchdogExpire => Sys2Proof.Machine.execWatchdogExpire s
  | .lockup doubleFault => Sys2Proof.Machine.execLockup s doubleFault
  | .stretchEnd ratio => Sys2Proof.Machine.execStretchEnd ratio s
  | .nrstSample high => Sys2Proof.Machine.execNrstSample high s
  | .clockQualified d badArrays => Sys2Proof.Machine.execClockQualified d badArrays s
  | .clockQualifyRetry d good => Sys2Proof.Machine.execClockQualifyRetry d good s
  | .optionBlockLoaded pufOk rpb a b vaultOk writeOk => Sys2Proof.Machine.execOptionBlockLoaded pufOk rpb a b vaultOk writeOk s
  | .firmwareVerified primary recovery fromStacks writeOk => Sys2Proof.Machine.execFirmwareVerified primary recovery fromStacks writeOk s
  | .memoryTrainingDone modules => Sys2Proof.Machine.execMemoryTrainingDone modules s
  | .bringupReady => Sys2Proof.Machine.execBringupReady s
  | .bringupSlow => Sys2Proof.Machine.execBringupSlow s
  | .activeRequest autoWake => Sys2Proof.Machine.execActiveRequest autoWake s
  | .drowseRequest autoWake => Sys2Proof.Machine.execDrowseRequest autoWake s
  | .offRequest autoWake => Sys2Proof.Machine.execOffRequest autoWake s
  | .drowseEntryDone => Sys2Proof.Machine.execDrowseEntryDone s
  | .wakeComplete => Sys2Proof.Machine.execWakeComplete s
  | .dvfsEvaluation m => Sys2Proof.Machine.execDvfsEvaluation m s
  | .avsStepResponse good => Sys2Proof.Machine.execAvsStepResponse good s
  | .thermalThrottle sensor temp hbm => Sys2Proof.Machine.execThermalThrottle sensor temp hbm s
  | .throttleRelease die hbm => Sys2Proof.Machine.execThrottleRelease die hbm s
  | .thermalTrip sensor temp => Sys2Proof.Machine.execThermalTrip sensor temp s
  | .foxingMeasure monitors lanes dayEnd => Sys2Proof.Machine.execFoxingMeasure monitors lanes dayEnd s
  | .stackMarginMeasure channels => Sys2Proof.Machine.execStackMarginMeasure channels s
  | .flitReceive p flit fecSymbols => Sys2Proof.Machine.execFlitReceive p flit fecSymbols s
  | .nak p seq => Sys2Proof.Machine.execNak p seq s
  | .helloSend => Sys2Proof.Machine.execHelloSend s
  | .helloMessage p h => Sys2Proof.Machine.execHelloMessage p h s
  | .helloTimeout p => Sys2Proof.Machine.execHelloTimeout p s
  | .laneLockLoss p lane => Sys2Proof.Machine.execLaneLockLoss p lane s
  | .portTrainingDone p good lanes => Sys2Proof.Machine.execPortTrainingDone p good lanes s
  | .portCongested p => Sys2Proof.Machine.execPortCongested p s
  | .managerElectionTimeout => Sys2Proof.Machine.execManagerElectionTimeout s
  | .mgmtSlip op => Sys2Proof.Machine.execMgmtSlip op s
  | .timeSyncExchange parent depth => Sys2Proof.Machine.execTimeSyncExchange parent depth s
  | .timeSyncLost => Sys2Proof.Machine.execTimeSyncLost s
  | .slipForward slip => Sys2Proof.Machine.execSlipForward slip s
  | .writeSlip slip ecc => Sys2Proof.Machine.execWriteSlip slip ecc s
  | .readSlip slip ecc => Sys2Proof.Machine.execReadSlip slip ecc s
  | .readData slip => Sys2Proof.Machine.execReadData slip s
  | .addSlip slip ecc => Sys2Proof.Machine.execAddSlip slip ecc s
  | .rts slip => Sys2Proof.Machine.execRts slip s
  | .cts slip => Sys2Proof.Machine.execCts slip s
  | .ack slip => Sys2Proof.Machine.execAck slip s
  | .slipResendTimeout dest cls => Sys2Proof.Machine.execSlipResendTimeout dest cls s
  | .flr f => Sys2Proof.Machine.execFlr f s
  | .flrTileAbandon f => Sys2Proof.Machine.execFlrTileAbandon f s
  | .tenantScrubEnd f => Sys2Proof.Machine.execTenantScrubEnd f s
  | .vfDisable numVFs enable => Sys2Proof.Machine.execVfDisable numVFs enable s
  | .hotReset => Sys2Proof.Machine.execHotReset s
  | .linkDown => Sys2Proof.Machine.execLinkDown s
  | .perstN => Sys2Proof.Machine.execPerstN s
  | .poisonedTlp f => Sys2Proof.Machine.execPoisonedTlp f s
  | .hostCompletion tag res => Sys2Proof.Machine.execHostCompletion tag res s
  | .msixPendingSend f => Sys2Proof.Machine.execMsixPendingSend f s
  | .debugLevelApply v => Sys2Proof.Machine.execDebugLevelApply v s
  | .tokenSubmit => Sys2Proof.Machine.execTokenSubmit s
  | .tokenVerifyDone => Sys2Proof.Machine.execTokenVerifyDone s
  | .addressCommand addr data pecOk enumIn rate => Sys2Proof.Machine.execAddressCommand addr data pecOk enumIn s rate
  | .alertResponse lowerWins => Sys2Proof.Machine.execAlertResponse lowerWins s
  | .smbusTimeout => Sys2Proof.Machine.execSmbusTimeout s
  | .arbitrationLost => Sys2Proof.Machine.execArbitrationLost s
  | .mctpPacket p rate => Sys2Proof.Machine.execMctpPacket p s rate
  | .setEndpointId eid => Sys2Proof.Machine.execSetEndpointId eid s
  | .getEndpointId => Sys2Proof.Machine.execGetEndpointId s
  | .getEndpointUuid => Sys2Proof.Machine.execGetEndpointUuid s
  | .getMctpVersionSupport msgType => Sys2Proof.Machine.execGetMctpVersionSupport msgType s
  | .getMessageTypeSupport => Sys2Proof.Machine.execGetMessageTypeSupport s
  | .getVendorDefinedMessageSupport => Sys2Proof.Machine.execGetVendorDefinedMessageSupport s
  | .spdmGetVersion => Sys2Proof.Machine.execSpdmGetVersion s
  | .spdmGetCapabilities => Sys2Proof.Machine.execSpdmGetCapabilities s
  | .spdmNegotiateAlgorithms => Sys2Proof.Machine.execSpdmNegotiateAlgorithms s
  | .spdmGetDigests => Sys2Proof.Machine.execSpdmGetDigests s
  | .spdmGetCertificate slot offset length => Sys2Proof.Machine.execSpdmGetCertificate slot offset length s
  | .spdmChallenge slot nonce => Sys2Proof.Machine.execSpdmChallenge slot nonce s
  | .spdmGetMeasurements index signed nonce => Sys2Proof.Machine.execSpdmGetMeasurements index signed nonce s
  | .getTid => Sys2Proof.Machine.execGetTid s
  | .setTid tid => Sys2Proof.Machine.execSetTid tid s
  | .getPldmVersion pldmType => Sys2Proof.Machine.execGetPldmVersion pldmType s
  | .getPldmTypes => Sys2Proof.Machine.execGetPldmTypes s
  | .getPldmCommands pldmType => Sys2Proof.Machine.execGetPldmCommands pldmType s
  | .getSensorReading id => Sys2Proof.Machine.execGetSensorReading id s
  | .getStateSensorReadings id => Sys2Proof.Machine.execGetStateSensorReadings id s
  | .getPdr handle => Sys2Proof.Machine.execGetPdr handle s
  | .getPdrRepositoryInfo => Sys2Proof.Machine.execGetPdrRepositoryInfo s
  | .pollForPlatformEventMessage acknowledge => Sys2Proof.Machine.execPollForPlatformEventMessage acknowledge s
  | .queryDeviceIdentifiers => Sys2Proof.Machine.execQueryDeviceIdentifiers s
  | .getFirmwareParameters => Sys2Proof.Machine.execGetFirmwareParameters s
  | .requestUpdate => Sys2Proof.Machine.execRequestUpdate s
  | .passComponentTable component => Sys2Proof.Machine.execPassComponentTable component s
  | .updateComponent component size => Sys2Proof.Machine.execUpdateComponent component size s
  | .requestFirmwareData block signedOk found copyOk => Sys2Proof.Machine.execRequestFirmwareData block signedOk s found copyOk
  | .activateFirmware => Sys2Proof.Machine.execActivateFirmware s
  | .getStatus => Sys2Proof.Machine.execGetStatus s
  | .cancelUpdate => Sys2Proof.Machine.execCancelUpdate s
  | .getNonce => Sys2Proof.Machine.execGetNonce s
  | .submitToken token => Sys2Proof.Machine.execSubmitToken token s
  | .powerReq req => Sys2Proof.Machine.execPowerReq req s
  | .regRead off ecc => Sys2Proof.Machine.execRegRead off s ecc
  | .regWrite off v portA => Sys2Proof.Machine.execRegWrite off v s portA
  | .vdmMemRead addr len ecc => Sys2Proof.Machine.execVdmMemRead addr len ecc s
  | .vdmMemWrite addr data portA => Sys2Proof.Machine.execVdmMemWrite addr data portA s
  | .coreCtl core op => Sys2Proof.Machine.execCoreCtl core op s
  | .reset l1 => Sys2Proof.Machine.execReset l1 s
  | .logRead first count ecc => Sys2Proof.Machine.execLogRead first count s ecc
  | .rcFieldRead f off ecc => Sys2Proof.Machine.execRcFieldRead f off s ecc
  | .tripSensorCooled temp => Sys2Proof.Machine.execTripSensorCooled temp s
  | .perstNRelease => Sys2Proof.Machine.execPerstNRelease s
  | .pcieLinkUp rate width => Sys2Proof.Machine.execPcieLinkUp s rate width
  | .configurationWrite f c => Sys2Proof.Machine.execConfigurationWrite f c s
  | .aislesUnitCrcFail t retries => Sys2Proof.Machine.execAislesUnitCrcFail t retries s

end Sys2Proof.Machine
end

