-- ==== Sys2Proof/Safety.lean ====
section
/-! DEFINITION. What counts as a good state and as a run of the block, and the words the statements use. -/

namespace Sys2Proof.Machine

/-- A state between commands: the device memory in canonical form, no store left over. -/
def Tidy (s : State) : Prop := Memory.wf s.mem = true ∧ s.wr = []

/-- A run: the block takes steps, and the senders put commands at the end of its queue. -/
inductive Run : State → State → Prop where
  | here (s : State) : Run s s
  | step {s t u : State} : Run s t → Sys2Proof.Machine.step t = .next u → Run s u
  | send {s t : State} (c : Instr) : Run s t → Run s { t with pending := t.pending ++ [c] }

/-- A state that the block can reach from reset. -/
def Reachable (s : State) : Prop := Run State.reset s

/-- The command answers a next state, and P holds of it. -/
def Yields (c : Instr) (s : State) (P : State → Prop) : Prop := ∃ t, exec c s = .next t ∧ P t

/-! ### Frames -/

/-- The parts of the state that the machinery of queues, tiles and stations leaves alone: t has them as s has them. -/
structure Quiet (s t : State) : Prop where
  pending : t.pending = s.pending
  wr : t.wr = s.wr
  freeCtr : t.freeCtr = s.freeCtr
  clk : t.clk = s.clk
  tick : t.tick = s.tick
  adm : t.adm = s.adm
  wings : t.wings = s.wings
  mem : t.mem = s.mem
  ecc : t.ecc = s.ecc
  banks : t.banks = s.banks
  inv : t.inv = s.inv
  vault : t.vault = s.vault
  flash : t.flash = s.flash
  rst : t.rst = s.rst
  pwr : t.pwr = s.pwr
  rel : t.rel = s.rel
  sec : t.sec = s.sec

/-! ### Mailboxes -/

/-- Mailbox k of function f holds a request of opcode op that the Desk may take up (rules R264, R265), that passes every check of
rule R451, and whose folio entry, if the command reads one, is readable. -/
def Granted (s : State) (f k op : Nat) : Prop :=
  mbReady s f k op = true ∧ mbOp (getMb s f k) = op ∧ bit f s.sec.scrub.toNat = false ∧ checkStatus s f (getMb s f k) = 0 ∧
    entryReadBad s (getMb s f k) = false

/-- Payload word i of the request in a mailbox. -/
def reqWord (s : State) (f k i : Nat) : Nat := rqP (getMb s f k) i

/-- Word i of the response in a mailbox. -/
def respWord (s : State) (f k i : Nat) : Nat := (tabGet 0 (getMb s f k).resp i).toNat

/-- Mailbox k of function f of s, which was BUSY, is answered in t (rule R264, Tables 11.2, 11.16): it is DONE, its SEQ is one
more, its request stands, and the response holds opcode, status, the request's cookie, the length and the payload. -/
def Answered (s t : State) (f k status : Nat) (payload : List Nat) : Prop :=
  (getMb t f k).state = 2 ∧ (getMb t f k).seq = (getMb s f k).seq + 1 ∧ (getMb t f k).req = (getMb s f k).req ∧
    respWord t f k 0 = 65536 * mbOp (getMb s f k) + status ∧ respWord t f k 1 = rqWord (getMb s f k) 1 ∧
    respWord t f k 2 = 4 * payload.length ∧ respWord t f k 3 = 0 ∧
    ∀ i, i < payload.length → respWord t f k (4 + i) = payload.getD i 0 % 2 ^ 32

/-- t is u but for mailbox k of function f and the list of commands in progress, and every other mailbox is as s has it. -/
def OnlyMailbox (s u t : State) (f k : Nat) : Prop :=
  t = { u with desk := { u.desk with mbox := t.desk.mbox, cmds := t.desk.cmds } } ∧
    ∀ f' k', 8 * f' + k' ≠ 8 * f + k → getMb t f' k' = getMb s f' k'

/-- The command of mailbox k of function f is complete: its response is written, and the rest of the state is u. -/
def Replies (s u : State) (f k status : Nat) (payload : List Nat) (t : State) : Prop :=
  Answered s t f k status payload ∧ OnlyMailbox s u t f k

/-- The Desk has taken the request up, its command waits for what why says, and the rest of the state is u. -/
def Waits (s u : State) (f k : Nat) (why : CmdWhy) (t : State) : Prop :=
  getMb t f k = { getMb s f k with taken := true } ∧ t.desk.cmds = s.desk.cmds ++ [{ f := f, k := k, why := why }] ∧
    OnlyMailbox s u t f k

/-! ### Reads of host memory -/

/-- Whether a read of n bytes of host memory goes out at once: it has room, and no read waits before it (Table 17.1). -/
def onLink (s : State) (n : Nat) : Bool := readRoom s n && s.desk.reads.all fun r => r.sent

/-- The end of a read left v, of which P holds, and then the reads that waited for room went out as far as they have it; that
changes no memory. -/
def Pumped (P : State → Prop) (u : State) : Prop := ∃ v, u = pumpReads v ∧ u.mem = v.mem ∧ u.wr = v.wr ∧ P v

/-- The command made v, of which P holds, and then the accesses that waited for a fill took place as far as no other fill holds them
(rules R209, R441); their stores are in u.wr. -/
def Freed (P : State → Prop) (u : State) : Prop := ∃ v, u = runWaits v ∧ u.mem = v.mem ∧ P v

/-! ### What follows at the stations -/

/-- The command made u and then everything happened that a tile's leaving a station lets happen (settle: rounds that stop, drop
or end, folios that are freed), and P holds of u. The stores of u are in u.wr and not in u.mem, which is that of s, so that a byte
that u reads is the byte of the next state. -/
def Settles (s : State) (P : State → Prop) (t : State) : Prop := ∃ u, t = finish s (settle u) ∧ u.mem = s.mem ∧ P u

/-- An address outside the bank to which a tile's rows cross the Aisles when they go on from Wing w to its next station (rule R123).
-/
def offBank (w : Nat) (x : Tile) (c : Nat) : Prop :=
  ∀ n, stOf x = some n → n.wing.val = w ∨ c < carrelAddr n.wing x.a 0 ∨ carrelAddr n.wing x.a 0x40000 ≤ c

/-- What an address holds after writes at offsets from base on, b before them. -/
def lastWritten (base : Nat) (ws : List (Nat × List Byte)) (c : Nat) (b : Byte) : Byte :=
  ws.foldl (fun b w => if base + w.1 ≤ c ∧ c < base + w.1 + w.2.length then w.2.getD (c - (base + w.1)) 0 else b) b

/-- No word of memory is damaged. -/
def Undamaged (s : State) : Prop := s.ecc.ue = [] ∧ s.ecc.ce = []

/-! ### Tick boundaries -/

/-- What every tick boundary leaves, u being the state before what then follows at the stations (rules R17, R236, R240, R247, R223,
R231, R370): the tick that begins, with its boundary's moment; reservations and limits that waited in force, but for the cap of safe
mode (rule R341); HEAT and COUNT turned while the Curator runs. -/
structure AtBoundary (s u : State) (last : W64) (num : BitVec 48) (sub : Bool) : Prop where
  num : u.tick.num = num
  last : u.tick.last = last
  sub : u.tick.subst = sub
  closed : u.tick.closed = false
  tickOut : u.tick.tickOut = true
  fAdm : u.tick.fAdm = s.pwr.aclkMhz
  nextResv : ∀ q, (getQ u q).resvNext = none
  resv : ∀ q, (getQ u q).resv =
    if (getQ s q).resvNext.isSome then (getQ s q).resvNext else (getQ s q).resv.filter fun r => !r.releasing
  curator : (u.tier.cur.enable, u.tier.cur.share, u.tier.cur.maxMoves) =
    s.tier.cur.pendCur.getD (s.tier.cur.enable, s.tier.cur.share, s.tier.cur.maxMoves)
  limits : u.tier.cur.limits = s.tier.cur.pendLimits.foldl (fun t x => tabSet TierLim.reset t x.1 x.2) s.tier.cur.limits
  noLimits : u.tier.cur.pendLimits = [] ∧ u.tier.cur.pendCur = none ∧ u.inv.pendPeriod = none
  period : u.inv.period = (s.inv.pendPeriod.map (BitVec.ofNat 12)).getD s.inv.period
  cap : u.pwr.capInForce = if s.rst.safe then s.pwr.capInForce else s.pwr.capReq
  wingsBack : u.rst.l3Pend = []
  heat : ∀ f, (getFolio s f).valid = true → if curatorRuns s = true then
      (getFolio u f).heat = satAdd ((getFolio s f).heat - ((getFolio s f).heat >>> 3)) (getFolio s f).count.toNat ∧ (getFolio u f).count = 0
    else (getFolio u f).heat = (getFolio s f).heat ∧ (getFolio u f).count = (getFolio s f).count
  corrections : u.rel.cePrev = s.rel.ceTick

/-! ### Resets and functions -/

/-- An episode of level lv below L3 has begun, caused by src alone, on a block with no episode and no bring-up (rules R331 to R335,
Table 13.1): what every such reach clears, and what it keeps. That a lost tier reads 0 is the model's choice (notes/assumptions/3).
-/
structure Begun (s u : State) (lv : BitVec 2) (src : Sources) (held : Bool) : Prop where
  episode : ∃ e, u.rst.episode = some e ∧ e.level = lv ∧ e.joined = src ∧ e.targets = [] ∧ e.stretching = !held ∧
    e.driving = !decide (src = { Sources.none with pin := true }) ∧ e.asserted = if held then src else Sources.none
  work : u.run = Work.reset ∧ u.units = Units.reset ∧ u.arrs = Arrays.reset ∧ u.adm = State.reset.adm
  desk : u.desk = { Desk.reset with rdTag := s.desk.rdTag }
  clock : lv = 0 → u.clk.now = 0
  clockOn : lv ≠ 0 → u.clk.now = s.clk.now
  backup : u.rst.backup = if lv = 0 then [] else s.rst.backup
  tier : lv ≠ 2 → u.tier = Tiers.reset
  warm : lv = 2 → u.tier.depGib = s.tier.depGib ∧ u.sec.keys = s.sec.keys ∧ u.tick.num = s.tick.num ∧ u.tick.source = s.tick.source ∧
    u.tier.folios = (s.tier.folios.filter fun x => x.2.valid).map fun x => (x.1, { x.2 with c0Recent := false, count := 0 })
  tick : u.tick.pend = none ∧ u.tick.closed = false ∧ u.pwr.state = .active ∧ (lv ≠ 2 → u.tick = Tick.reset)
  memory : ∀ a, readByte u a = if lv ≠ 2 ∧ a < 0x40000000000 then 0 else readByte s a
  nonvolatile : u.flash = s.flash ∧ u.sec.rpb = s.sec.rpb ∧ u.vault = if lv = 0 then [] else s.vault
  closed : u.sec.level = 0 ∧ u.sec.submit = false ∧ u.rel.pert = Pert.reset

/-- What an FLR of function g does (rules R261, R393), g not being under scrub already. -/
structure Released (s u : State) (g : Nat) : Prop where
  scrub : bit g u.sec.scrub.toNat = true
  config : getPcie u g = PcieFn.reset
  boxes : ∀ k, k < 8 → (getMb u g k).state = 0 ∧ (getMb u g k).resp = []
  queues : ∀ q, q / 32 = g → (getQ s q).state = 1 ∨ (getQ s q).state = 2 ∨ (getQ s q).state = 3 → (getQ u q).state = 4
  folios : ∀ x ∈ s.tier.folios, x.2.tenant.toNat = g → (getFolio u x.1).valid = false ∧ (getFolio u x.1).pinned = false
  cmds : ∀ c ∈ u.desk.cmds, c.f ≠ g

/-! ### The fabric -/

/-- The next flit that a port of s sends, with its data. -/
def ctlFlit (s : State) (p : Nat) (data : List Byte) : Out :=
  let x := getPort s p
  let c := owedNext x fun vc => !starved s p vc
  .flit p (flitBytes x.txSeq.toNat x.rxSeq.toNat c.1 c.2 data)

/-! ### The management bus -/

/-- A message at the assigned address is served (rules R411, R412). -/
def Served (s : State) : Prop := busUp s = true ∧ s.mgt.serving = true ∧ s.mgt.assigned = true

/-- t is u with the response of a management command put out. -/
def Says (name : String) (status : Nat) (data : List Nat) (u t : State) : Prop :=
  t = { u with out := u.out ++ [.reply name status data] }

end Sys2Proof.Machine
end

