-- ==== Sys2Proof/Certificates/Slice0/Obligations.lean ====
section
/-! DEFINITION. The statements for the provers. -/

open Sys2Proof Sys2Proof.Machine

/-- A step takes the command at the front of the queue and does what exec says of it on the rest. The queue of commands and its order
are the model's own (notes/assumptions/1); R265 gives the order of the mailbox commands alone. -/
def Obligations.StepTakesFront : Prop :=
  ∀ (c : Instr) (rest : List Instr) (s : State), s.pending = c :: rest → step s = exec c { s with pending := rest }

/-! ### Mailbox commands (chapter 11) -/

/-- GET_VERSION, GET_INFO, QUEUE_QUERY and FOLIO_QUERY answer OK with what Table 11.4 lists, and change nothing else. -/
def Obligations.MailboxQueries : Prop :=
  ∀ (f : Fin 32) (k : Fin 8) (s : State), Tidy s →
    (Granted s f k 0x01 → Yields (.getVersion f k) s
      (Replies s s f k 0 [65536 * s.desk.fwMinor.toNat + s.desk.fwMajor.toNat, s.desk.fwBuild.toNat])) ∧
    (Granted s f k 0x02 → Yields (.getInfo f k) s
      (Replies s s f k 0 [larrays s, s.tier.depGib, f,
        sumNat ((List.range 32).map fun q => if (getQ s (32 * f + q)).state = 0 then 2 ^ q else 0)])) ∧
    (Granted s f k 0x14 → Yields (.queueQuery f k) s (Replies s s f k 0 (mirrorWords s (reqWord s f k 0)))) ∧
    (Granted s f k 0x34 → Yields (.folioQuery f k) s (Replies s s f k 0 (entryWords (getFolio s (reqWord s f k 0)))))

/-- SET_TIER_LIMITS, SET_CURATOR, SET_TICK, SET_INVENTORY and SET_POWER_CAP answer OK and keep the new values to take effect at
their boundary (rules R17, R236, R358); nothing else changes, but that the manager sends a new time to the other nodes. -/
def Obligations.MailboxLimits : Prop :=
  ∀ (f : Fin 32) (k : Fin 8) (s : State), Tidy s →
    (Granted s f k 0x40 → Yields (.setTierLimits f k) s
      (Replies s { s with tier := { s.tier with cur := { s.tier.cur with
        pendLimits := s.tier.cur.pendLimits ++
          [(reqWord s f k 0, { nearTier := some (reqWord s f k 1), depos := some (reqWord s f k 2) })] } } } f k 0 [])) ∧
    (Granted s f k 0x41 → Yields (.setCurator f k) s
      (Replies s { s with tier := { s.tier with cur := { s.tier.cur with
        pendCur := some (bit 0 (reqWord s f k 0), BitVec.ofNat 8 (bits 15 8 (reqWord s f k 0)),
          BitVec.ofNat 5 (bits 20 16 (reqWord s f k 0))) } } } f k 0 [])) ∧
    (Granted s f k 0x42 → Yields (.setTick f k) s
      (let v : TickSet := { source := BitVec.ofNat 2 (reqWord s f k 0), period := BitVec.ofNat 15 (reqWord s f k 1),
                            epoch := BitVec.ofNat 64 (reqWord s f k 2 + 2 ^ 32 * reqWord s f k 3),
                            n0 := BitVec.ofNat 48 (reqWord s f k 4 + 2 ^ 32 * reqWord s f k 5) }
       let told : List Out := match s.rst.opt with
         | some o => if reqWord s f k 0 = 2 ∧ s.fab.manager = true then
             (o.idMap.filter fun x => x.2 != s.fab.nodeId).map fun x => .mgmt x.2 (.setTime v.epoch v.n0 v.period.toNat)
           else []
         | none => []
       Replies s { s with tick := { s.tick with pend := some v }, out := s.out ++ told } f k 0 [])) ∧
    (Granted s f k 0x43 → Yields (.setInventory f k) s
      (Replies s { s with inv := { s.inv with pendPeriod := some (reqWord s f k 0) } } f k 0 [])) ∧
    (Granted s f k 0x44 → Yields (.setPowerCap f k) s
      (Replies s { s with pwr := { s.pwr with capReq := BitVec.ofNat 11 (reqWord s f k 0) } } f k 0 []))

/-- QUEUE_CREATE sends the read of its producer word (rule R270), or fails with HOST_FAULT at once when its function may not reach
host memory; that a failed command answers LENGTH 0 is the model's choice (notes/assumptions/25). QUEUE_DESTROY makes the queue
DESTROYING, cancels its waiting rounds, drops its delayed records and releases its reservation (rule R290).
QUEUE_RESUME makes a HALTED queue ACTIVE, and sends the oldest kept record of a COMPLETION_BLOCKED one (rule R289).
QUEUE_SET_ATTR sets the attribute that its code names (Table 11.6); what then follows at the stations is settle's. A read of host
memory is on the link at once when it has room there (Table 17.1). -/
def Obligations.MailboxQueues : Prop :=
  ∀ (f : Fin 32) (k : Fin 8) (s : State), Tidy s →
    (Granted s f k 0x10 → hostBlocked s f = false → Yields (.queueCreate f k) s
      (let at_ : W64 := BitVec.ofNat 64 (reqWord s f k 4 + 2 ^ 32 * reqWord s f k 5)
       Waits s { s with
         out := s.out ++ (if onLink s 8 then [.hostRead f at_ 8 s.desk.rdTag] else [])
         desk := { s.desk with
           rdTag := s.desk.rdTag + 1
           reads := s.desk.reads ++
             [{ tag := s.desk.rdTag, f := f, addr := at_, len := 8, why := .createProducer f k, sent := onLink s 8 }] } }
         f k .hostRead)) ∧
    (Granted s f k 0x10 → hostBlocked s f = true → Yields (.queueCreate f k) s (Replies s s f k 0x18 [])) ∧
    (Granted s f k 0x11 → Yields (.queueDestroy f k) s fun t =>
      let q := reqWord s f k 0
      (getQ t q).state = 4 ∧ (getQ t q).spill = [] ∧ (getQ t q).polling = false ∧ (getQ t q).resvNext = none ∧
        (getQ t q).resv = (getQ s q).resv.map (fun r => { r with releasing := true }) ∧
        (getQ t q).destroyP0 = (getQ s q).completed ∧ (getQ t q).destroyAt = s.clk.now ∧
        (∀ r ∈ (getQ t q).rounds, r.state ≠ .waiting) ∧ (∀ p, p ≠ q → getQ t p = getQ s p) ∧
        t.desk.lateRecs = s.desk.lateRecs.filter (fun e => e.q != q) ∧
        (getMb t f k).state = 1 ∧ { f := f, k := k, why := .destroy q } ∈ t.desk.cmds ∧ Quiet s t ∧ t.tier = s.tier ∧
        t.fab = s.fab ∧ t.out = s.out) ∧
    (Granted s f k 0x12 → (getQ s (reqWord s f k 0)).state = 2 → Yields (.queueResume f k) s fun t =>
      let q := reqWord s f k 0
      Answered s t f k 0 [0] ∧ getQ t q = { getQ s q with state := 1, cause := 0, keptGroups := [] } ∧
        (∀ p, p ≠ q → getQ t p = getQ s p) ∧ Quiet s t ∧ t.tier = s.tier ∧ t.fab = s.fab ∧ t.out = s.out) ∧
    (∀ r rest, Granted s f k 0x12 → (getQ s (reqWord s f k 0)).state = 3 → (getQ s (reqWord s f k 0)).spill = r :: rest →
      hostBlocked s (reqWord s f k 0 / 32) = false → Yields (.queueResume f k) s fun t =>
      let q := reqWord s f k 0
      let shown : BitVec 3 := if rest = [] then (if (getQ s q).cause = 0 then 1 else 2) else 3
      t.out = s.out ++ [.hostWrite (q / 32) (getQ s q).statusAddr (completionBytes (getQ s q).consumed shown.toNat r)] ++
          (if onLink s 4 then [.hostRead (q / 32) (getQ s q).statusAddr 4 s.desk.rdTag] else []) ∧
        { f := f, k := k, why := .hostRead } ∈ t.desk.cmds ∧ (getQ t q).state = 3 ∧ (getQ t q).spill = r :: rest ∧ Quiet s t) ∧
    (Granted s f k 0x13 → Yields (.queueSetAttr f k) s fun t => ∃ u, t = finish s (settle u) ∧ Answered s u f k 0 [] ∧
      Quiet s u ∧
      (let q := reqWord s f k 0
       let v := reqWord s f k 2
       let w := reqWord s f k 3
       match reqWord s f k 1 with
       | 0x01 => (getQ u q).attrs.compat = decide (v = 1)
       | 0x02 => (getQ u q).attrs.normEps = BitVec.ofNat 32 v
       | 0x03 => (getQ u q).attrs.tables = (getQ s q).attrs.tables.set 0 (BitVec.ofNat 20 v, BitVec.ofNat 19 w)
       | 0x04 => (getQ u q).attrs.tables = (getQ s q).attrs.tables.set 1 (BitVec.ofNat 20 v, BitVec.ofNat 19 w)
       | 0x05 => (getQ u q).attrs.tables = (getQ s q).attrs.tables.set 2 (BitVec.ofNat 20 v, BitVec.ofNat 19 w)
       | 0x06 => (getQ u q).attrs.tables = (getQ s q).attrs.tables.set 3 (BitVec.ofNat 20 v, BitVec.ofNat 19 w)
       | 0x07 => (getQ u q).sigNode = BitVec.ofNat 16 v ∧ (getQ u q).sigFolio = BitVec.ofNat 20 w ∧
           (getQ u q).sigOffset = BitVec.ofNat 22 (reqWord s f k 4)
       | 0x08 => (getQ u q).pollUs = v
       | 0x09 => (getQ u q).qtimeoutUs = v
       | 0x0A => (getQ u q).haltOnError = decide (v = 1)
       | 0x0B => (getQ u q).eventMode = BitVec.ofNat 2 v
       | _ => False))

/-- C0_RESERVE keeps the reservation for the next boundary when it fits on every Wing and in the device, and otherwise answers
OVER_LIMIT and changes no reservation; C0_RELEASE withdraws one that is not in force yet, and otherwise marks the one in
force for release (rules R17, R240). That a failed command answers LENGTH 0 is the model's choice (notes/assumptions/25). -/
def Obligations.MailboxReservations : Prop :=
  ∀ (f : Fin 32) (k : Fin 8) (s : State), Tidy s →
    (Granted s f k 0x20 → Yields (.c0Reserve f k) s fun t =>
      let q := reqWord s f k 0
      let r : Resv := { mask := BitVec.ofNat 32 (reqWord s f k 1), ra := bits 7 0 (reqWord s f k 2),
                        rf := bits 15 8 (reqWord s f k 2), releasing := false }
      (if resvFits (closeKept s q) r = true then Answered s t f k 0 [] ∧ getQ t q = { getQ s q with resvNext := some r, keptGroups := [] }
       else Answered s t f k 0x17 [] ∧ getQ t q = { getQ s q with keptGroups := [] }) ∧
      (∀ p, p ≠ q → getQ t p = getQ s p) ∧ Quiet s t ∧ t.tier = s.tier ∧ t.fab = s.fab ∧ t.out = s.out) ∧
    (Granted s f k 0x21 → Yields (.c0Release f k) s fun t =>
      let q := reqWord s f k 0
      let x := getQ s q
      Answered s t f k 0 [] ∧
      getQ t q = (if x.resvNext.isSome then { x with resvNext := none, keptGroups := [] }
        else { x with resv := x.resv.map fun r => { r with releasing := true }, keptGroups := [] }) ∧
      (∀ p, p ≠ q → getQ t p = getQ s p) ∧ Quiet s t ∧ t.tier = s.tier ∧ t.fab = s.fab ∧ t.out = s.out)

/-- FOLIO_ALLOC with room: a folio ID that no entry has, on a free aligned extent of the chosen tier, its bytes zeros (rules R218,
R220). Which ID and which extent is firmware's choice: a free value (notes/assumptions/9). Without room it answers NO_SPACE
or OVER_LIMIT and maps nothing; that such an answer has LENGTH 0 is the model's choice (notes/assumptions/25). -/
def Obligations.FolioAllocation : Prop :=
  ∀ (f : Fin 32) (k : Fin 8) (s : State), Tidy s → Granted s f k 0x30 →
    let size := bits 1 0 (reqWord s f k 0)
    let hint := bits 3 2 (reqWord s f k 0)
    let n := classUnits size
    let tenant := if f.val = 0 then reqWord s f k 1 else f.val
    let tiers := if bits 5 4 (reqWord s f k 0) = 0 then [false] else if bits 5 4 (reqWord s f k 0) = 1 then [true] else [false, true]
    let space := tiers.filter fun d => hasExtent s d (extents s) n
    (∀ d, space.find? (fun d => withinLimit s tenant d n) = some d →
      (∃ i, 1 ≤ i ∧ i < 1048576 ∧ ∀ x ∈ s.tier.folios, x.1 ≠ i) → Yields (.folioAlloc f k) s fun t =>
      ∃ fid u, 1 ≤ fid ∧ fid < 1048576 ∧ (∀ x ∈ s.tier.folios, x.1 ≠ fid) ∧
        (∃ i, i < (tierUnits s d).2 / n ∧ u = (tierUnits s d).1 + i * n) ∧ extentFree (extents s) u n = true ∧
        getFolio t fid = { Folio.reset with valid := true, size := BitVec.ofNat 2 size, hint := BitVec.ofNat 2 hint,
                                            tenant := BitVec.ofNat 5 tenant, tier := d, base := BitVec.ofNat 28 u } ∧
        (∀ g, g ≠ fid → getFolio t g = getFolio s g) ∧ Answered s t f k 0 [fid] ∧
        (∀ a, readByte t a =
          if folioBase (getFolio t fid) ≤ a ∧ a < folioBase (getFolio t fid) + folioSize (getFolio t fid) then 0
          else readByte s a) ∧
        t.desk.queues = s.desk.queues ∧ t.run = s.run ∧ t.rel = s.rel ∧ t.rst = s.rst ∧ t.sec = s.sec ∧ t.fab = s.fab) ∧
    (space.find? (fun d => withinLimit s tenant d n) = none → Yields (.folioAlloc f k) s
      (Replies s s f k (if space = [] then 0x16 else 0x17) []))

/-- FOLIO_FREE makes the entry invalid, and when no unfinished tile names the folio it frees its ID and answers OK (rule R221).
FOLIO_PIN pins a folio of the tier asked for at once, and starts a move to the other tier when that has room and the limit
allows it; FOLIO_UNPIN clears the pin (rule R230). -/
def Obligations.FolioChanges : Prop :=
  ∀ (f : Fin 32) (k : Fin 8) (s : State), Tidy s →
    (Granted s f k 0x31 → (∀ x ∈ s.run.tiles, tileNames s x (reqWord s f k 0) = false) → Yields (.folioFree f k) s fun t =>
      getFolio t (reqWord s f k 0) = Folio.reset ∧ (getMb t f k).state = 2 ∧ respWord t f k 0 = 65536 * 0x31 ∧
        respWord t f k 2 = 0 ∧ t.mem = s.mem ∧ t.run = s.run ∧ t.desk.queues = s.desk.queues ∧ t.fab = s.fab ∧ t.rst = s.rst) ∧
    (Granted s f k 0x31 → (∃ x ∈ s.run.tiles, tileNames s x (reqWord s f k 0) = true) → Yields (.folioFree f k) s fun t =>
      (getFolio t (reqWord s f k 0)).valid = false ∧ (getFolio t (reqWord s f k 0)).base = (getFolio s (reqWord s f k 0)).base ∧
        t.mem = s.mem ∧ t.run = s.run ∧ t.desk.queues = s.desk.queues ∧ t.fab = s.fab ∧ t.rst = s.rst) ∧
    (Granted s f k 0x32 → moveOf s (reqWord s f k 0) = none →
      (getFolio s (reqWord s f k 0)).tier = decide (reqWord s f k 1 = 1) → Yields (.folioPin f k) s
      (let x : Folio := { getFolio s (reqWord s f k 0) with pinned := true, pinTier := decide (reqWord s f k 1 = 1) }
       Replies s { s with tier := { s.tier with folios := tabSet Folio.reset s.tier.folios (reqWord s f k 0) x } } f k 0 [])) ∧
    (Granted s f k 0x32 → moveOf s (reqWord s f k 0) = none →
      (getFolio s (reqWord s f k 0)).tier ≠ decide (reqWord s f k 1 = 1) →
      withinLimit s (getFolio s (reqWord s f k 0)).tenant.toNat (decide (reqWord s f k 1 = 1))
        (folioUnits (getFolio s (reqWord s f k 0))) = true →
      hasExtent s (decide (reqWord s f k 1 = 1)) (extents s) (folioUnits (getFolio s (reqWord s f k 0))) = true →
      Yields (.folioPin f k) s fun t =>
        (getFolio t (reqWord s f k 0)).state = 1 ∧ (getFolio t (reqWord s f k 0)).base = (getFolio s (reqWord s f k 0)).base ∧
          moveOf t (reqWord s f k 0) =
            some { folio := reqWord s f k 0, toTier := decide (reqWord s f k 1 = 1), next := 0, pin := true } ∧
          (getMb t f k).state = 1 ∧ { f := f, k := k, why := .folioPin (reqWord s f k 0) } ∈ t.desk.cmds ∧
          (∀ g, g ≠ reqWord s f k 0 → getFolio t g = getFolio s g) ∧ t.mem = s.mem ∧ t.run = s.run) ∧
    (Granted s f k 0x33 → Yields (.folioUnpin f k) s
      (let x : Folio := { getFolio s (reqWord s f k 0) with pinned := false }
       Replies s { s with tier := { s.tier with folios := tabSet Folio.reset s.tier.folios (reqWord s f k 0) x } } f k 0 []))

/-- FOLIO_WRITE sends the read of its first part of at most 4,096 bytes; FOLIO_READ writes its first part to the host and sends its
flush read, when the part meets no damaged word (rule R269). A transfer of no bytes answers OK with a count of 0. A read of host
memory is on the link at once when it has room there (Table 17.1). -/
def Obligations.FolioTransfers : Prop :=
  ∀ (f : Fin 32) (k : Fin 8) (s : State), Tidy s → hostBlocked s f = false →
    let fid := reqWord s f k 0
    let addr : W64 := BitVec.ofNat 64 (reqWord s f k 2 + 2 ^ 32 * reqWord s f k 3)
    let len := reqWord s f k 4
    let n := min 4096 len
    let base := folioBase (getFolio s fid) + reqWord s f k 1
    (Granted s f k 0x35 → 0 < len → Yields (.folioWrite f k) s
      (Waits s { s with
        out := s.out ++ (if onLink s n then [.hostRead f addr n s.desk.rdTag] else [])
        desk := { s.desk with
          rdTag := s.desk.rdTag + 1
          reads := s.desk.reads ++
            [{ tag := s.desk.rdTag, f := f, addr := addr, len := n, why := .folioWrite f k 0, sent := onLink s n }] } }
        f k .hostRead)) ∧
    (Granted s f k 0x35 → len = 0 → Yields (.folioWrite f k) s fun t => Answered s t f k 0 [0] ∧ t.mem = s.mem) ∧
    (Granted s f k 0x36 → 0 < len → ueIn s base n = [] → ceIn s base n = [] → Yields (.folioRead f k []) s
      (Waits s { s with
        out := s.out ++ [.hostWrite f addr (readMem s base n)] ++ (if onLink s 4 then [.hostRead f addr 4 s.desk.rdTag] else [])
        desk := { s.desk with
          rdTag := s.desk.rdTag + 1
          reads := s.desk.reads ++
            [{ tag := s.desk.rdTag, f := f, addr := addr, len := 4, why := .folioRead f k 0, sent := onLink s 4 }] } }
        f k .hostRead)) ∧
    (Granted s f k 0x36 → len = 0 → Yields (.folioRead f k []) s fun t => Answered s t f k 0 [0] ∧ t.mem = s.mem)

/-- When no fill of the memory that they name is still to come (rule R209): MEM_READ answers the words of on-chip SRAM that it
names, when no read meets damage; MEM_WRITE writes its payload through the plain, SET or CLEAR view when port A writes no word of it
and no word is damaged, and every other byte stands (rules R190, R197, R268). -/
def Obligations.MailboxMemory : Prop :=
  ∀ (f : Fin 32) (k : Fin 8) (s : State), Tidy s →
    let a := reqWord s f k 0 + 2 ^ 32 * reqWord s f k 1
    let n := reqWord s f k 2
    (Granted s f k 0x45 → memWaits s f k = false → (∀ j, j < n → ueIn s (plainAddr (a + j)) 1 = [] ∧ ceIn s (plainAddr (a + j)) 1 = []) →
      Yields (.memRead f k []) s fun t =>
      (getMb t f k).state = 2 ∧ respWord t f k 0 = 65536 * 0x45 ∧ respWord t f k 2 = n ∧
      (∀ i, 4 * i < n → respWord t f k (4 + i) =
        if sramMapped ((a + 4 * i) % 0x10000000000) = true then
          natOf ((List.range 4).map fun j => readByte s (plainAddr (a + 4 * i + j)))
        else 0) ∧
      t.mem = s.mem ∧ t.banks = s.banks ∧ t.desk.queues = s.desk.queues ∧ t.rst = s.rst ∧ t.run = s.run) ∧
    (Granted s f k 0x46 → memWaits s f k = false → (∀ j, j < n → ueIn s (plainAddr (a + j)) 1 = []) → Yields (.memWrite f k []) s fun t =>
      Answered s t f k 0 [] ∧
      (∀ j, j < n → sramMapped ((a + j) % 0x10000000000) = true →
        readByte t (plainAddr (a + j)) =
          viewByte ((a + j) / 0x10000000000 - 4) (readByte s (plainAddr (a + j)))
            ((bytesOf 4 (reqWord s f k (4 + j / 4))).getD (j % 4) 0)) ∧
      (∀ b, (∀ j, j < n → b ≠ plainAddr (a + j) ∨ sramMapped ((a + j) % 0x10000000000) = false) → readByte t b = readByte s b) ∧
      t.banks = s.banks ∧ t.desk.queues = s.desk.queues ∧ t.rst = s.rst ∧ t.run = s.run)

/-- A request that the Desk may take up and that fails a check of rule R451 is answered with the status of the first check that it
fails, and nothing else changes but for the halt of rule R280; after QUEUE_SET_ATTR what follows at the stations is settle's. That
a failed command answers LENGTH 0 is the model's choice (notes/assumptions/25). -/
def Obligations.MailboxRejections : Prop :=
  ∀ (f : Fin 32) (k : Fin 8) (s : State), Tidy s → bit f s.sec.scrub.toNat = false → checkStatus s f (getMb s f k) ≠ 0 →
    let refused := fun (t : State) =>
      Answered s t f k (checkStatus s f (getMb s f k)) [] ∧ Quiet s t ∧ t.tier = s.tier ∧ t.fab = s.fab ∧
        (checkStatus s f (getMb s f k) ≠ 0x15 → OnlyMailbox s s t f k)
    (mbReady s f k 0x13 = true → Yields (.queueSetAttr f k) s (Settles s refused)) ∧
    ∀ c ∈ ([(0x01, .getVersion f k), (0x02, .getInfo f k), (0x10, .queueCreate f k), (0x11, .queueDestroy f k),
        (0x12, .queueResume f k), (0x14, .queueQuery f k), (0x20, .c0Reserve f k), (0x21, .c0Release f k),
        (0x30, .folioAlloc f k), (0x31, .folioFree f k), (0x32, .folioPin f k), (0x33, .folioUnpin f k),
        (0x34, .folioQuery f k), (0x35, .folioWrite f k), (0x36, .folioRead f k []), (0x40, .setTierLimits f k),
        (0x41, .setCurator f k), (0x42, .setTick f k), (0x43, .setInventory f k), (0x44, .setPowerCap f k),
        (0x45, .memRead f k []), (0x46, .memWrite f k [])] : List (Nat × Instr)),
      mbReady s f k c.1 = true → Yields c.2 s refused

/-! ### Tile operations (chapter 5) -/

/-- Every tile operation that passes the Runner's checks is taken up when the window has a place, the partition that the Runner's
next fetch needs is not full and perturbation does not hold the Runner (rule R382): it stands behind the tiles in hand, a FENCE as
fenced and any other ahead of its first station; its round has it taken, and an operation on an array's group has claimed the group
(rules R89, R113, R119, R124, R125). Nothing but Desk, Runner, array and error counters changes. -/
def Obligations.TilesTakenUp : Prop :=
  ∀ (w : Fin 32) (r : Fin 4) (s : State) (c : Cand), Tidy s →
    ∀ o ∈ ([(0x01, .matmul w r), (0x02, .accRead w r), (0x03, .accWrite w r), (0x04, .map w r), (0x05, .rowstat w r),
        (0x06, .copy w r), (0x08, .send w r), (0x09, .recv w r), (0x0A, .put w r), (0x0B, .get w r), (0x0C, .signal w r),
        (0x0D, .allreduce w r), (0x0E, .allgather w r), (0x3F, .fence w r)] : List (Nat × Instr)),
      nextTile s w r = some c → dOp c.d = o.1 → unitReset s w (0x22 + r) = false → fetchFull s w r (ranClass c.rnd) = false →
      takeUpStatus (closeKept s c.q) c = 0 → placeFor s w r c = true →
      waitOver s w (0x22 + r) (getRun s w r).readyFrom = true → creditHeld s w (0x22 + r) = false →
      c.idx ∉ c.rnd.loanDone → Yields o.2 s fun t =>
        ∃ x, t.run.tiles = s.run.tiles ++ [x] ∧ x.id = { q := c.q, rnd := c.rnd.num, idx := c.idx } ∧ x.d = c.d ∧
          x.w = w.val ∧ x.r = r.val ∧ x.status = 0 ∧ x.phase = (if o.1 = 0x3F then .fenced else .ahead) ∧
          x.cls = BitVec.ofNat 2 (ranClass c.rnd) ∧
          (∀ rd ∈ (getQ t c.q).rounds, rd.num = c.rnd.num → c.idx ∈ rd.taken) ∧
          (opArray (dOp c.d) = true → getGroup t (dLarray c.d) (dGroup c.d) =
            claimGroup (getGroup (closeKept s c.q) (dLarray c.d) (dGroup c.d)) c.q c.rnd.num c.d) ∧
          (∀ p, p ≠ c.q → getQ t p = getQ s p) ∧ t.mem = s.mem ∧ t.out = s.out ∧ t.tier = s.tier ∧ t.fab = s.fab ∧
          t.units = s.units ∧ t.wings = s.wings ∧ t.clk = s.clk ∧ t.tick = s.tick ∧ t.adm = s.adm ∧ t.rst = s.rst ∧
          t.pwr = s.pwr ∧ t.sec = s.sec ∧ t.vault = s.vault ∧ t.flash = s.flash

/-- A tile that fails a check of the Runner is taken up, while the Runner has fewer tiles ahead than its window, and finished at once
with the status of the first check that fails, and it claims no group (rules R124, R125); its round has lost the guarantee (Table
10.3). Any of the commands takes up a reserved operation code. An accumulator read of a group that is neither open nor draining
leaves its Wing's window buffer zeros and its RESULT NOT_OPEN (rule R98); that DONE and STEPS stay as they are is read from the
spec by inference (notes/assumptions/100). -/
def Obligations.TilesRejected : Prop :=
  ∀ (w : Fin 32) (r : Fin 4) (s : State) (c : Cand), Tidy s →
    ∀ o ∈ ([(0x01, .matmul w r), (0x02, .accRead w r), (0x03, .accWrite w r), (0x04, .map w r), (0x05, .rowstat w r),
        (0x06, .copy w r), (0x08, .send w r), (0x09, .recv w r), (0x0A, .put w r), (0x0B, .get w r), (0x0C, .signal w r),
        (0x0D, .allreduce w r), (0x0E, .allgather w r), (0x3F, .fence w r)] : List (Nat × Instr)),
      nextTile s w r = some c → (dOp c.d = o.1 ∨ opKnown (dOp c.d) = false) → unitReset s w (0x22 + r) = false →
      fetchFull s w r (ranClass c.rnd) = false → takeUpStatus (closeKept s c.q) c ≠ 0 → placeFor s w r c = true →
      waitOver s w (0x22 + r) (getRun s w r).readyFrom = true → creditHeld s w (0x22 + r) = false → Yields o.2 s fun t =>
        ∃ x, t.run.tiles = s.run.tiles ++ [x] ∧ x.id = { q := c.q, rnd := c.rnd.num, idx := c.idx } ∧
          x.status = BitVec.ofNat 8 (takeUpStatus (closeKept s c.q) c) ∧ x.phase = .finished ∧
          t.arrs.groups = (closeKept s c.q).arrs.groups ∧ t.mem = s.mem ∧ t.tier = s.tier ∧ t.fab = s.fab ∧
          t.units = s.units ∧ t.clk = s.clk ∧ t.rst = s.rst ∧
          (∀ rd ∈ (getQ t c.q).rounds, rd.num = c.rnd.num → c.idx ∈ rd.taken ∧ rd.lostGuarantee = true) ∧
          (if takeUpStatus (closeKept s c.q) c = 7 ∧ dOp c.d = 2 ∧ groupDrains s (dLarray c.d) (dGroup c.d) = false then
             getWing t w = { getWing s w with winBuf := [], accResult := 1, accTokens := 0 } ∧
               ∀ v, v ≠ w.val → getWing t v = getWing s v
           else t.wings = s.wings)

/-- PSPLIT_CHANGE gives the empty bank of the first waiting tile the split of that tile (rule R123). DRAIN_START starts the drain of
the slot that closed first, and its tile goes on to its next station with the drained rows; DRAIN_END frees the slot when those
rows have been passed on, and changes nothing while the next station has no credits for them (rules R85, R86, R127). Rows that
cross to another Wing land in IN units there (rule R123), and a station that they go straight through takes the tile up
(handOver); how many rows a station's input holds is the model's choice (notes/assumptions/98). -/
def Obligations.BanksAndDrains : Prop :=
  (∀ (w : Fin 32) (r : Fin 4) (s : State) (x : Tile), Tidy s →
    (s.run.tiles.find? fun x =>
      x.w == w.val && x.r == r.val && x.phase == .ahead && dSplit x.d != (getArr s w x.a).split.toNat &&
        (getArr s w x.a).bufs.isEmpty &&
        !((s.run.tiles.takeWhile fun z => z.id != x.id).any fun z =>
            z.w == w.val && z.a == x.a && (z.phase == .ahead || z.phase == .held || z.phase == .aside) && z.hop == 0 &&
              dSplit z.d == (getArr s w x.a).split.toNat)) = some x →
    Yields (.psplitChange w r) s fun t =>
      getArr t w x.a = { getArr s w x.a with split := BitVec.ofNat 2 (dSplit x.d) } ∧
        t = { s with arrs := { s.arrs with arr := t.arrs.arr } } ∧
        (∀ v b, 33 * v + b ≠ 33 * w.val + x.a → getArr t v b = getArr s v b)) ∧
  (∀ (w : Fin 32) (a : Fin 33) (s : State) (k : Nat) (z : Slot) (x : Tile), Tidy s → Undamaged s → unitReset s w (1 + a) = false →
    slotsWith s w a (fun z => z.draining && z.started) = [] → drainNext s w a = some (k, z) →
    z.tile.bind (findTile s) = some x → x.phase = .drainWait → Yields (.drainStart w a []) s fun t =>
      getSlot t w a k = { z with started := true } ∧
        findTile t x.id = some { x with rows := slotRows z, phase := .between, hop := 1,
                                        nonfinite := x.nonfinite || (slotRows z).any (·.any xvBad) } ∧
        t = { s with arrs := { s.arrs with slots := t.arrs.slots }, run := { s.run with tiles := t.run.tiles } }) ∧
  (∀ (w : Fin 32) (a : Fin 33) (s : State) (k : Nat) (z : Slot), Tidy s →
    (slotsWith s w a fun z => z.draining && z.started).head? = some (k, z) →
    ((∀ x, z.tile.bind (findTile s) = some x → ¬ (x.phase = .between ∧ x.hop = 1)) → Yields (.drainEnd w a) s fun t =>
      getSlot t w a k = Slot.reset ∧ (∀ j, j < 8 → j ≠ k → getSlot t w a j = getSlot s w a j) ∧
        t = { s with arrs := { s.arrs with slots := t.arrs.slots } }) ∧
    (∀ x, z.tile.bind (findTile s) = some x → x.phase = .between → x.hop = 1 → Yields (.drainEnd w a) s fun t =>
      match goOn s w x with
      | none => t = s
      | some (s', y) =>
        (∃ v, t = finish s (handOver v x.id) ∧ getSlot v w a k = Slot.reset ∧
          (∀ j, j < 8 → j ≠ k → getSlot v w a j = getSlot s w a j) ∧ findTile v x.id = some y ∧
          v = { s' with arrs := { s'.arrs with slots := v.arrs.slots }, run := { s'.run with tiles := v.run.tiles } }) ∧
          ∀ c, offBank w x c → readByte t c = readByte s c))

/-- SLAB_ARRIVE lands what the Runner fetched next in the partition that has room, and counts it for its tile (rules R125, R136); the
preload of a tile that an array holds goes on into its group's slot (rule R88). PASS_START runs the next pass of the tile an array
holds: the slot takes the rows of the pass, the tile, the group and the slot count it, and the cells' registers change roles
(rules R80 to R88, R100). After its last pass a tile that is to be replayed begins its A32S passes, and its last pass ends the
replay; a fault found in flight has a clause of its own (rules R70 to R75, R104, R105). No word of memory is damaged, and
perturbation does not hold the credits of the pass (rule R382). -/
def Obligations.SlabsAndPasses : Prop :=
  (∀ (t : TileId) (part : Part) (s : State) (x : Tile) (ps : List Piece) (y : Arr), Tidy s → Undamaged s →
    findTile s t = some x → mayFetch s x part = true → unitReset s x.w (0x22 + x.r) = false → nextFetch s x part = some ps →
    roomFor s x (getArr s x.w x.a) ps = some y → Yields (.slabArrive t part true []) s (Settles s fun u =>
      (x.phase = .ahead → (getArr u x.w x.a).bufs = y.bufs) ∧
      (∀ p, part = .aux → dOp x.d = 1 → tileHeld x = true → ps = [p] → passBuf (getArr s x.w x.a) x.id .aux 0 0 = none →
        (getGroup s (dLarray x.d) (dGroup x.d)).live = true →
        let k := (getGroup s (dLarray x.d) (dGroup x.d)).slot
        let z := getSlot s x.w x.a k
        getSlot u x.w x.a k = { z with acc := (openRows x.d z.shape.mode.toNat p.bytes).flatten } ∧
          ∀ b ∈ (getArr u x.w x.a).bufs, ¬ (b.t = x.id ∧ b.part = .aux)) ∧
      ∃ x', findTile u t = some x' ∧ x'.d = x.d ∧ x'.phase = x.phase ∧
        x'.wtGot = x.wtGot + (if part = .wt then 1 else 0) ∧ x'.actGot = x.actGot + (if part = .act then 1 else 0) ∧
        (part = .aux → x'.auxGot = true) ∧ u.fab = s.fab ∧ u.wings = s.wings ∧ u.rst = s.rst ∧ u.desk.queues = s.desk.queues)) ∧
  (∀ (w : Fin 32) (a : Fin 33) (s : State) (x : Tile), Tidy s → Undamaged s →
    (getArr s w a).tile.bind (findTile s) = some x → x.w = w.val → x.a = a.val → (getArr s w a).fault = none →
    unitReset s w (1 + a) = false → creditHeld s w (1 + a) = false → passReady s x = true →
    Yields (.passStart w a none []) s (Settles s fun u =>
      let g := getGroup s (dLarray x.d) (dGroup x.d)
      let z := getSlot s w a g.slot
      let v := passRunOf x x.passDone
      let q := bankPass s x x.passDone
      let p := slotPass x.d v q z (if x.rerun = true ∧ v.step = 0 then seedGen (dSeed x.d) (dLarray x.d) else g.gen)
      let steps : W32 := if x.rerun = true then BitVec.ofNat 32 (v.step + 1) else g.steps + 1
      let last := decide (x.passDone + 1 = (seqOf x).length)
      let sat := x.sat || p.2.2.sats != 0
      (getArr u w a).active = regBytes q.cols ∧ (getArr u w a).satPasses = satAdd (getArr s w a).satPasses p.2.2.sats ∧
        (getArr u w a).replays = (if last && x.rerun then satAdd (getArr s w a).replays 1 else (getArr s w a).replays) ∧
        (if last && !x.rerun && sat && replayable x.d then
          getSlot u w a g.slot = { p.1 with shape := { z.shape with mode := 1 }, acc := List.replicate (dM x.d * z.cols) 0, steps := 0 } ∧
            getGroup u (dLarray x.d) (dGroup x.d) = { g with gen := p.2.1, steps := 0 } ∧
            ∃ x', findTile u x.id = some x' ∧ x'.rerun = true ∧ x'.passDone = 0 ∧ x'.wtGot = 0 ∧ x'.actGot = 0 ∧ x'.auxGot = false ∧
              x'.phase = .held ∧ x'.sat = true
        else
          getSlot u w a g.slot = { p.1 with steps := steps } ∧
            getGroup u (dLarray x.d) (dGroup x.d) = { g with gen := p.2.1, steps := steps } ∧
            ∃ x', findTile u x.id = some x' ∧ x'.passDone = x.passDone + 1 ∧ x'.phase = .held ∧ x'.sat = sat ∧
              x'.maxabs = max x.maxabs p.2.2.maxabs ∧ x'.replayed = (x.replayed || (last && x.rerun))) ∧
        u.wr = [] ∧ u.tier = s.tier ∧ u.fab = s.fab ∧ u.wings = s.wings ∧ u.rst = s.rst ∧ u.desk.queues = s.desk.queues)) ∧
  (∀ (w : Fin 32) (a : Fin 33) (s : State) (x : Tile) (e : ChkFault), Tidy s →
    (getArr s w a).tile.bind (findTile s) = some x → (getArr s w a).fault = none →
    unitReset s w (1 + a) = false → creditHeld s w (1 + a) = false → passReady s x = true →
    Yields (.passStart w a (some e) []) s fun t =>
      (getArr t w a).checkErrs = satAdd (getArr s w a).checkErrs 1 ∧ (getArr t w a).fault = some 2)

/-- STATION_TAKE_UP: the best tile that is ready at an array, Glossary, Ledger or Returns unit is held by that unit, and its round is
charged from then on (rules R128, R130, R238); at a Loan station the tile is held there, unless its peer cannot be reached or
its rendezvous ends it. USER_TABLE_FILL brings a good table into the Wing-store bank of the unit that waits for it (rule R176); its
place there is the model's choice (notes/assumptions/99). No word is damaged, and perturbation delays no take-up any more. -/
def Obligations.StationsTakeUp : Prop :=
  (∀ (st : StRef) (s : State) (x : Tile), Tidy s → Undamaged s → st.kind ≠ .loan →
    unitReset s st.wing (stationCode st) = false → bestAt s st = some x → delayOver s st x = true →
    Yields (.stationTakeUp st []) s (Settles s fun u =>
      unitTile u st = some x.id ∧
        (∃ x', findTile u x.id = some x' ∧ x'.phase = .held ∧ x'.d = x.d ∧ x'.hop = x.hop ∧
          x'.startCyc = some (x.startCyc.getD s.clk.acyc)) ∧
        (∀ r ∈ (getQ u x.id.q).rounds, r.num = x.id.rnd → r.since ≠ none) ∧ u.wr = [] ∧ u.fab = s.fab ∧ u.tier = s.tier ∧
        u.out = s.out)) ∧
  (∀ (st : StRef) (s : State) (x : Tile), Tidy s → st.kind = .loan →
    unitReset s st.wing (stationCode st) = false → bestAt s st = some x → delayOver s st x = true →
    Yields (.stationTakeUp st []) s (Settles s fun u =>
      (∃ x', findTile u x.id = some x' ∧ (x'.phase = .held ∨ (x'.phase = .finished ∧ x'.status ≠ 0)) ∧ x'.d = x.d) ∧
        (∀ r ∈ (getQ u x.id.q).rounds, r.num = x.id.rnd → r.since ≠ none) ∧ u.arrs.slots = s.arrs.slots)) ∧
  (∀ (w : Fin 32) (v : Fin 2) (s : State) (x : Tile) (b : Nat × Nat), Tidy s → Undamaged s →
    (getGlo s w v).tile.bind (findTile s) = some x → tileTable s x = some b → x.tableReady = false →
    (getGlo s w v).heldBySoftmax = false → tblOk (wordsOf ((tableMem s b).take 64)) = true →
    Yields (.userTableFill w v []) s (Settles s fun u =>
      let place := (fillPlace s w v).1
      let n := (tableMem s b).length
      (∃ x', findTile u x.id = some x' ∧ x'.tableReady = true ∧ x'.phase = x.phase ∧ x'.table = some (place, n)) ∧
        (getGlo u w v).fetches = satAdd (getGlo s w v).fetches 1 ∧
        (getGlo u w v).cache.head? = some { tenant := x.id.q / 32, folio := BitVec.ofNat 20 b.1,
                                            offset := BitVec.ofNat 19 (b.2 / 64), place := place, len := n } ∧
        (∀ c, readByte u c = if tableAddr w v place ≤ c ∧ c < tableAddr w v place + n then
          (tableMem s b).getD (c - tableAddr w v place) 0 else readByte s c) ∧
        u.fab = s.fab ∧ u.arrs = s.arrs ∧ u.out = s.out ∧ u.desk = s.desk))

/-- CREDIT_RETURN: a Glossary, Ledger or Returns unit takes the next slab of the row tile it holds out of the bank, over the Aisles
when its Wing is another and these have a credit (rules R123, R127, R136). STATION_TILE_FINISH: an array that has finished a closing
tile hands its slot to the drain, one that has finished any other MATMUL or an accumulator write ends the tile, and an accumulator
read goes on; a Glossary or Ledger unit that is not the last passes its tile on with the rows that its function makes of it, and a
last Returns unit writes the rows to operand C and ends it (rules R40 to R43, R85, R94, R95, R129, R163, R179). What has no credits
to go on with stays as it is (rule R127); a station that rows go straight through takes the tile up (handOver). Where a Ledger keeps
the rows between its passes is the model's choice (notes/assumptions/99). -/
def Obligations.StationsFinish : Prop :=
  (∀ (st : StRef) (s : State) (x : Tile), Tidy s → Undamaged s → st.kind ≠ .loan → st.kind ≠ .array →
    (unitTile s st).bind (findTile s) = some x → slabWaits x = true → opRow (dOp x.d) = true → stOf x = some st →
    (st.kind = .glossary → x.tableReady = true) → creditHeld s st.wing (stationCode st) = false →
    Yields (.creditReturn st []) s (Settles s fun u =>
      match slabAt s x st.wing [] with
      | none => u = s
      | some _ =>
        let b := bufData s x.w x.a (passBuf (getArr s x.w x.a) x.id .act x.passDone 0)
        (∃ x', findTile u x.id = some x' ∧ x'.passDone = x.passDone + 1 ∧ x'.phase = .held ∧ x.rows.length ≤ x'.rows.length ∧
          (st.wing.val = x.w → x'.rows = x.rows ++ slabValues x.d b.1 b.2)) ∧
        (∀ b ∈ (getArr u x.w x.a).bufs, ¬ (b.t = x.id ∧ b.part = .act ∧ b.idx = x.passDone)) ∧
        (∀ c, offBank x.w x c → readByte u c = readByte s c) ∧ u.fab = s.fab ∧ u.tier = s.tier ∧ u.out = s.out)) ∧
  (∀ (st : StRef) (hits : List EccHit) (s : State) (x : Tile), Tidy s → st.kind = .array → finishing s st = some x → dOp x.d ≠ 2 →
    x.w = st.wing.val → x.a = st.unit →
    Yields (.stationTileFinish st hits) s (Settles s fun u =>
      unitTile u st = none ∧ (getArr u x.w x.a).lastL = dLarray x.d ∧ u.wr = [] ∧ u.out = s.out ∧
        ∃ x', findTile u x.id = some x' ∧
          (if dOp x.d = 1 ∧ dClose x.d = true then
             x'.phase = .drainWait ∧ u.arrs.closeCtr = s.arrs.closeCtr + 1 ∧
               (getSlot u x.w x.a (getGroup s (dLarray x.d) (dGroup x.d)).slot).draining = true ∧
               (getSlot u x.w x.a (getGroup s (dLarray x.d) (dGroup x.d)).slot).closeOrder = s.arrs.closeCtr ∧
               (getSlot u x.w x.a (getGroup s (dLarray x.d) (dGroup x.d)).slot).tile = some x.id
           else x'.phase = .finished ∧ x'.stamp = s.clk.now ∧ x'.status = x.status))) ∧
  (∀ (st : StRef) (hits : List EccHit) (s : State) (x : Tile), Tidy s → st.kind = .array → finishing s st = some x → dOp x.d = 2 →
    x.w = st.wing.val → x.a = st.unit → Yields (.stationTileFinish st hits) s (Settles s fun u =>
      match goOn s x.w { x with phase := .between, hop := 1 } with
      | none => u = s
      | some (_, y) =>
        (∃ v, u = handOver v x.id ∧ unitTile v st = none ∧ (getArr v x.w x.a).lastL = dLarray x.d ∧ v.arrs.slots = s.arrs.slots ∧
          v.out = s.out ∧ getGroup v (dLarray x.d) (dGroup x.d) = { getGroup s (dLarray x.d) (dGroup x.d) with
            waiting := (getGroup s (dLarray x.d) (dGroup x.d)).waiting - 1 } ∧
          ∃ x', findTile v x.id = some x' ∧ x'.phase = .between ∧ x'.hop = 1 ∧ x'.rows = x.rows ∧ x'.fifo = y.fifo) ∧
          ∀ c, offBank x.w y c → readByte u c = readByte s c)) ∧
  (∀ (st : StRef) (s : State) (x : Tile), Tidy s → Undamaged s → st.kind = .glossary ∨ st.kind = .ledger → finishing s st = some x →
    x.hop + 1 < (dLocal x.d).length → Yields (.stationTileFinish st []) s (Settles s fun u =>
      match goOn s st.wing { x with phase := .between, hop := x.hop + 1 } with
      | none => u = s
      | some (s', y) =>
        (∃ v, u = handOver v x.id ∧ unitTile v st = none ∧ v.out = s.out ∧ v.tier = s.tier ∧
          ∃ x', findTile v x.id = some x' ∧ x'.phase = .between ∧ x'.hop = x.hop + 1 ∧ x'.fifo = y.fifo ∧
            x'.rows = if st.kind = .glossary then
                x.rows.map fun r => r.map fun v =>
                  (gloElement (dGfunc x.d) (tileAttrs s x).compat (tableWords s' st.wing st.unit x) v).1
              else x.rows.map fun r => (ledgerFn (dLfunc x.d) (tileAttrs s x).compat (decodeF fp32 (tileAttrs s x).normEps.toNat)
                (r.map (xvRound fp32))).1) ∧
          ∀ c, offBank st.wing y c → (st.kind = .ledger → ∀ m, m < x.rows.length → c < ledgerAddr st.wing st.unit m ∨
            ledgerAddr st.wing st.unit m + 4 * (x.rows.getD m []).length ≤ c) → readByte u c = readByte s c)) ∧
  (∀ (st : StRef) (s : State) (x : Tile), Tidy s → Undamaged s → st.kind = .returns → finishing s st = some x →
    x.hop + 1 = (dLocal x.d).length → Yields (.stationTileFinish st []) s (Settles s fun u =>
      unitTile u st = none ∧ (∃ x', findTile u x.id = some x' ∧ x'.phase = .finished ∧ x'.stamp = s.clk.now) ∧
        (moveOf s (dFolio x.d 2) = none → ∀ c, readByte u c =
          lastWritten (folioBase (getFolio s (dFolio x.d 2))) ((outRows x).flatMap fun o => o.writes) c (readByte s c)) ∧
        u.out = s.out ∧ u.fab = s.fab))

/-- TILE_COMPLETE of a good tile that is not the last: it is gone and its round is one tile further. TILE_COMPLETE of the last tile
of the oldest round: the round ends with OK (0), and its queue's COMPLETED, TAG, STATUS and FAIL_TILE say so; a tile with another
status ends its round there with that status (rules R124, R131, R278, R283). -/
def Obligations.TilesComplete : Prop :=
  ∀ (q : Fin 1024) (s : State) (r : Round) (rest : List Round) (x : Tile), Tidy s → (getQ s q).state ≠ 4 →
    completing s q = some (r, x) → (getQ s q).rounds = r :: rest → (∀ y ∈ rest, y.num ≠ r.num) →
    (∀ y ∈ rest, y.result = none) →
    (x.status = 0 → dLast x.d = false → r.done + 1 ≠ r.descCount → Yields (.tileComplete q) s (Settles s fun u =>
      (∃ r', (getQ u q).rounds = r' :: rest ∧ r'.num = r.num ∧ r'.done = r.done + 1 ∧ r'.result = none) ∧
        u.run.tiles = s.run.tiles.filter (fun y => y.id != x.id) ∧ (getQ u q).completed = (getQ s q).completed ∧
        u.wr = [] ∧ u.tier = s.tier)) ∧
    (x.status = 0 → dLast x.d = true → Yields (.tileComplete q) s (Settles s fun u =>
      (getQ u q).completed = (getQ s q).completed + 1 ∧ (getQ u q).last.tag = r.tag ∧ (getQ u q).last.status = 0 ∧
        (getQ u q).last.failTile = BitVec.ofNat 20 r.done ∧ (getQ u q).last.failed = (getQ s q).last.failed ∧
        (getQ u q).rounds.length = rest.length ∧ u.wr = [] ∧ u.tier = s.tier)) ∧
    (x.status ≠ 0 → Yields (.tileComplete q) s (Settles s fun u =>
      (getQ u q).completed = (getQ s q).completed + 1 ∧ (getQ u q).last.tag = r.tag ∧ (getQ u q).last.status = x.status ∧
        (getQ u q).last.failTile = BitVec.ofNat 20 r.done ∧ (getQ u q).last.lastFailRound = r.num ∧
        (getQ u q).last.failed = satAdd (getQ s q).last.failed 1 ∧ (getQ u q).rounds.length = rest.length ∧
        u.wr = [] ∧ u.tier = s.tier))

/-- ROUND_OVERRUN marks a round of class 1 to 3 that has used more than its budget and counts it; C0_DEMOTION demotes a C0 round
that has (rules R249, R254). INPUT_WAIT_TIMEOUT ends a held tile whose timer has reached QTIMEOUT with INPUT_TIMEOUT (rule R139),
and its round has lost the guarantee (Table 10.3). ROUND_REEXECUTE, when no station holds a tile of a round that stops, starts each
such round again from its first tile, once (rules R105, R108). -/
def Obligations.RoundsMeetEvents : Prop :=
  (∀ (q : Fin 1024) (n : W32) (s : State) (r : Round), Tidy s → findRound s q n = some r → r.cls ≠ 0 → r.result = none →
    r.overrun = false → r.budget ≠ 0 → r.budget < wholeCycles (roundCharge s r) → Yields (.roundOverrun q n) s fun t =>
      findRound t q n = some { r with overrun := true } ∧ (∀ p, p ≠ q.val → getQ t p = getQ s p) ∧
        t = { s with desk := { s.desk with queues := t.desk.queues }
                     adm := { s.adm with overruns := satAdd s.adm.overruns 1 } }) ∧
  (∀ (q : Fin 1024) (n : W32) (s : State) (r : Round), Tidy s → findRound s q n = some r → r.cls = 0 → r.result = none →
    r.demoted = false → r.budget < wholeCycles (roundCharge s r) → Yields (.c0Demotion q n) s fun t =>
      (∃ r', findRound t q n = some r' ∧ r'.demoted = true ∧ r'.overrun = true ∧ r'.done = r.done ∧ r'.state = r.state) ∧
        (∀ p, p ≠ q.val → getQ t p = getQ s p) ∧
        t = { s with desk := { s.desk with queues := t.desk.queues }
                     adm := { s.adm with demoted := satAdd s.adm.demoted 1 } }) ∧
  (∀ (i : TileId) (s : State) (x : Tile) (from_ : W64), Tidy s → findTile s i = some x → inWait x = true →
    x.waitFrom = some from_ → (getQ s i.q).qtimeoutUs ≠ 0 → 1000 * (getQ s i.q).qtimeoutUs ≤ (s.clk.now - from_).toNat →
    Yields (.inputWaitTimeout i) s (Settles s fun u =>
      (∃ x', findTile u i = some x' ∧ x'.phase = .finished ∧ x'.status = 0x0A ∧ x'.stamp = s.clk.now) ∧
        (∀ r ∈ (getQ u i.q).rounds, r.num = i.rnd → r.lostGuarantee = true) ∧ (∀ p, p ≠ i.q → getQ u p = getQ s p) ∧
        u.wr = [] ∧ u.desk = { s.desk with queues := u.desk.queues } ∧ u.fab = (noteLate s [x]).fab ∧ u.tier = s.tier ∧
        u.out = s.out)) ∧
  (∀ (w : Fin 32) (a : Fin 33) (s : State), Tidy s → (getArr s w a).fault ≠ none →
    (∀ y ∈ faultStops s, roundHeld s y.1 y.2.num = false) → Yields (.roundReexecute w a) s (Settles s fun u =>
      (∀ y ∈ faultStops s, y.2.reexecuted = false →
        (∀ r ∈ (getQ u y.1).rounds, r.num = y.2.num → r.reexecuted = true ∧ r.done = 0) ∧
        ∀ x ∈ u.run.tiles, ¬ (x.id.q = y.1 ∧ x.id.rnd = y.2.num)) ∧ u.rst = s.rst ∧ u.pwr = s.pwr ∧ u.tick = s.tick))

/-- R140, at the Wing that receives the burst, for data and for a response that come for a tile which has ended: its count of late
bursts grows by one at the first slip of the burst, up to its highest value (rule R5), and the data goes nowhere: nothing else of
the block changes but the fabric's flows, with the answer that a WRITE slip gets. -/
def Obligations.LateBurstCounts : Prop :=
  ∀ (sl : Slip) (s : State) (w : Nat) (first : Bool), Tidy s → sl.dest = s.fab.nodeId →
    ((sl.kind = 0 ∧ fabricLive s = true ∧ (getRx s sl.src.toNat (slipClass sl)).seq = sl.seq ∧ sl.folio = 0 ∧ sl.countLen ≠ 0 ∧
        isFar sl = false ∧ dataTile s sl = none ∧ ∃ e, lateFor s sl = some e ∧ w = e.wing ∧ first = !e.counted) ∨
      (sl.kind ≠ 0 ∧ ∃ x i, (takeAnswer s sl).1 = some x ∧ x.tile = some i ∧ (x.ended = true ∨ findTile s i = none) ∧ w = x.wing ∧
        first = !x.late)) → Yields (.lateBurst sl) s (Settles s fun u =>
      (getWing u w).lateBursts.toNat =
          (if first = true then min ((getWing s w).lateBursts.toNat + 1) (2 ^ 32 - 1) else (getWing s w).lateBursts.toNat) ∧
        u = { s with wings := u.wings, fab := u.fab, out := u.out } ∧ (∀ v, v ≠ w → getWing u v = getWing s v) ∧
        getWing u w = { getWing s w with lateBursts := (getWing u w).lateBursts } ∧ (sl.kind ≠ 0 → u.out = s.out))

/-- A write of WNG_ACC_CTL with GO = 1 starts a read (WRITE = 0) or a write (WRITE = 1) of the accumulator window when none runs, and
has no effect while one does. The end of a transfer reports DONE: of an open group with OK, the mode, the tokens and the steps, a
read with the group's accumulators in the window buffer, and a write with them replaced and nothing else; of a closed group that
drains with DRAINING, of a group that is neither with NOT_OPEN and zeros, of an array that the Wing does not run with NOT_HERE, which
leaves the window buffer as it is, as a write that is refused does (read from the spec by inference, notes/assumptions/44). A
group in a saturation replay keeps the transfer waiting, and an earlier access that waits keeps the write of GO (rules R96 to R99,
R441, Tables 4.9 to 4.11). -/
def Obligations.AccumulatorWindow : Prop :=
  (∀ (w : Fin 32) (v : W32) (s : State), Tidy s → barOpen s 0 = true → wingReach s w = true → bit 31 v.toNat = true →
    ∀ c ∈ ([(false, .accWindowRead w v), (true, .accWindowWrite w v)] : List (Bool × Instr)), bit 30 v.toNat = c.1 →
      (barHeld s = true → Yields c.2 s fun t => t = holdAcc s (.regWrite (0x831010 + 0x40000 * w) 4 v)) ∧
      (barHeld s = false → (getWing s w).accRun ≠ none → Yields c.2 s fun t => t = s) ∧
      (barHeld s = false → (getWing s w).accRun = none → Yields c.2 s fun t =>
        getWing t w = { getWing s w with accWrite := c.1, accGroup := BitVec.ofNat 2 (bits 27 26 v.toNat),
                                         accLarray := BitVec.ofNat 10 (bits 25 16 v.toNat),
                                         accRun := some (c.1, bits 25 16 v.toNat, bits 27 26 v.toNat) } ∧
          t = { s with wings := t.wings } ∧ ∀ x, x ≠ w.val → getWing t x = getWing s x)) ∧
  (∀ (w : Fin 32) (s : State) (wr : Bool) (l g : Nat), Tidy s → Undamaged s → (getWing s w).accRun = some (wr, l, g) →
    let ends := fun (t : State) (res : BitVec 4) (z : Slot) (steps : W32) (buf : Tab Byte) =>
      getWing t w = { getWing s w with accRun := none, accDone := true, accResult := res, accSteps := steps, winBuf := buf,
                                       accMode := BitVec.ofNat 2 z.shape.mode.toNat, accTokens := BitVec.ofNat 7 z.shape.m } ∧
        ∀ v, v ≠ w.val → getWing t v = getWing s v
    let buf := (getWing s w).winBuf
    ((∀ a, physOf s l ≠ some (w.val, a)) → Yields (.accWindowTransferEnd w []) s fun t =>
      ends t 2 Slot.reset 0 buf ∧ t = { s with wings := t.wings }) ∧
    ∀ a, physOf s l = some (w.val, a) →
      (replaying s w a l g = true → Yields (.accWindowTransferEnd w []) s fun t => t = s) ∧
      (replaying s w a l g = false →
        ((getGroup s l g).live = true → Yields (.accWindowTransferEnd w []) s fun t =>
          let z := getSlot s w a (getGroup s l g).slot
          (wr = false → ends t 0 z (getGroup s l g).steps (winPut buf (winOfSlot z) 0) ∧ t = { s with wings := t.wings }) ∧
          (wr = true → ends t 0 z (getGroup s l g).steps buf ∧
            t = { s with wings := t.wings, arrs := { s.arrs with slots := t.arrs.slots } } ∧
            getSlot t w a (getGroup s l g).slot =
              { z with acc := slotOfWin z fun o n => (List.range n).map fun i => tabGet 0 buf (o + i) })) ∧
        ((getGroup s l g).live = false → ∀ k z, drainingSlot s w a l g = some (k, z) → Yields (.accWindowTransferEnd w []) s fun t =>
          ends t 3 z z.steps (if wr = true then buf else winPut buf (winOfSlot z) 0) ∧ t = { s with wings := t.wings }) ∧
        ((getGroup s l g).live = false → drainingSlot s w a l g = none → Yields (.accWindowTransferEnd w []) s fun t =>
          ends t 1 Slot.reset 0 (if wr = true then buf else winPut buf (List.replicate 8192 0) 0) ∧
            t = { s with wings := t.wings })))

/-! ### Ticks (chapter 10) -/

/-- A boundary of an INTERNAL tick that is due, at its place on the schedule; of a FABRIC tick on a node that has joined, is manager
or runs alone, now, with the manager's number; a TICK_IN edge that is not early, at once, or at the end of the delay that
perturbation gave it; and a substitute boundary once its instant has passed, which marks the tick LOST (rules R232 to R236, R247,
R323, R382, R428). -/
def Obligations.TickBoundaries : Prop :=
  ∀ (s : State), Tidy s → tickRuns s = true →
    (s.tick.source = 0 → (∀ p, s.tick.pend = some p → p.source ≠ 2) → tickDue s 0 = true → Yields .tickBoundary s (Settles s fun u =>
      AtBoundary s u (s.tick.last + BitVec.ofNat 64 (periodNs s)) (s.tick.num + 1) false ∧ u.tick.pend = none ∧
        u.tick.source = (s.tick.pend.map (·.source)).getD 0 ∧ u.tick.period = (s.tick.pend.map (·.period)).getD s.tick.period)) ∧
    (s.tick.source = 2 → s.tick.pend = none → s.fab.joined = true ∨ s.fab.manager = true ∨ s.fab.alone = true → tickDue s 0 = true →
      Yields .tickBoundary s (Settles s fun u => AtBoundary s u s.clk.now (fabricTick s s.clk.now.toNat) false)) ∧
    (s.tick.source = 1 → s.tick.pend = none → s.tick.edge = none → 9 * periodNs s ≤ 10 * sinceTick s →
      Yields .tickInEdge s (Settles s fun u =>
        if s.tick.jitter = 0 then AtBoundary s u s.clk.now (s.tick.num + 1) false ∧ u.tick.lost = s.tick.lost
        else u = { s with tick := { s.tick with edge := some s.clk.now } })) ∧
    (∀ e, s.tick.source = 1 → s.tick.pend = none → s.tick.edge = some e → tickDue s 0 = true →
      Yields .tickBoundary s (Settles s fun u => AtBoundary s u e (s.tick.num + 1) false ∧ u.tick.edge = none)) ∧
    (s.tick.source = 1 → s.tick.pend = none → s.tick.edge = none →
      let after := if s.tick.subst = true then periodNs s else 5 * periodNs s / 4
      after + s.tick.jitter < sinceTick s → Yields .substituteBoundary s (Settles s fun u =>
        AtBoundary s u (s.tick.last + BitVec.ofNat 64 after) (s.tick.num + 1) true ∧ u.tick.lost = true ∧
          u.tick.lostCnt = satAdd s.tick.lostCnt 1))

/-- An edge on TICK_IN before 0.9 × period, or while an accepted one still waits for its boundary, makes no boundary and counts as
EARLY (rule R234); the list of the coming boundary closes 2 µs before it, and at any time under PIN (rule R246); TICK_OUT falls 1 µs
before it, or 0.9 × period after the last one was made under PIN, while the pins are released and a boundary will follow (rules
R323, R336, R427). With no command waiting 1 ns passes: the accession clock advances by 1 (rule R133), or stands while an L0 episode
holds it at 0 (rules R134, R445), and ACLK runs. That an idle step is 1 ns is the model's choice (notes/assumptions/2). -/
def Obligations.TickPinsAndTime : Prop :=
  (∀ (s : State), Tidy s → tickRuns s = true →
      (s.tick.source = 1 → s.tick.edge ≠ none ∨ 10 * sinceTick s < 9 * periodNs s → Yields .tickInEdge s (Settles s fun u =>
        u = { s with tick := { s.tick with early := true, earlyCnt := satAdd s.tick.earlyCnt 1 } })) ∧
      (s.tick.closed = false → s.tick.source = 1 ∨ tickDue s 2000 = true → Yields .admissionListClose s fun t =>
        t = { s with
          tick := { s.tick with closed := true }
          pwr := { s.pwr with state :=
            if s.pwr.state = .idle ∧ (∃ x ∈ s.desk.queues, queueAdmits s x.1 = true ∧ ∃ r ∈ x.2.rounds, r.state = .waiting ∧ r.late = false)
            then .active else s.pwr.state } }) ∧
      (s.tick.tickOut = true → s.rst.pinsReleased = true →
        (s.tick.source = 2 → s.fab.joined = true ∨ s.fab.manager = true ∨ s.fab.alone = true) →
        (if s.tick.source = 1 then 9 * periodNs s ≤ 10 * (s.clk.now - s.tick.made).toNat else tickDue s 1000 = true) →
        Yields .tickOutFall s fun t =>
          t = { s with tick := { s.tick with tickOut := false }, out := s.out ++ [.tickOut false] })) ∧
  (∀ (s : State), s.pending = [] → s.clk.slew = 0 → s.desk.lateRecs = [] →
      step s = .next { s with clk := { s.clk with
        now := if (∃ e, s.rst.episode = some e ∧ e.level = 0) then s.clk.now else s.clk.now + 1
        acyc := s.clk.acyc + s.pwr.aclkMhz.toNat
        slewNs := min 10000 (s.clk.slewNs + 1) } })

/-! ### Rings and host memory (chapter 11) -/

/-- A poll reads the producer word; the word starts the reading of entries, or halts the queue with BAD_PRODUCER; a good entry is
held for admission and counted in CONSUMED (rules R273 to R277). A read of host memory is on the link at once when it has room there
(Table 17.1). -/
def Obligations.RingPolls : Prop :=
  (∀ (q : Fin 1024) (s : State), Tidy s → (getQ s q).state = 1 → (getQ s q).polling = false → s.desk.ready = true →
    s.pwr.state ≠ .off → hostBlocked s (q / 32) = false → Yields (.producerPoll q) s (Settles s fun u =>
      u = { s with
        out := s.out ++ (if onLink s 8 then [.hostRead (q / 32) (getQ s q).producerAddr 8 s.desk.rdTag] else [])
        desk := { s.desk with
          queues := tabSet Queue.reset s.desk.queues q { getQ s q with polling := true }
          rdTag := s.desk.rdTag + 1
          reads := s.desk.reads ++
            [{ tag := s.desk.rdTag, f := q / 32, addr := (getQ s q).producerAddr, len := 8, why := .producer q,
               sent := onLink s 8 }] } })) ∧
  (∀ (tag q : Nat) (bs : List Byte) (s : State) (r : HostRd), Tidy s →
    s.desk.reads.find? (fun r => r.tag == tag && r.sent) = some r →
    r.why = .producer q → bs.length = r.len → (getQ s q).state = 1 →
    let p : W32 := BitVec.ofNat 32 (natOf (bs.take 4))
    let x : Queue := { getQ s q with producer := p, pollFrom := (getQ s q).consumed }
    let rest := s.desk.reads.filter fun r => r.tag != tag
    (2 ^ x.ringLog2.toNat < (p - x.consumed).toNat → Yields (.hostCompletion tag (.data bs)) s (Settles s (Pumped fun v =>
      getQ v q = { x with polling := false, state := 2, cause := 4 } ∧ (∀ k, k ≠ q → getQ v k = getQ s k) ∧ Quiet s v ∧
        v.desk.reads = rest ∧ (getFn v (q / 32)).halted = true))) ∧
    ((p - x.consumed).toNat ≤ 2 ^ x.ringLog2.toNat → x.consumed ≠ p → x.rounds.length < 64 → hostBlocked s (q / 32) = false →
      Yields (.hostCompletion tag (.data bs)) s (Settles s (Pumped fun v =>
        let at_ := x.ringBase + BitVec.ofNat 64 (64 * (x.consumed.toNat % 2 ^ x.ringLog2.toNat))
        let now := onLink { s with desk := { s.desk with reads := rest } } 64
        v = { s with
          out := s.out ++ (if now then [.hostRead (q / 32) at_ 64 s.desk.rdTag] else [])
          desk := { s.desk with
            queues := tabSet Queue.reset s.desk.queues q x
            rdTag := s.desk.rdTag + 1
            reads := rest ++
              [{ tag := s.desk.rdTag, f := q / 32, addr := at_, len := 64, why := .entry q x.consumed, sent := now }] } })))) ∧
  (∀ (tag q : Nat) (n : W32) (bs : List Byte) (s : State) (r : HostRd), Tidy s →
    s.desk.reads.find? (fun r => r.tag == tag && r.sent) = some r → r.why = .entry q n → bs.length = r.len →
    (getQ s q).state = 1 →
    (getQ s q).consumed = n → (entryStatus s q (wordsOf (padTo 0 64 bs))).1 = 0 → Yields (.hostCompletion tag (.data bs)) s
      (Settles s (Pumped fun v =>
        (getQ v q).consumed = n + 1 ∧ (getQ v q).rounds = (getQ s q).rounds ++ [entryRound s q (wordsOf (padTo 0 64 bs))] ∧
          (∀ k, k ≠ q → getQ v k = getQ s k) ∧ v.tier = s.tier ∧ v.run = s.run ∧ v.rst = s.rst ∧ v.tick = s.tick ∧ v.wr = [])))

/-- A completion for no outstanding read is reported and changes nothing else (rule R405); the flush read of a completion record
that returns data delivers it (rule R285); one that fails makes the queue COMPLETION_BLOCKED with the record kept, and raises
CBLOCKED and management event 0x0D (rule R288). After the end of a read those that waited for room go out (Table 17.1).
A destroyed queue ends when no station holds a tile of it, or when its QTIMEOUT (100 ms when that is 0) has passed: its tiles
and its delayed records are gone, its QUEUE_DESTROY answers OK with COMPLETED, ABANDONED and CONSUMED, and the queue is ABSENT (rules
R290, R291). -/
def Obligations.HostReadsAndDestroys : Prop :=
  (∀ (tag : Nat) (s : State), Tidy s →
      (∀ res, s.desk.reads.find? (fun r => r.tag == tag && r.sent) = none →
        ∀ c ∈ [Instr.hostCompletion tag res, Instr.flushReadDone tag res], Yields c s (Settles s fun u =>
          u = { s with pcie := { s.pcie with unexpected := s.pcie.unexpected + 1 },
                       out := s.out ++ [.aer .unexpected 0] })) ∧
      (∀ (r : HostRd) (f k : Nat) (bs : List Byte), s.desk.reads.find? (fun r => r.tag == tag && r.sent) = some r →
        r.why = .createFlush f k →
        bs.length = r.len → Yields (.hostCompletion tag (.data bs)) s (Settles s (Pumped fun v =>
        let q := createQid f (getMb s f k)
        getQ v q = newQueue (getQ s q) (getMb s f k) ∧ (∀ p, p ≠ q → getQ v p = getQ s p) ∧ Answered s v f k 0 [q] ∧ Quiet s v ∧
          v.tier = s.tier ∧ v.out = s.out))) ∧
      (∀ (r : HostRd) (f k moved : Nat) (bs : List Byte), Undamaged s →
        s.desk.reads.find? (fun r => r.tag == tag && r.sent) = some r →
        r.why = .folioWrite f k moved → bs ≠ [] → bs.length = r.len → moveOf s (reqWord s f k 0) = none →
        Yields (.hostCompletion tag (.data bs)) s (Settles s (Pumped fun v =>
        let at_ := folioBase (getFolio s (reqWord s f k 0)) + (reqWord s f k 1 + moved)
        (∀ a, readByte v a = if at_ ≤ a ∧ a < at_ + bs.length then bs.getD (a - at_) 0 else readByte s a) ∧ v.tier = s.tier ∧
          (reqWord s f k 4 ≤ moved + bs.length → Answered s v f k 0 [moved + bs.length])))) ∧
      (∀ (r : HostRd) (q : Nat) (rec_ : CRec), s.desk.reads.find? (fun r => r.tag == tag && r.sent) = some r →
        r.why = .flush q rec_ →
        (∀ bs, bs.length = r.len → Yields (.flushReadDone tag (.data bs)) s (Settles s (Pumped fun v =>
          v = { s with desk := { s.desk with reads := s.desk.reads.filter fun r => r.tag != tag } }))) ∧
        ((getQ s q).state = 1 → Yields (.flushReadDone tag .unsupported) s (Settles s (Pumped fun v =>
          (getQ v q).state = 3 ∧ rec_ ∈ (getQ v q).spill ∧ (getQ v q).spill.length = (getQ s q).spill.length + 1 ∧
            (∀ k, k ≠ q → getQ v k = getQ s k) ∧ (getFn v (q / 32)).cblocked = true ∧ (getFn v 0).mgmt = true ∧
            v.desk.reads = s.desk.reads.filter (fun r => r.tag != tag) ∧ Quiet s v ∧ v.tier = s.tier))))) ∧
  (∀ (q : Fin 1024) (s : State), Tidy s → (getQ s q).state = 4 →
      let x := getQ s q
      ∀ c, (c = Instr.queueDestroyComplete q ∧ queueHeld s q = false) ∨
          (c = Instr.destroyTimeout q ∧
            (if x.qtimeoutUs = 0 then 100000000 else 1000 * x.qtimeoutUs) ≤ (s.clk.now - x.destroyAt).toNat) →
        Yields c s (Settles s fun u =>
          getQ u q = { Queue.reset with resv := x.resv, producer := x.producer, consumed := x.consumed, completed := x.completed,
                                        events := x.events, lostEvents := x.lostEvents } ∧
            (∀ p, p ≠ q.val → getQ u p = getQ s p) ∧ u.run.tiles = s.run.tiles.filter (fun t => t.id.q != q.val) ∧
            u.desk.lateRecs = s.desk.lateRecs.filter (fun e => e.q != q.val) ∧ Quiet s u ∧ u.tier = s.tier ∧ u.out = s.out ∧
            ∀ f k, s.desk.cmds = [{ f := f, k := k, why := .destroy q }] →
              Answered s u f k 0 [x.destroyP0.toNat, x.destroyP1.toNat, x.consumed.toNat] ∧ u.desk.cmds = []))

/-! ### On-chip memory through the host's windows (chapter 8) -/

/-- SRAM_WINDOW_READ returns the bytes of the words that the host reaches and zeros for the others; an uncorrectable word reads as 0
and raises management event 0x05 (rules R190, R200). No read corrects anything here. An access to a memory whose fill is still to
come, and one behind an access that waits, waits for it (rules R209, R441). A write through the plain, SET or CLEAR view stores, ORs
or AND-NOTs its bytes when the host reaches its words and port A writes none of them, and nothing else changes; a word that port A
writes in the same cycle keeps port A's value, and the discarded write is counted (rules R190, R195 to R197). -/
def Obligations.WindowAccesses : Prop :=
  (∀ (off : BitVec 26) (len : Nat) (s : State) (v o : Nat), Tidy s → barOpen s 0 = true →
      windowAt s off.toNat = some (v, o) →
      (barHeld s = true ∨ viewWaits s o len = true → Yields (.sramWindowRead off len []) s fun t =>
        t = { s with inv := { s.inv with waits := s.inv.waits ++ [.read v o len []] } }) ∧
      (barHeld s = false → viewWaits s o len = false → s.ecc.ce = [] → Yields (.sramWindowRead off len []) s fun t =>
        t.mem = s.mem ∧ t.ecc = s.ecc ∧ t.desk.queues = s.desk.queues ∧ t.run = s.run ∧ t.tier = s.tier ∧ t.fab = s.fab ∧
          (s.ecc.ue = [] → t = { s with out := s.out ++ [.readData 0 (sramBytes s (windowLive s v) o len)] }) ∧
          (∀ w, wordsTouched o len = [w] → windowLive s v w = true → s.ecc.ue = [sramAddr w] →
            (∃ before, t.out = before ++ [.readData 0 (List.replicate len 0)]) ∧ (getFn t 0).mgmt = true ∧
              t.rel.errUe = satAdd s.rel.errUe 1))) ∧
  (∀ (off : BitVec 26) (data : List Byte) (portA : List (Nat × W64)) (s : State) (v o : Nat), Tidy s → Undamaged s →
      barOpen s 0 = true → windowAt s off.toNat = some (v, o) →
      ∀ c ∈ [(0, Instr.sramWindowWrite off data portA), (1, Instr.setViewWrite off data portA), (2, Instr.clearViewWrite off data portA)],
        v = c.1 →
        (barHeld s = true ∨ viewWaits s o data.length = true → Yields c.2 s fun t =>
          t = { s with inv := { s.inv with waits := s.inv.waits ++ [.write v o data portA] } }) ∧
        (barHeld s = false → viewWaits s o data.length = false →
          (∀ w ∈ wordsTouched o data.length, windowLive s v w = true ∧ portAValue portA w = none) → Yields c.2 s fun t =>
          t = { s with mem := t.mem } ∧ ∀ a, readByte t a =
            if sramAddr o ≤ a ∧ a < sramAddr o + data.length then viewByte v (readByte s a) (data.getD (a - sramAddr o) 0)
            else readByte s a) ∧
        (∀ w x, barHeld s = false → viewWaits s o data.length = false → wordsTouched o data.length = [w] →
          windowLive s v w = true → portAValue portA w = some x → Yields c.2 s fun t =>
          t = { s with mem := memPut 0 s.mem (sramAddr w) (bytesOf 8 x.toNat), banks := (countSuper s w).banks }))

/-! ### Folio moves, the Inventory, repairs, scrub and log (chapters 8, 9, 15) -/

/-- MOVE_CHUNK_COPIED copies the next 4 KiB of a folio to its destination; an uncorrectable word at the source abandons the move and
leaves the folio STUCK where it was; MOVE_SWITCH after the last chunk puts the folio at its destination (rules R227, R228). That a
chunk is copied in one step, and the status UNCORRECTABLE (0x19) of a pin that waits for the abandoned move, are the model's (log
entries 35, 46). -/
def Obligations.FolioMoves : Prop :=
  ∀ (fid : BitVec 20) (s : State) (m : Move), Tidy s → moveOf s fid.toNat = some m →
    let x := getFolio s fid.toNat
    let src := folioBase x + 4096 * m.next
    let dst := 65536 * x.dest.toNat + 4096 * m.next
    (Undamaged s → memUp s = true → 4096 * m.next < folioSize x → Yields (.moveChunkCopied fid []) s fun t =>
      (∀ a, readByte t a = if dst ≤ a ∧ a < dst + 4096 then readByte s (src + (a - dst)) else readByte s a) ∧
        moveOf t fid.toNat = some { m with next := m.next + 1 } ∧ t.tier.folios = s.tier.folios ∧
        t = { s with mem := t.mem, tier := { s.tier with cur := { s.tier.cur with moves := t.tier.cur.moves } } }) ∧
    (s.ecc.ce = [] → memUp s = true → ueIn s src 4096 ≠ [] → 4096 * m.next < folioSize x → Yields (.moveChunkCopied fid []) s fun t =>
      getFolio t fid.toNat = { x with state := 2, dest := 0 } ∧ moveOf t fid.toNat = none ∧ t.mem = s.mem ∧
        (∀ f, f ≠ fid.toNat → getFolio t f = getFolio s f) ∧ t.run = s.run ∧ t.desk.queues = s.desk.queues ∧
        ∀ f k, pinWaits s fid.toNat = [{ f := f, k := k, why := .folioPin fid.toNat }] →
          (getMb t f k).state = 2 ∧ respWord t f k 0 = 65536 * mbOp (getMb s f k) + 0x19) ∧
    (folioSize x ≤ 4096 * m.next → Yields (.moveSwitch fid) s fun t =>
      let y : Folio := { x with base := x.dest, dest := 0, tier := m.toTier, state := 0 }
      getFolio t fid.toNat = (if m.pin = true ∨ pinWaits s fid.toNat ≠ [] then { y with pinned := true, pinTier := m.toTier } else y) ∧
        moveOf t fid.toNat = none ∧ (∀ f, f ≠ fid.toNat → getFolio t f = getFolio s f) ∧
        (∀ w r, fid.toNat ∉ (getRun t w r).cache) ∧ t.mem = s.mem ∧ t.run.tiles = s.run.tiles ∧
        t.desk.queues = s.desk.queues ∧
        ∀ f k, pinWaits s fid.toNat = [{ f := f, k := k, why := .folioPin fid.toNat }] →
          (getMb t f k).state = 2 ∧ respWord t f k 0 = 65536 * mbOp (getMb s f k))

/-- INVENTORY_REGION_TEST leaves the bytes of the region as they were and goes on to the next region; a line that fails both tests
takes the lowest free spare row of its sub-bank, and the record of it waits for flash (rules R201 to R204, R207). -/
def Obligations.InventoryRegions : Prop :=
  ∀ (e : Fin 33) (s : State), Tidy s → Undamaged s → engineRuns s e = true →
    let i := tabGet 0 s.inv.cursor e
    let k := (regionAt e i).1
    let off := (regionAt e i).2
    let next := fun (u : State) => tabGet 0 u.inv.cursor e = if i + 1 < regionCount e then i + 1 else 0
    (∀ fails, Yields (.inventoryRegionTest e false fails []) s (Settles s fun u =>
      (∀ a, readByte u a = readByte s a) ∧ next u ∧ tabGet [] u.inv.hold e = readMem s (bankAddr e k off) 256 ∧
        u.inv.repairs = s.inv.repairs ∧ u.inv.fails = s.inv.fails ∧ u = { s with wr := u.wr, inv := u.inv })) ∧
    (∀ (n : Fin 4) (spare : Nat),
      let key := repairRow e k (lineRow k (off + 64 * n)).1 (lineRow k (off + 64 * n)).2
      (List.range 8).find? (fun j => !(s.inv.repairs.any fun x => sameSpare x.toNat (key + fld 21 j))) = some spare →
      Yields (.inventoryRegionTest e true [n] []) s (Settles s fun u =>
        (∀ a, readByte u a = readByte s a) ∧ next u ∧ u.inv.fails = satAdd s.inv.fails 1 ∧
          u.inv.repairs = s.inv.repairs ++ [repairRec key spare] ∧ u.inv.unlogged = s.inv.unlogged ++ [repairRec key spare] ∧
          u.desk = s.desk ∧ u.run = s.run ∧ u.arrs = s.arrs ∧ u.wings = s.wings ∧ u.tier = s.tier ∧ u.flash = s.flash))

/-- ARRAY_INVENTORY_TEST of an array that passes changes nothing; one that fails while its Wing's spare is free hands its logical
array and its slots to the spare (rules R103, R110). -/
def Obligations.ArraysTested : Prop :=
  ∀ (w : Fin 32) (a : Fin 33) (s : State), Tidy s → engineRuns s w = true → (getArr s w a).tile = none →
    (getArr s w a).aside = none → (getArr s w a).fault = none →
    (Yields (.arrayInventoryTest w a true) s (Settles s fun u => u = s)) ∧
    (∀ i, a ≠ 32 → (getWing s w).retired = false → spareTaken s w a = false → servedBy s w a = some i →
      (∀ x ∈ s.run.tiles, ¬ (x.phase = .ahead ∧ x.w = w ∧ x.a = a)) → Yields (.arrayInventoryTest w a false) s (Settles s fun u =>
      getWing u w = { getWing s w with failed := (getWing s w).failed ||| BitVec.ofNat 32 (2 ^ a.val), spareUsed := true,
                                       spareFor := BitVec.ofNat 5 i } ∧
        (∀ v, v ≠ w.val → getWing u v = getWing s v) ∧
        (∀ k, k < 8 → getSlot u w 32 k = getSlot s w a k ∧ getSlot u w a k = Slot.reset) ∧
        (getFn u 0).mgmt = true ∧ u.mem = s.mem ∧ u.wr = [] ∧ u.tier = s.tier ∧ u.rst = s.rst ∧ u.desk.queues = s.desk.queues))

/-- PATROL_SCRUB takes the next word of its tier: of a good word it counts its step; a word with a single-bit error is corrected,
counted and written back unless another write raced the scrub (rule R369); that it takes the words in ascending order and another
word is not scrubbed is read from the spec by inference (notes/assumptions/102). REPAIR_LOG_COPY programs the oldest record that
flash lacks into the first free place, and does nothing while the flash outputs are disabled (rules R208, R422). LOG_RECORD_WRITE
puts the oldest record of a source into the log ring at LOG_HEAD, where no word is damaged in part (rules R371, R373), and nothing
while the Stacks do not serve it (rule R349). -/
def Obligations.ScrubsAndLogs : Prop :=
  (∀ (d : Bool) (raced : Bool) (s : State), Tidy s → s.rst.trained = true → memUp s = true → scrubNext s d < (tierWords s d).2 →
    let a := (tierWords s d).1 + 32 * scrubNext s d
    (∀ word, word ≠ scrubNext s d → Yields (.patrolScrub d word raced []) s fun t => t = s) ∧
    (ceIn s a 32 = [] → ueIn s a 32 = [] → Yields (.patrolScrub d (scrubNext s d) raced []) s fun t =>
      t = { s with rel := (scrubStep s d (tierWords s d).2).rel }) ∧
    (s.ecc.ue = [] → s.ecc.ce = [a] → Yields (.patrolScrub d (scrubNext s d) raced []) s fun t =>
      t.ecc.ue = [] ∧ t.ecc.ce = (if raced = true then [a] else []) ∧ t.rel.errCe = satAdd s.rel.errCe 1 ∧
        scrubNext t d = (if scrubNext s d + 1 = (tierWords s d).2 then 0 else scrubNext s d + 1) ∧
        (∀ b, readByte t b = readByte s b) ∧ t.desk = s.desk ∧ t.run = s.run ∧ t.arrs = s.arrs ∧ t.tier = s.tier)) ∧
  (∀ (s : State) (r : W64) (rest : List W64) (a : Nat), Tidy s → s.inv.unlogged = r :: rest →
    freeRecord 0xFF (2 ^ 64 - 1) s.flash 0xA000 1024 = some a →
    (flashOpen s = true → Yields .repairLogCopy s fun t =>
      t = { s with inv := { s.inv with unlogged := rest }, flash := memPut 0xFF s.flash a (bytesOf 8 r.toNat),
                   out := s.out ++ [.flash .program a] }) ∧
    (flashOpen s = false → Yields .repairLogCopy s fun t => t = s)) ∧
  (∀ (src : Nat) (s : State) (r : LogRec) (rest : List LogRec), Tidy s → tabGet [] s.rel.logQ src = r :: rest →
    let a := logBase + 32 * (s.rel.logHead.toNat % 2 ^ 21)
    (s.rst.trained = false ∨ memUp s = false → Yields (.logRecordWrite src) s fun t => t = s) ∧
    (s.rst.trained = true → memUp s = true → partBad s a 32 = [] → Yields (.logRecordWrite src) s fun t =>
      t = { s with mem := memPut 0 s.mem a (logBytes r),
                   ecc := { ue := s.ecc.ue.filter fun x => !meets a 32 x, ce := s.ecc.ce.filter fun x => !meets a 32 x },
                   rel := { s.rel with logQ := tabSet [] s.rel.logQ src rest, logHead := s.rel.logHead + 1 } }))

/-! ### Registers (chapter 19) -/

/-- R12: a virtual function's own mailbox page and queue mirror read as they are, before READY as they are after reset (rule R409);
every other offset reads as 0 and ignores writes, in the way of an unassigned offset. -/
def Obligations.VirtualFunctionsSeeTheirOwn : Prop :=
  ∀ (f : Fin 32) (off : BitVec 26) (s : State), Tidy s → f ≠ 0 → barOpen s f = true →
    (offsetFn off.toNat = some f.val → Yields (.rcFieldRead f off []) s fun t =>
      t.out = s.out ++ [.readData f (bytesOf 4 (regValue (if s.desk.ready then s else State.reset) (off.toNat / 4 * 4)))]) ∧
    (offsetFn off.toNat ≠ some f.val →
      (Yields (.rcFieldRead f off []) s fun t => t = { s with out := s.out ++ [.readData f (bytesOf 4 0)] }) ∧
      ∀ size v, Yields (.registerWrite f off size v) s (Settles s fun u => u = s))

/-- A read of any alignment is the read of its word (rule R9); a read of a counter with access code RC returns it and leaves it 0
(rule R6); a read of a _LO register latches the _HI value, and a read of _HI returns the latched value
(rule R11, for the two pairs of the block); QUE_LOST_EVENTS is cleared only by the function that owns
the queue (rule R438). Before READY a register reads as its reset value (rule R409); a read behind an access that waits waits too
(rule R441); a read of a BAR that decodes nothing ends as an Unsupported Request (rules R407, R408). -/
def Obligations.RegisterReads : Prop :=
  (∀ (f : Fin 32) (off : BitVec 26) (ecc : List EccHit) (s : State),
    exec (.rcFieldRead f off ecc) s = exec (.rcFieldRead f (BitVec.ofNat 26 (off.toNat / 4 * 4)) ecc) s) ∧
  (∀ (f : Fin 32) (off : BitVec 26) (s : State), Tidy s →
    (s.pcie.linkUp = true → fnPresent s f = true → (getPcie s f).memSpace = false → Yields (.rcFieldRead f off []) s fun t =>
      t = { s with pcie := { s.pcie with unsupported := s.pcie.unsupported + 1 },
                   out := s.out ++ [.aer .unsupported f, .unsupported f] }) ∧
    (barOpen s f = true → (f.val = 0 → windowAt s off.toNat = none) →
      (f.val = 0 → barHeld s = true → Yields (.rcFieldRead f off []) s fun t => t = holdAcc s (.regRead (off.toNat / 4 * 4) [])) ∧
      ((f.val = 0 → barHeld s = false) → s.desk.ready = false → Yields (.rcFieldRead f off []) s fun t =>
        ∃ v, v = (readReg (.bar f) off.toNat State.reset).1 ∧ t = { s with out := s.out ++ [.readData f (bytesOf 4 v)] }))) ∧
  (∀ (s : State), Tidy s → barOpen s 0 = true → s.desk.ready = true → barHeld s = false →
    (∀ off ∈ ([0x20000, 0x20004, 0x20008, 0x2000C, 0x202010, 0x202014, 0x300018, 0x30100C, 0x400008, 0x40000C, 0x400010,
        0x403008, 0x403010, 0x600010, 0x600014, 0x600018] : List (BitVec 26)), Yields (.rcFieldRead 0 off []) s fun t =>
      t.out = s.out ++ [.readData 0 (bytesOf 4 (regValue s off.toNat))] ∧ regValue t off.toNat = 0 ∧ t.mem = s.mem ∧
        t.run = s.run ∧ t.units = s.units ∧ t.arrs = s.arrs ∧ t.tier = s.tier ∧ t.desk = s.desk ∧ t.rst = s.rst ∧ t.clk = s.clk) ∧
    (∀ (w : Fin 32) (a : Fin 33), wingReach s w = true →
      ∀ o ∈ [0x30000 + 0x20 * a.val, 0x30004 + 0x20 * a.val, 0x30008 + 0x20 * a.val, 0x3000C + 0x20 * a.val, 0x30010 + 0x20 * a.val,
        0x32004 + 0x20 * a.val, 0x32008 + 0x20 * a.val, 0x34004 + 0x10 * a.val, 0x34008 + 0x10 * a.val],
      Yields (.rcFieldRead 0 (BitVec.ofNat 26 (0x800000 + 0x40000 * w.val + o)) []) s fun t =>
        t.out = s.out ++ [.readData 0 (bytesOf 4 (wingWord s w o))] ∧ wingWord t w o = 0 ∧
          t = { s with out := t.out, arrs := { s.arrs with arr := t.arrs.arr } }) ∧
    (∀ c ∈ [Instr.dskAclockLoRead, .rcFieldRead 0 0x20210 []], Yields c s fun t =>
      t = { s with out := s.out ++ [.readData 0 (bytesOf 4 (s.clk.now.toNat % 2 ^ 32))],
                   clk := { s.clk with hi := BitVec.ofNat 32 (s.clk.now.toNat / 2 ^ 32) } }) ∧
    (∀ c ∈ [Instr.rstTickNumLoRead, .rcFieldRead 0 0x202008 []], Yields c s fun t =>
      t = { s with out := s.out ++ [.readData 0 (bytesOf 4 (s.tick.num.toNat % 2 ^ 32))],
                   tick := { s.tick with numHi := BitVec.ofNat 16 (s.tick.num.toNat / 2 ^ 32) } }) ∧
    (∀ x ∈ [((0x20214 : BitVec 26), s.clk.hi.toNat), (0x20200C, s.tick.numHi.toNat)], Yields (.rcFieldRead 0 x.1 []) s fun t =>
      t = { s with out := s.out ++ [.readData 0 (bytesOf 4 x.2)] })) ∧
  (∀ (f : Fin 32) (q : Fin 1024) (s : State), Tidy s → barOpen s f = true → s.desk.ready = true →
    (f.val = 0 → barHeld s = false) → f.val = 0 ∨ f.val = q.val / 32 →
    Yields (.queLostEventsRead f q) s fun t =>
      t = { s with
        out := s.out ++ [.readData f (bytesOf 4 (getQ s q).lostEvents.toNat)]
        desk := { s.desk with queues :=
          if f.val = q.val / 32 then tabSet Queue.reset s.desk.queues q { getQ s q with lostEvents := 0 } else s.desk.queues } })

/-- Writes: the request area of a mailbox that is not BUSY, GO, a backup register, W1C of DSK_FN_EVENT, DSK_FN_EVENT_EN with the
vector that fires when an enabled bit is 1 (rule R287), REL_PERT_CTL with its key (rules R381, R382); a write of another size or
alignment is discarded (rule R9). A write behind an access that waits waits too (rule R441), and one of a BAR that decodes nothing is
an Unsupported Request (rules R407, R408). That REL_PERT_CTL is not writable in Drowse and in the entries and wakes of chapter 14 is
read from the spec by inference (notes/assumptions/104). -/
def Obligations.RegisterWrites : Prop :=
  (∀ (f : Fin 32) (off : BitVec 26) (size : Nat) (v : W32) (s : State), Tidy s →
    (s.pcie.linkUp = true → fnPresent s f = true → (getPcie s f).memSpace = false →
      Yields (.registerWrite f off size v) s (Settles s fun u =>
        u = { s with pcie := { s.pcie with unsupported := s.pcie.unsupported + 1 }, out := s.out ++ [.aer .unsupported f] })) ∧
    (barOpen s 0 = true → barHeld s = true →
      (f.val = 0 → Yields (.registerWrite f off size v) s (Settles s fun u => u = holdAcc s (.regWrite off.toNat size v))) ∧
      (∀ c ∈ [(1, Instr.swResetL1 v), (2, .swResetL2 v), (3, .swResetL3 v)], bits 23 22 v.toNat = c.1 →
        Yields c.2 s (Settles s fun u => u = holdAcc s (.regWrite 0x200004 4 v))) ∧
      (Yields .hostGo s fun t => t = holdAcc s (.regWrite 0x200014 4 0x80000000)))) ∧
  ∀ (f : Fin 32) (s : State), Tidy s → barOpen s f = true → (f.val = 0 → barHeld s = false) →
    (∀ off size v, size ≠ 4 ∨ off.toNat % 4 ≠ 0 → Yields (.registerWrite f off size v) s (Settles s fun u => u = s)) ∧
    (∀ (k : Fin 8) (i : Fin 64) (v : W32),
      Yields (.registerWrite f (BitVec.ofNat 26 (0x1000 * f + 0x200 * k + 4 * i)) 4 v) s (Settles s fun u =>
        u = if (getMb s f k).state = 1 then s
            else setMb s f k { getMb s f k with req := tabSet 0 (getMb s f k).req i v })) ∧
    (∀ (k : Fin 8) (v : W32), bit 31 v.toNat = true → (getMb s f k).state ≠ 1 → s.desk.ready = true →
      Yields (.registerWrite f (BitVec.ofNat 26 (0x1000 * f + 0x200 * k + 0x1E0)) 4 v) s (Settles s fun u =>
        getMb u f k = { getMb s f k with state := 1, taken := false, order := s.desk.goOrder } ∧
          u.desk.goOrder = s.desk.goOrder + 1 ∧ (∀ f' k', 8 * f' + k' ≠ 8 * f.val + k.val → getMb u f' k' = getMb s f' k') ∧
          u = { s with desk := { s.desk with mbox := u.desk.mbox, goOrder := u.desk.goOrder } })) ∧
    (∀ (k : Fin 8) (v : W32),
      Yields (.registerWrite f (BitVec.ofNat 26 (0x1000 * f + 0x200 * k + 0x1EC)) 4 v) s (Settles s fun u =>
        u = setFn s f { getFn s f with cblocked := (getFn s f).cblocked && !bit 31 v.toNat,
                                       halted := (getFn s f).halted && !bit 30 v.toNat,
                                       mgmt := (getFn s f).mgmt && !bit 29 v.toNat })) ∧
    (∀ (v : W32), Yields (.fnEventEnWrite f v) s fun t =>
      let x : FnReg := { getFn s f with cblockedEn := bit 31 v.toNat, haltedEn := bit 30 v.toNat,
                                        mgmtEn := bit 29 v.toNat && decide (f.val = 0) }
      getFn t f = x ∧ (∀ g, g ≠ f.val → getFn t g = getFn s g) ∧
        t = { s with desk := { s.desk with fnReg := t.desk.fnReg }, out := t.out, pcie := t.pcie } ∧
        (let fires := (x.cblockedEn && x.cblocked) || (x.haltedEn && x.halted) || (x.mgmtEn && x.mgmt)
         let sent := fires && !(hostBlocked s f || (getPcie s f).masked)
         t.out = (if sent = true then s.out ++ [.msix f (getPcie s f).msixAddr (getPcie s f).msixData] else s.out) ∧
           (getPcie t f).pending = ((getPcie s f).pending || (fires && !sent)))) ∧
    (f = 0 → ∀ (i : Fin 16) (v : W32), Yields (.registerWrite f (BitVec.ofNat 26 (0x200100 + 4 * i)) 4 v) s (Settles s fun u =>
      u = { s with rst := { s.rst with backup := tabSet 0 s.rst.backup i v } })) ∧
    (f = 0 → ∀ (v : W32), (bits 31 24 v.toNat = 0xA5 → pertPermitted s = true → Yields (.relPertCtlWrite v) s fun t =>
      let p := s.rel.pert
      let fresh := decide (bit 2 v.toNat = true ∧ p.tick = false)
      let g := if fresh = true then drawNext (if p.seed = 0 then 0x6D2B79F5 else p.seed) else p.gen
      t.rel.pert = { p with
        cred := bit 4 v.toNat, compl := bit 3 v.toNat, tick := bit 2 v.toNat, station := bit 1 v.toNat, gen := g } ∧
        t.tick = { s.tick with
          jitter :=
            if fresh = true then 1000 * (g.toNat % (min p.jitter.toNat (min (s.tick.period.toNat / 4) 1000) + 1))
            else if bit 2 v.toNat = p.tick then s.tick.jitter else 0 } ∧
        (pertActive t = true → ∀ q, ∀ r ∈ (getQ t q).rounds, r.cls = 0 → r.state = .running ∨ r.state = .suspended →
          r.lostGuarantee = true) ∧ t.mem = s.mem ∧ t.run = s.run ∧ t.arrs = s.arrs ∧ t.tier = s.tier) ∧
      (bits 31 24 v.toNat ≠ 0xA5 ∨ pertPermitted s = false → Yields (.relPertCtlWrite v) s fun t => t = s))

/-! ### Reset (chapter 13) -/

/-- Every source of rule R329 begins an episode of its level on a block that has none: a keyed RST_REQ of L1 or L2, the supplies, a
rail below its threshold (rule R362), nRST, a core clock, the watchdog, the lockup monitor and a control core's double fault; the
logic that the level reaches is cleared at once (Table 13.1). That a lost tier reads 0 is the model's choice (notes/assumptions/3).
-/
def Obligations.EpisodesBegin : Prop :=
  ∀ (s : State) (c : Instr) (lv : BitVec 2) (src : Sources) (held : Bool), Tidy s → s.rst.episode = none → s.rst.bringup = none →
    s.rst.l3Wings = [] →
    ((∃ v : W32, barOpen s 0 = true ∧ barHeld s = false ∧ bits 31 24 v.toNat = 0x5A ∧ bits 6 0 v.toNat ≤ 0x2C ∧
        src = { Sources.none with sw := true } ∧
        held = false ∧ ((c = .swResetL1 v ∧ lv = 1 ∧ bits 23 22 v.toNat = 1) ∨ (c = .swResetL2 v ∧ lv = 2 ∧ bits 23 22 v.toNat = 2))) ∨
      (c = .porAssert ∧ lv = 0 ∧ src = { Sources.none with por := true } ∧ held = true) ∨
      (∃ r mv, c = .borAssert r mv ∧ railWatched s r = true ∧ mv < (railLevels s.pwr r).1 ∧ lv = 0 ∧
        src = { Sources.none with bor := true } ∧ held = true) ∨
      (c = .nrstLow ∧ lv = 1 ∧ src = { Sources.none with pin := true } ∧ held = true) ∨
      (∃ d, c = .clockFailure d ∧ d ≠ .pcie ∧ d ≠ .serdes ∧ isOff s = false ∧ coreWatched s d = true ∧ lv = 1 ∧
        src = { Sources.none with clk := true } ∧ held = true) ∨
      (c = .watchdogExpire ∧ dogArmed s = true ∧ lv = 2 ∧ src = { Sources.none with wdog := true } ∧ held = false) ∨
      (∃ b, c = .lockup b ∧ (dogArmed s = true ∨ (b = true ∧ s.mgt.serving = true ∧ isOff s = false)) ∧ lv = 2 ∧
        src = { Sources.none with lockup := true } ∧ held = false)) →
    Yields c s (Settles s fun u => Begun s u lv src held)

/-- A keyed RST_REQ of L3 resets one Wing or one station of it: the rounds with a tile in flight there end with RESET, its tiles are
gone, its Accumulator slots are zero; no byte of memory changes until the fill that CLOCK_QUALIFIED brings (rules R209, R327, R328).
That the Wing of a station in reset is shown in L3 too is read from the spec by inference (notes/assumptions/53). Rounds that only an
open group or a tile fetched ahead puts on the target end too; of them this says nothing. -/
def Obligations.LocalResets : Prop :=
  ∀ (v : W32) (s : State), Tidy s → s.rst.episode = none → s.rst.bringup = none → barOpen s 0 = true → barHeld s = false →
    bits 31 24 v.toNat = 0x5A → bits 23 22 v.toNat = 3 → bits 6 0 v.toNat ≤ 0x2C → Yields (.swResetL3 v) s (Settles s fun u =>
      let w := bits 11 7 v.toNat
      let code := bits 6 0 v.toNat
      (∃ e, u.rst.episode = some e ∧ e.level = 3 ∧ e.joined = { Sources.none with sw := true } ∧ e.stretching = true ∧
        e.driving = false ∧ e.targets.head? = some (BitVec.ofNat 5 w, BitVec.ofNat 7 code)) ∧
      (getWing u w).inL3 = true ∧ (∀ x ∈ u.run.tiles, onTarget u w code x = false) ∧
      (∀ a k, a < 33 → k < 8 → code = 0 ∨ code = a + 1 → getSlot u w a k = Slot.reset) ∧
      (∀ b, readByte u b = readByte s b) ∧
      (∀ q r, (getQ s q).rounds = [r] → r.result = none →
        (∃ x ∈ s.run.tiles, x.id.q = q ∧ x.id.rnd = r.num ∧ onTarget s w code x = true) →
        (getQ u q).last.status = 0x12 ∧ (getQ u q).last.tag = r.tag ∧ (getQ u q).completed = (getQ s q).completed + 1 ∧
          (getQ u q).rounds = []) ∧ u.tier = s.tier ∧ u.flash = s.flash ∧ u.sec = s.sec)

/-- A source that releases leaves the episode's asserted sources, BOR when every rail that is watched is at its release level (rule
R362); after the last the stretch runs, driven on nRST below L3 when a source other than PIN has joined; after a sample that found
nRST low the device drives it again only from the moment that it goes high (rules R331, R334, R335).
CLOCK_FAILURE of a link domain, also in an L3 episode, holds that domain and raises event 0x09 without an episode (Table 13.4). -/
def Obligations.SourcesRelease : Prop :=
  (∀ (s : State) (e : Episode) (c : Instr) (a : Sources), Tidy s → s.rst.episode = some e → a ≠ e.asserted →
    ((c = .porRelease ∧ a = { e.asserted with por := false }) ∨ (∃ mvs, c = .borRelease mvs ∧ a = { e.asserted with bor := false } ∧
        ∀ x ∈ rails.zipIdx, railWatched s x.1 = true → (railLevels s.pwr x.1).2 ≤ mvs.getD x.2 0) ∨
      (c = .nrstHigh ∧ a = { e.asserted with pin := false }) ∨ (c = .systemReferenceReturn ∧ a = { e.asserted with clk := false })) →
    Yields c s fun t =>
      t = { s with rst := { s.rst with
        pinLow := if c = .nrstHigh then false else s.rst.pinLow
        episode := some { e with
          asserted := a, stretching := decide (a = Sources.none), waitHigh := e.waitHigh && a.pin
          driving := e.driving || decide ((a = Sources.none ∨ (e.waitHigh = true ∧ a.pin = false)) ∧ e.level ≠ 3 ∧
            otherThanPin e.joined = true) } } }) ∧
  (∀ (s : State), Tidy s → isOff s = false → s.rst.pinsReleased = true → linksFree s = true →
    (s.rst.pcieHeld = false → Yields (.clockFailure .pcie) s (Settles s fun u =>
      u.rst = { s.rst with qPcie := false, pcieHeld := true } ∧ u.pcie.linkUp = false ∧ (getFn u 0).mgmt = true ∧ u.fab = s.fab)) ∧
    (s.rst.serdesHeld = false → Yields (.clockFailure .serdes) s (Settles s fun u =>
      u.rst = { s.rst with qSerdes := false, serdesHeld := true } ∧ (∀ p, p < 9 → (getPort u p).state = 0) ∧
        (getFn u 0).mgmt = true ∧ u.desk.queues = s.desk.queues ∧ u.tier = s.tier)))

/-- STRETCH_END latches the strap of an L0 episode. It ends an episode in which the device does not drive nRST: an L3 episode, or
one whose sources were PIN alone, after which bring-up begins; in another the device stops driving nRST (rules R334, R335, R339,
R340). NRST_SAMPLE high ends the episode: RST_CAUSE is written, the episode counted, bring-up begins at its level; low: PIN joins,
and the device waits for nRST (rules R331, R333 to R335). That RST_EPISODES reads 0 after an L0 episode and that event 0x01 comes at
the end of the episode is read from the spec by inference (notes/assumptions/47). -/
def Obligations.EpisodesEnd : Prop :=
  ∀ (s : State) (e : Episode), Tidy s → s.rst.episode = some e →
    (∀ ratio, e.stretching = true → s.pwr.hot = false → e.driving = false → e.level = 3 → Yields (.stretchEnd ratio) s (Settles s fun u =>
      u.rst.episode = none ∧ u.rst.cause = causeOf e ∧ u.rst.episodes = satAdd s.rst.episodes 1 ∧ u.rst.bringup = s.rst.bringup ∧
        u.rst.l3Wings = s.rst.l3Wings ∧ (getFn u 0).mgmt = true ∧ u.mem = s.mem ∧ u.wr = [] ∧ u.tier = s.tier ∧ u.run = s.run)) ∧
    (∀ (c : Instr) (strap : Option Nat),
      ((∃ ratio, c = Instr.stretchEnd ratio ∧ e.stretching = true ∧ s.pwr.hot = false ∧
          strap = if e.level = 0 then some (min ratio 255) else none) ∨
        (c = .nrstSample true ∧ e.stretching = false ∧ e.asserted = Sources.none ∧ strap = none)) → e.driving = false → e.level ≠ 3 →
      Yields c s (Settles s fun u =>
        u.rst.episode = none ∧ u.rst.cause = causeOf e ∧ u.rst.bringup = some e.level ∧ u.rst.step = 0 ∧
          u.rst.episodes = (if e.level = 0 then 0 else satAdd s.rst.episodes 1) ∧ u.sec.nonceNo = s.sec.nonceNo + 1 ∧
          u.rst.ratio = ((strap.map (BitVec.ofNat 8)).getD s.rst.ratio) ∧
          u.rst.code = ((strap.map fun x => BitVec.ofNat 4 (x / 16)).getD s.rst.code) ∧ (getFn u 0).mgmt = true ∧
          u.mem = s.mem ∧ u.wr = [] ∧ u.tier = s.tier ∧ u.flash = s.flash ∧ u.vault = s.vault)) ∧
    (∀ ratio, e.stretching = true → s.pwr.hot = false → e.driving = true → Yields (.stretchEnd ratio) s (Settles s fun u =>
      u.rst = { s.rst with
        episode := some { e with stretching := false, driving := false }
        ratio := if e.level = 0 then BitVec.ofNat 8 (min ratio 255) else s.rst.ratio
        code := if e.level = 0 then BitVec.ofNat 4 (min ratio 255 / 16) else s.rst.code } ∧
        u = { s with rst := u.rst, mgt := { s.mgt with dflt := u.mgt.dflt } } ∧
        u.mgt.dflt = (if e.level = 0 then (if u.rst.code.toNat ∈ [3, 4, 7, 8, 10, 12] then 0x5D else 0x5C) else s.mgt.dflt))) ∧
    (e.stretching = false → e.driving = false → e.asserted = Sources.none → e.level ≠ 3 →
      (Yields (.nrstSample false) s (Settles s fun u =>
        u.rst.pinLow = true ∧ ∃ e', u.rst.episode = some e' ∧ e'.level.toNat = min 1 e.level.toNat ∧ e'.joined.pin = true ∧
          e'.asserted.pin = true ∧ e'.stretching = false ∧ e'.driving = false ∧ e'.waitHigh = true)))

/-! ### Bring-up (chapter 13) -/

/-- The clocks of bring-up (rules R337, R338, R345): the system clock completes step 1; with ACLK every Wing is powered, its map set
and on-chip SRAM zero (rule R209), but in safe mode the clock alone is marked; in a wake the next eight Wings are powered with zeros
(rule R354) and their registers at their reset values (rule R442); after an L3 episode the Wings reset whole are zero again; link and
memory clocks are marked qualified, also in an L3 episode; a held link domain that tries again comes back. Accesses that waited for a
fill follow (Table 8.6). -/
def Obligations.ClocksQualify : Prop :=
  ∀ (s : State), Tidy s →
    (∀ bad, atStep s 0 = true → Yields (.clockQualified .sys bad) s (Settles s (Freed fun v =>
      v = { s with rst := { s.rst with qSys := true, step := 1 } }))) ∧
    (∀ bad, s.rst.pinsReleased = true → linksFree s = true → isOff s = false →
      (Yields (.clockQualified .pcie bad) s (Settles s (Freed fun v =>
        v = { s with rst := { s.rst with qPcie := true, pcieHeld := false } }))) ∧
      (Yields (.clockQualified .serdes bad) s (Settles s (Freed fun v =>
        v = { s with rst := { s.rst with qSerdes := true, serdesHeld := false } })))) ∧
    (linksFree s = true → isOff s = false →
      (s.rst.pcieHeld = true → Yields (.clockQualifyRetry .pcie true) s fun t =>
        t = { s with rst := { s.rst with qPcie := true, pcieHeld := false } }) ∧
      (s.rst.serdesHeld = true → Yields (.clockQualifyRetry .serdes true) s fun t =>
        t = { s with rst := { s.rst with qSerdes := true, serdesHeld := false } })) ∧
    (∀ bad, (bringing s).isSome = true → 4 ≤ s.rst.step.toNat → domHeld s .mem = false → s.rst.qMem = false →
      Yields (.clockQualified .mem bad) s (Settles s (Freed fun v => v = { s with rst := { s.rst with qMem := true } }))) ∧
    (∀ bad, (bringing s).isSome = true → 4 ≤ s.rst.step.toNat → domHeld s .aclk = false → s.rst.qAclk = false → s.rst.safe = true →
      Yields (.clockQualified .aclk bad) s (Settles s (Freed fun v => v = { s with rst := { s.rst with qAclk := true } }))) ∧
    (∀ bad, (bringing s).isSome = true → 4 ≤ s.rst.step.toNat → domHeld s .aclk = false → s.rst.qAclk = false → s.rst.safe = false →
      Yields (.clockQualified .aclk bad) s (Settles s (Freed fun v =>
        v.rst.qAclk = true ∧ v.rst.arrMapSet = true ∧ (∀ w, w < 32 → (getWing v w).powered = true) ∧
          (∀ a, readByte v a = if 0x40000000000 ≤ a ∧ a < 0x40040000000 then 0 else readByte s a) ∧
          v.rst.step = (if s.rst.trained = true ∧ s.rst.step = 4 then 5 else s.rst.step) ∧ v.tier = s.tier))) ∧
    (∀ bad g, bringing s = none → s.pwr.state = .waking → nextGroup s = some g →
      Yields (.clockQualified .aclk bad) s (Settles s (Freed fun v =>
        (∀ w, w < 32 → (getWing v w).powered = (decide (g ≤ w ∧ w < g + 8) || (getWing s w).powered)) ∧
          (∀ w, g ≤ w → w < g + 8 → (getWing v w).lateBursts = 0 ∧ (getWing v w).accRun = none ∧ (getWing v w).winBuf = [] ∧
            ∀ a k, a < 33 → k < 8 → getSlot v w a k = Slot.reset) ∧
          (∀ w, w < 32 → w < g ∨ g + 8 ≤ w → getWing v w = getWing s w ∧ ∀ a k, a < 33 → k < 8 → getSlot v w a k = getSlot s w a k) ∧
          (∀ a, readByte v a =
            if 0x40000000000 + g * 0x2000000 ≤ a ∧ a < 0x40000000000 + (g + 8) * 0x2000000 then 0 else readByte s a) ∧
          v.rst = (if g = 24 then { s.rst with qAclk := true } else s.rst) ∧ v.pwr = s.pwr ∧ v.tier = s.tier ∧
          (Undamaged s → v.desk = s.desk) ∧ v.run.tiles = s.run.tiles ∧ v.arrs.groups = s.arrs.groups))) ∧
    (s.rst.episode = none → s.rst.bringup = none → isOff s = false → s.rst.l3Wings ≠ [] → s.pwr.state ≠ .waking →
      Yields (.clockQualified .aclk []) s (Settles s (Freed fun v =>
        v.rst.l3Wings = [] ∧ (∀ x ∈ s.rst.l3Wings, (getWing v x.1.toNat).inL3 = false ∧ x.1.toNat ∈ v.rst.l3Pend) ∧
          (∀ a, readByte v a = if ∃ x ∈ s.rst.l3Wings, x.2 = 0 ∧ 0x40000000000 + x.1.toNat * 0x2000000 ≤ a ∧
            a < 0x40000000000 + (x.1.toNat + 1) * 0x2000000 then 0 else readByte s a) ∧
          v.tier = s.tier ∧ v.run = s.run ∧ v.arrs = s.arrs)))

/-- The option loader takes the first copy that verifies against the security record, or opts for safe mode; either way the pins are
released and control memory is filled with zeros (rules R209, R341 to R343, R384, R385, R431); HOST_GO (rule R341). Which areas of
the flash a boot reads, and that an area known before holds what it held, is the model's choice (notes/assumptions/117); that the
pins are released when no copy verifies is read from the spec by inference (notes/assumptions/58). -/
def Obligations.OptionLoader : Prop :=
  ∀ (s : State), Tidy s →
    (barOpen s 0 = true → barHeld s = false → Yields .hostGo s fun t => t = { s with rst := { s.rst with hostGo := true } }) ∧
    (∀ lv puf rpb a b vok wok, bringing s = some lv → s.rst.step.toNat = 1 → Yields (.optionBlockLoaded puf rpb a b vok wok) s fun t =>
      t.rst.step = 3 ∧ t.rst.pinsReleased = true ∧ t.tier = s.tier ∧ (Undamaged s → t.desk = s.desk) ∧
        ((s.sec.areas.lookup 0).isSome = true → (s.sec.areas.lookup 0x4000).isSome = true → t.flash = s.flash) ∧
        (∀ x, readByte t x = if 0x40040000000 ≤ x ∧ x < 0x40040200000 then 0 else readByte s x) ∧
        t.fab.candidate = decide (s.rst.code.toNat ∈ [2, 4, 6, 8]) ∧ t.sec.pufFail = !t.sec.keys ∧
        (t.rst.optFail = true → t.rst.safe = true) ∧ (t.sec.pufFail = true → t.rst.safe = true)) ∧
    (∀ lv o b vok wok r, bringing s = some lv → lv ≠ 2 → s.rst.step.toNat = 1 → s.sec.rpb = some r → optOk r o = true →
      (∀ h, s.sec.areas.lookup 0 = some h → h = some (.options o)) → Yields (.optionBlockLoaded true .good (some o) b vok wok) s fun t =>
        let rd := Out.flash (if s.rst.code.toNat ∈ [1, 2, 3, 4, 9, 10, 15] then .quadRead else .read)
        (Undamaged s → t.out = s.out ++ [rd 0x8000, rd 0x9000, rd 0, rd 0xA000]) ∧ t.sec.areas.lookup 0 = some (some (.options o)) ∧
        t.flash = (if (s.sec.areas.lookup 0).isSome = true then s.flash else memPut 0xFF (memClear s.flash 0 0x4000) 0 o.bytes) ∧
        t.rst.opt = some o ∧ t.rst.optSrc = 1 ∧ t.rst.optFail = false ∧ t.sec.state = r.state ∧ t.sec.rpbFail = false ∧
          t.sec.vaultOpt = some o ∧ t.rst.pinCfg = o.pinCfg ∧ t.rst.safe = (s.rst.safe || decide (s.rst.code.toNat ∈ [0, 13, 14])) ∧
          (t.rst.safe = false → t.rst.stretchMs.toNat = o.stretchMs % 64 ∧ t.rst.wdogMs = o.wdogMs)) ∧
    (∀ lv vok wok, bringing s = some lv → lv ≠ 2 → s.rst.step.toNat = 1 →
      Yields (.optionBlockLoaded true .good none none vok wok) s fun t =>
        t.rst.optFail = true ∧ t.rst.safe = true ∧ t.rst.opt = s.rst.opt ∧ t.rst.stretchMs = s.rst.stretchMs)

/-- A primary image that Ryvas signed with an SVN not below the record's runs, the record is rewritten, MCTP is served; another
image leads to safe mode, where the recovery image runs under the same check with the cap in force at 600 W and every port DOWN
(rules R341, R346, R386 to R389). In host boot the image waits for HOST_GO and comes from the host, otherwise from flash (rules R341,
R431). The Vault holds the digest of the primary image: its place is the model's choice (notes/assumptions/11), as are the areas of
the flash that a boot reads (notes/assumptions/117). That the watchdog is armed in safe mode is read from the spec by inference
(notes/assumptions/58). Accesses that waited for a fill that safe mode never brings follow (notes/assumptions/105). -/
def Obligations.FirmwareStarts : Prop :=
  ∀ (s : State) (i : FwImage), Tidy s → atStep s 3 = true → fwOk s (some i) = true →
    let host := decide (9 ≤ s.rst.code.toNat) && decide (s.rst.code.toNat ≤ 12) && !s.sec.hostbootDenied && !s.rst.safe
    let rd := Out.flash (if s.rst.code.toNat ∈ [1, 2, 3, 4, 9, 10, 15] then .quadRead else .read)
    (host = true → s.rst.hostGo = true) →
    (∀ rec_ r, s.rst.safe = false → s.sec.rpb = some r →
      (host = false → ∀ h, s.sec.areas.lookup 0x20000 = some h → h = some (.image i)) →
      Yields (.firmwareVerified (some i) rec_ false true) s (Settles s (Freed fun t =>
      t.rst.hostGo = false ∧ (Undamaged s → t.out = s.out ++ (if host = true then [] else [rd 0x20000])) ∧ t.rst.step = 4 ∧ t.rst.safe = false ∧
      t.mgt.serving = true ∧ t.mgt.recovery = false ∧ t.desk.fwMajor = i.major ∧
        t.desk.fwMinor = i.minor ∧ t.desk.fwBuild = i.build ∧ t.sec.rpb = some (newRec r s.rst.opt i) ∧
        t.sec.state = (newRec r s.rst.opt i).state ∧ t.sec.fwSvn = (newRec r s.rst.opt i).fwSvn ∧ t.sec.vaultFw = some i.digest ∧
        t.vault = memPut 0 s.vault 0x6400 (bytesOf 48 i.digest.toNat) ∧ t.pwr = s.pwr ∧ t.mem = s.mem ∧ t.wr = [] ∧ t.tier = s.tier))) ∧
    (∀ p, s.rst.safe = true ∨ fwOk s p = false → (∀ h, s.sec.areas.lookup 0x820000 = some h → h = some (.image i)) →
      Yields (.firmwareVerified p (some i) false true) s (Settles s (Freed fun t =>
      t.rst.hostGo = false ∧ t.rst.step = 4 ∧ t.rst.safe = true ∧ t.rst.armed = true ∧ t.mgt.serving = true ∧ t.mgt.recovery = true ∧
        t.pwr = { s.pwr with capInForce := 600 } ∧ (∀ p, p < 9 → (getPort t p).state = 0) ∧ t.desk.fwBuild = i.build ∧
        t.sec.rpb = s.sec.rpb ∧ t.vault = s.vault ∧ rd 0x820000 ∈ t.out ∧
        t.mem = s.mem ∧ t.wr = [] ∧ t.tier = s.tier)))

/-- Training finds the population of the 8 Depository sites, or disables the Depository with event 0x0B (rules R216, R344); READY
opens the Desk, starts the Inventory and the scrub, leaves a copy of the firmware in the Stacks and arms the watchdog (rules R344,
R345); the copy stands in the state as its digest, the model's choice (notes/assumptions/108). The first READY begins the days of
service (rule R379). A slow bring-up, that of an L3 episode too, is marked and reported. -/
def Obligations.BringupCompletes : Prop :=
  ∀ (s : State), Tidy s →
    (∀ ms lv, bringing s = some lv → lv ≠ 2 → s.rst.qMem = true → s.rst.trained = false → Yields (.memoryTrainingDone ms) s fun t =>
      t.rst.trained = true ∧ t.tier = { s.tier with depGib := (populationOf ms).getD 0 } ∧ t.rel.early = [] ∧
        t.rel.logHead = s.rel.logHead + BitVec.ofNat 32 s.rel.early.length ∧
        (populationOf ms = none → (getFn t 0).mgmt = true) ∧
        t.rst.step = (if s.rst.qAclk = true ∧ s.rst.safe = false ∧ s.rst.step = 4 then 5 else s.rst.step) ∧
        t.desk.queues = s.desk.queues) ∧
    (atStep s 5 = true → s.rst.safe = false → Yields .bringupReady s fun t =>
      t.desk.ready = true ∧ t.rst.bringup = none ∧ t.rst.step = 6 ∧ t.rst.armed = true ∧ t.inv.enabled = true ∧
        t.pwr.state = .active ∧ t.rst.fwCopy = some s.sec.fwDigest ∧ t.rel.scrubFrom = (s.clk.now.toNat, s.clk.now.toNat) ∧
        t.rel.firstReady = (s.rel.firstReady.orElse fun _ => some s.clk.now) ∧ t.mem = s.mem ∧
        t.desk.queues = s.desk.queues ∧ t.run = s.run ∧
        ∀ x ∈ s.tier.folios, x.2.valid = true → x.2.state = 1 → (getFolio t x.1).state = 0) ∧
    ((bringing s).isSome = true ∨ (s.rst.episode = none ∧ isOff s = false ∧ s.rst.l3Wings ≠ []) → s.rst.slow = false →
      Yields .bringupSlow s fun t =>
      t.rst = { s.rst with slow := true } ∧ (getFn t 0).mgmt = true ∧ t.mem = s.mem ∧ t.tier = s.tier ∧ t.run = s.run ∧
        t.desk.queues = s.desk.queues)

/-! ### Tenants and the host link (chapters 16, 17) -/

/-- FLR of a function, VF_DISABLE and every reset of the endpoint begin the scrub of the functions they reach: configuration,
mailboxes, queues, folios (rules R261, R393, R409); nothing of another function changes. That the function's PCIe configuration takes
its initial values is presumed from PCI Express (notes/assumptions/13). -/
def Obligations.FunctionsReset : Prop :=
  ∀ (s : State), Tidy s →
    (∀ (f : Fin 32), (∀ g ∈ flrSet f, scrubbing s g = false) → Yields (.flr f) s (Settles s fun u =>
      (∀ g ∈ flrSet f, Released s u g) ∧ u.mem = s.mem ∧ u.wr = [] ∧ u.rst = s.rst ∧
        ∀ g, g ∉ flrSet f → getPcie u g = getPcie s g ∧ (∀ k, k < 8 → getMb u g k = getMb s g k) ∧
          (∀ q, q / 32 = g → getQ u q = getQ s q) ∧ bit g u.sec.scrub.toNat = bit g s.sec.scrub.toNat)) ∧
    (∀ (f : Fin 32), (∀ g ∈ flrSet f, scrubbing s g = false) → Yields (.flr f) s (Settles s fun u =>
      ∀ i, (∀ x ∈ s.tier.folios, x.1 = i → x.2.tenant.toNat ∉ flrSet f) → getFolio u i = getFolio s i)) ∧
    (∀ (n : Fin 32) (en : Bool), s.pcie.linkUp = true → s.sec.scrub = 0 → Yields (.vfDisable n en) s (Settles s fun u =>
      u.pcie.vfEnable = en ∧ u.pcie.numVFs = n ∧ u.pcie.linkUp = true ∧ u.mem = s.mem ∧ u.wr = [] ∧
        (∀ g, 0 < g → g < 32 → fnPresent s g = true → ¬ (en = true ∧ g ≤ n.val) → Released s u g) ∧
        getPcie u 0 = getPcie s 0 ∧ ∀ k, k < 8 → getMb u 0 k = getMb s 0 k)) ∧
    (s.sec.scrub = 0 → ∀ c ∈ [Instr.hotReset, .linkDown, .perstN], Yields c s (Settles s fun u =>
      u.pcie.linkUp = false ∧ u.pcie.vfEnable = false ∧ u.pcie.numVFs = 0 ∧ u.pcie.perst = (decide (c = .perstN) || s.pcie.perst) ∧
        u.desk.reads = [] ∧ barHeld u = false ∧ u.mem = s.mem ∧ u.wr = [] ∧ u.rst = s.rst ∧ ∀ g, g < 32 → Released s u g))

/-- The end of a scrub: the queues of the function are gone, its invalid folios are free, the Carrel partitions that its tiles used
are zero but for what tiles of other functions hold in them, no other byte changes, the slots that drained for it are gone, and
commands of the function may be taken up again (rules R393, R394); what tiles of a function that is scrubbed leave in the other
memories of a Wing is left out (notes/assumptions/85). FLR_TILE_ABANDON gives up tiles that are still held 10 ms after the FLR. -/
def Obligations.ScrubsEnd : Prop :=
  ∀ (f : Fin 32) (s : State), Tidy s → scrubbing s f = true →
    ((∀ q, q / 32 = f.val → (getQ s q).state = 4 → queueHeld s q = false) → Yields (.tenantScrubEnd f) s (Settles s fun u =>
      scrubbing u f = false ∧ (∀ g, g ≠ f.val → scrubbing u g = scrubbing s g) ∧
        (∀ q, q / 32 = f.val → (getQ s q).state = 4 → (getQ u q).state = 0) ∧
        (∀ x ∈ s.tier.folios, x.2.tenant.toNat = f → x.2.valid = false → getFolio u x.1 = Folio.reset) ∧
        (∀ b, readByte u b =
          if ∃ y ∈ s.arrs.arr, ∃ r ∈ scrubRanges f y.2, carrelAddr (y.1 / 33) (y.1 % 33) r.1 ≤ b ∧ b < carrelAddr (y.1 / 33) (y.1 % 33) r.2
          then 0 else readByte s b) ∧
        (∀ x ∈ u.arrs.slots, (x.2.draining && x.2.fn == f.val) = false) ∧ (∀ w v, ∀ e ∈ (getGlo u w v).cache, e.tenant ≠ f.val))) ∧
    (10000000 ≤ s.clk.now.toNat - tabGet 0 s.sec.scrubAt f → Yields (.flrTileAbandon f) s (Settles s fun u =>
      (∀ q, q / 32 = f.val → (getQ s q).state = 4 → (getQ u q).state = 0 ∧ ∀ x ∈ u.run.tiles, x.id.q ≠ q) ∧
        (∀ q, q / 32 ≠ f.val → getQ u q = getQ s q) ∧ u.tier = s.tier ∧ Quiet s u))

/-- The link: PERST_N released, training, configuration writes, poisoned writes and the pending MSI-X message, each with no other
effect (rules R367, R403, R406 to R409). The registers that configuration writes set are those of PCI Express, presumed
(notes/assumptions/13). -/
def Obligations.LinkEvents : Prop :=
  ∀ (s : State), Tidy s →
    (Yields .perstNRelease s fun t => t = { s with pcie := { s.pcie with perst := false } }) ∧
    (s.pcie.perst = false → s.rst.qPcie = true → s.rst.episode = none → s.pwr.state ≠ .off → ∀ rate width,
      Yields (.pcieLinkUp rate width) s fun t =>
        t = { s with pcie := { s.pcie with linkUp := true, rate := rate, width := width } }) ∧
    (∀ (f : Fin 32) (c : CfgWrite), s.pcie.linkUp = true → fnPresent s f = true → Yields (.configurationWrite f c) s fun t =>
      t = { s with pcie := { s.pcie with fns := t.pcie.fns } } ∧ (∀ g, g ≠ f.val → getPcie t g = getPcie s g) ∧
        getPcie t f = match c with
          | .busMaster b => { getPcie s f with busMaster := b }
          | .memSpace b => { getPcie s f with memSpace := b }
          | .d3hot b => { getPcie s f with d3hot := b }
          | .complTimeout v => { getPcie s f with complTimeout := v }
          | .msixMask b => { getPcie s f with masked := b }
          | .msixEntry a d => { getPcie s f with msixAddr := a, msixData := d }
          | .maxPayload v => { getPcie s f with maxPayload := v }
          | .maxRead v => { getPcie s f with maxRead := v }
          | .tenBitTags b => { getPcie s f with tenBitTags := b }) ∧
    (∀ (f : Fin 32), s.pcie.linkUp = true → Yields (.poisonedTlp f) s fun t =>
      t = { s with pcie := { s.pcie with poisoned := s.pcie.poisoned + 1 }, out := s.out ++ [.aer .poisoned f] }) ∧
    (∀ (f : Fin 32), (getPcie s f).pending = true → (getPcie s f).masked = false → hostBlocked s f = false →
      Yields (.msixPendingSend f) s fun t =>
        getPcie t f = { getPcie s f with pending := false } ∧ (∀ g, g ≠ f.val → getPcie t g = getPcie s g) ∧
          t = { s with pcie := { s.pcie with fns := t.pcie.fns }, out := s.out ++ [.msix f (getPcie s f).msixAddr (getPcie s f).msixData] })

/-! ### Power, heat and wear (chapters 14, 15) -/

/-- ACTIVE, DROWSE and OFF requests: an entry begins under the conditions of rule R351 and stops every perturbation (rule R381);
otherwise RESULT says BUSY; a request during an entry or a wake is held with RESULT = HELD (rule R351); a write of it behind an
access that waits waits too (rule R441). The end of an entry: in Drowse the Wings are off and their memories empty while the tiers
stand; in Off only the always-on domain stands (rules R350, R353). That what has lost its power reads 0 is the model's choice
(notes/assumptions/3 and 52); the Wings of a drowsing device are shown by the same bit as a Wing that has not come up
(notes/assumptions/63). The end of a wake, 160 µs after it began, all its Wings being up: the device is Active, and rounds that
missed the list are late (rules R354, R442). -/
def Obligations.PowerStates : Prop :=
  (∀ (aw : Bool) (s : State), Tidy s → barOpen s 0 = true → barHeld s = true →
      ∀ c ∈ [(1, Instr.activeRequest aw), (2, .drowseRequest aw), (3, .offRequest aw)], Yields c.2 s fun t =>
        t = holdAcc s (.regWrite 0x300000 4 (BitVec.ofNat 32 ((if aw = true then 4 else 0) + c.1)))) ∧
  (∀ (aw : Bool) (s : State), Tidy s → barOpen s 0 = true → barHeld s = false →
      (∀ c ∈ [(1, Instr.activeRequest aw), (2, .drowseRequest aw), (3, .offRequest aw)],
        s.pwr.state = .entering ∨ s.pwr.state = .waking → Yields c.2 s fun t =>
          t = { s with pwr := { s.pwr with autoWake := aw, held := s.pwr.held ++ [BitVec.ofNat 2 c.1], result := 2 } }) ∧
      (s.pwr.state = .active ∨ s.pwr.state = .idle → Yields (.activeRequest aw) s fun t =>
        t = { s with pwr := { s.pwr with autoWake := aw, result := 0 } }) ∧
      (s.pwr.state = .drowse → Yields (.activeRequest aw) s fun t =>
        t = { s with pwr := { s.pwr with autoWake := aw, state := .waking, wakeFrom := some s.clk.now, result := 0 } }) ∧
      (∀ c ∈ [(false, Instr.drowseRequest aw), (true, .offRequest aw)], s.pwr.state ≠ .entering → s.pwr.state ≠ .waking →
        (mayPowerDown s = false → Yields c.2 s fun t => t = { s with pwr := { s.pwr with autoWake := aw, result := 1 } }) ∧
        (mayPowerDown s = true → (c.1 = false → s.pwr.state ≠ .drowse) → Yields c.2 s fun t =>
          t.pwr = { s.pwr with autoWake := aw, state := .entering, offing := c.1, result := 0 } ∧ t.rel.pert = Pert.reset ∧
            t.mem = s.mem ∧ t.desk = s.desk ∧ t.tier = s.tier ∧ t.wings = s.wings))) ∧
  (∀ (s : State), Tidy s →
      (s.pwr.state = .entering → s.pwr.offing = false → s.pwr.held = [] → Yields .drowseEntryDone s (Settles s fun u =>
        u.pwr = { s.pwr with state := .drowse } ∧ u.arrs.groups = [] ∧ (∀ w, w < 32 → (getWing u w).powered = false) ∧
          (∀ a, readByte u a = if 0x40000000000 ≤ a ∧ a < 0x40040000000 then 0 else readByte s a) ∧ u.tier = s.tier ∧
          u.desk = s.desk ∧ u.rst = { s.rst with qAclk := false } ∧ u.sec = s.sec)) ∧
      (s.pwr.state = .entering → s.pwr.offing = true → Yields .drowseEntryDone s (Settles s fun u =>
        u.pwr.state = .off ∧ u.sec.keys = false ∧ u.desk.ready = false ∧ u.tier = Tiers.reset ∧ u.flash = s.flash ∧
          u.vault = s.vault ∧ u.rst.backup = s.rst.backup ∧ ∀ a, a < 0x40000000000 → readByte u a = 0)) ∧
      (∀ from_, s.pwr.state = .waking → s.pwr.wakeFrom = some from_ → 160000 ≤ (s.clk.now - from_).toNat → s.pwr.held = [] →
        nextGroup s = none → Yields .wakeComplete s (Settles s fun u =>
          u.pwr = { s.pwr with state := .active, wakeFrom := none } ∧ u.wings = s.wings ∧ u.mem = s.mem ∧ u.wr = [] ∧ u.tier = s.tier ∧
            u.inv.cursor = [] ∧ u.inv.swept = [] ∧ u.rst = s.rst ∧ u.arrs = s.arrs ∧
            (s.tick.closed = true → ∀ q, ∀ r ∈ (getQ u q).rounds, r.state = .waiting → r.late = true) ∧
            (s.tick.closed = false → u.desk = s.desk))))

/-- DVFS_EVALUATION above the cap, at or above 100 °C, or above 1,300 A: a step down to the highest point below that the prediction
allows, ACLK first and then VCORE; at 0.60 GHz a second evaluation above the cap paces, and every evaluation at or below 97 % of the
cap relaxes pacing by a step (rules R357, R359); a calm evaluation raises VCORE for the next point; one that changes no point tries
again what an abandoned change of VCORE has left (rule R436). AVS_STEP_RESPONSE: a Good response makes the step, the last one of a
step up changes ACLK but under a throttle or above the limit of an aged device, and only then counts as a step up for the 1 ms
between them (rule R359); the third other response abandons the change (rules R356, R360, R380, R436). -/
def Obligations.OperatingPoints : Prop :=
  (∀ (m : PowerSample) (s : State), Tidy s → s.desk.ready = true → isOff s = false →
    let cap := s.pwr.capInForce.toNat
    let aclk := s.pwr.aclkMhz.toNat
    let down := fun (t : State) (mv : Nat) => ∃ r, t.pwr.avs = some r ∧ r.target = mv ∧ r.up = false ∧ r.tries = 0 ∧
      r.start = s.pwr.vcoreMv.toNat
    (aclk ≠ 600 → cap < m.p100 ∨ 100 ≤ (hottest m.temps).2 ∨ 1300 < m.amps → Yields (.dvfsEvaluation m) s fun t =>
      t.pwr.aclkMhz = BitVec.ofNat 11 ((topPoint fun x => decide (x < aclk) && decide (x ≤ m.predicted)).getD 600) ∧
        t.pwr.overs = 0 ∧
        t.pwr.pace.toNat = s.pwr.pace.toNat - (if 100 * m.p100 ≤ 97 * cap then 1 else 0) ∧
        (s.rst.pinsReleased = true → s.pwr.vcoreMv.toNat ≠ pointMv t.pwr.aclkMhz.toNat → down t (pointMv t.pwr.aclkMhz.toNat)) ∧
        (s.rst.pinsReleased = false → t.pwr.avs = s.pwr.avs) ∧ t.pwr.dieC = BitVec.ofNat 8 (hottest m.temps).2 ∧
        t.pwr.sensor = BitVec.ofNat 7 (hottest m.temps).1 ∧ t.mem = s.mem ∧ t.desk = s.desk ∧ t.run = s.run) ∧
    (aclk = 600 → cap < m.p100 → 1 ≤ s.pwr.overs → s.pwr.pace.toNat < 3 → Yields (.dvfsEvaluation m) s fun t =>
      t.pwr.pacing = true ∧ t.pwr.pace = s.pwr.pace + 1 ∧ t.pwr.aclkMhz = s.pwr.aclkMhz ∧
        (s.pwr.avs = none → s.pwr.vcoreMv.toNat ≠ 600 → down t 600) ∧ t.mem = s.mem ∧ t.desk = s.desk) ∧
    (aclk = 600 → m.p100 ≤ cap → (100 ≤ (hottest m.temps).2 ∨ 1300 < m.amps) → Yields (.dvfsEvaluation m) s fun t =>
      t.pwr.pace.toNat = s.pwr.pace.toNat - (if 100 * m.p100 ≤ 97 * cap then 1 else 0) ∧ t.pwr.aclkMhz = s.pwr.aclkMhz ∧
        t.pwr.overs = 0 ∧ t.pwr.capUnmet = false ∧ (s.pwr.avs = none → s.pwr.vcoreMv.toNat ≠ 600 → down t 600) ∧ t.mem = s.mem ∧
        t.desk = s.desk) ∧
    (∀ n, m.p100 ≤ cap → (hottest m.temps).2 < 100 → m.amps ≤ 1300 → nextPoint aclk = some n → mayStepUp m s = false →
      s.pwr.pace = 0 → s.pwr.avs = none → s.pwr.vcoreMv.toNat ≠ pointMv aclk → Yields (.dvfsEvaluation m) s fun t =>
      down t (pointMv aclk) ∧ t.pwr.aclkMhz = s.pwr.aclkMhz ∧ t.pwr.lastUp = s.pwr.lastUp ∧ t.mem = s.mem ∧ t.desk = s.desk) ∧
    (∀ n, m.p100 ≤ cap → (hottest m.temps).2 < 100 → m.amps ≤ 1300 → nextPoint aclk = some n → mayStepUp m s = true →
      s.pwr.pace = 0 → (s.rel.aged = true → n ≤ 1300) → s.pwr.vcoreMv.toNat ≠ pointMv n → Yields (.dvfsEvaluation m) s fun t =>
      (∃ r, t.pwr.avs = some r ∧ r.target = pointMv n ∧ r.aclk = n ∧ r.up = true ∧ r.tries = 0 ∧ r.start = s.pwr.vcoreMv.toNat) ∧
        t.pwr.lastUp = s.pwr.lastUp ∧ t.pwr.aclkMhz = s.pwr.aclkMhz ∧ t.pwr.vcoreMv = s.pwr.vcoreMv ∧ t.mem = s.mem)) ∧
  (∀ (s : State) (r : AvsRun), Tidy s → s.pwr.avs = some r →
    let v := avsNext s.pwr r.target
    (v ≠ r.target → Yields (.avsStepResponse true) s fun t =>
      t.pwr = { s.pwr with vcoreMv := BitVec.ofNat 10 v, boot := false, avs := some { r with tries := 0 } } ∧
        (∃ mv, t.out = s.out ++ [.avs mv]) ∧ t.rel = s.rel) ∧
    (v = r.target → Yields (.avsStepResponse true) s fun t =>
      let steps := r.up && !s.pwr.throttle && !(s.rel.aged && decide (1300 < r.aclk))
      t.pwr = { s.pwr with vcoreMv := BitVec.ofNat 10 v, boot := false, avs := none
                           aclkMhz := if steps = true then BitVec.ofNat 11 r.aclk else s.pwr.aclkMhz
                           lastUp := if steps = true then some s.clk.now else s.pwr.lastUp } ∧
        t.out = s.out) ∧
    (r.tries + 1 < 3 → Yields (.avsStepResponse false) s fun t =>
      t = { s with pwr := { s.pwr with avs := some { r with tries := r.tries + 1 } }, out := s.out ++ [.avs v] }) ∧
    (3 ≤ r.tries + 1 → Yields (.avsStepResponse false) s fun t => t = { s with pwr := { s.pwr with avs := none } }))

/-- A throttle takes ACLK to 0.60 GHz at once and is counted, VCORE follows toward 0.600 V; it is released below 100 °C and 90 °C
(rule R360), but not before the AVSBus outputs are enabled (Table 18.1). A trip at 115 °C puts the device in Off and is kept for
bring-up, which stays unfinished; the wait for sensor 68 ends below 95 °C (rule R361). That the memories of a device in Off read 0
is the model's choice (notes/assumptions/3). FOXING_MEASURE adds the degradation of each monitor to its day and the margin of each
lane of an UP port to its history, shows the smallest prediction in REL_LIFE, sets AGED when a monitor reaches 4 % and then takes
ACLK to at most 1.30 GHz; the end of a day puts the daily means into the histories and starts the next. STACK_MARGIN_MEASURE adds
the margin of each channel to its history and does nothing else (rules R378 to R380). How a value stands in a history, and that
fractions of a day are dropped, is the model's choice (notes/assumptions/103). -/
def Obligations.HeatAndWear : Prop :=
  (∀ (s : State), Tidy s →
      (∀ sensor temp hbm, (sensor ≤ 68 ∧ 105 ≤ temp) ∨ 95 ≤ hbm → s.pwr.throttle = false → isOff s = false →
        (∀ e, s.rst.episode = some e → e.level = 3) →
        Yields (.thermalThrottle sensor temp hbm) s fun t =>
          t.pwr.throttle = true ∧ t.pwr.throttles = satAdd s.pwr.throttles 1 ∧ t.pwr.aclkMhz = 600 ∧
            t.pwr.vcoreMv = s.pwr.vcoreMv ∧
            (if s.rst.pinsReleased = false then t.pwr.avs = s.pwr.avs
             else if s.pwr.vcoreMv = 600 ∧ s.pwr.boot = false then t.pwr.avs = none
             else ∃ r, t.pwr.avs = some r ∧ r.start = s.pwr.vcoreMv.toNat ∧ r.target = 600 ∧ r.up = false ∧ r.tries = 0) ∧ t.mem = s.mem ∧
            t.desk = s.desk ∧ t.run = s.run ∧ t.pwr.state = s.pwr.state) ∧
      (∀ die hbm, die < 100 → hbm < 90 → Yields (.throttleRelease die hbm) s fun t =>
        t = { s with pwr := { s.pwr with throttle := false } }) ∧
      (∀ sensor temp, 115 ≤ temp → sensor ≤ 68 → Yields (.thermalTrip sensor temp) s (Settles s fun u =>
        u.pwr.state = .off ∧ u.pwr.tripped = true ∧ u.pwr.tripSensor = BitVec.ofNat 8 sensor ∧ u.pwr.tripTemp = BitVec.ofNat 8 temp ∧
          u.pwr.therm = true ∧ u.pwr.hot = true ∧ u.pwr.tripLog = true ∧ u.rst.episode = none ∧ u.desk.ready = false ∧
          u.rst.bringup = (match s.rst.episode with
            | some e => if e.level = 3 then s.rst.bringup else some e.level
            | none => s.rst.bringup) ∧
          u.flash = s.flash ∧ u.vault = s.vault ∧ ∀ a, a < 0x40000000000 → readByte u a = 0)) ∧
      (∀ temp, temp < 95 → Yields (.tripSensorCooled temp) s fun t => t = { s with pwr := { s.pwr with hot := false } })) ∧
  (∀ (s : State), Tidy s → measures s = true →
      (∀ monitors lanes dayEnd, Yields (.foxingMeasure monitors lanes dayEnd) s fun t =>
        let ds := (monitors.filter fun x => decide (x.1 ≤ 33)).map fun x => (x.1, foxD (foxR0 s x.1) x.2.1 x.2.2)
        let today := ds.foldl (fun h x => tabSet [] h x.1 (tabGet [] h x.1 ++ [x.2])) s.rel.foxDay
        let day := serviceDays s
        let aged := ds.any fun x => decide ((4 / 100 : Rat) ≤ x.2)
        t.rel.aged = aged ∧ t.rel.firstReady = s.rel.firstReady ∧
          t.rel.foxDay = (if dayEnd = true then [] else today) ∧
          t.rel.foxMeans = (if dayEnd = true then
              today.foldl (fun h x => addDaily (day + 1) day h x.1 (ratSum x.2 / (x.2.length : Nat))) s.rel.foxMeans
            else s.rel.foxMeans) ∧
          t.rel.laneDays = ((lanes.filter fun x => decide (x.1 ≤ 35) && portUp s (x.1 / 4)).foldl
            (fun h x => addDaily 90 day h x.1 x.2) s.rel.laneDays) ∧ t.rel.chanDays = s.rel.chanDays ∧
          (t.rel.days, t.rel.kind, t.rel.limiter) = (match soonest (predictions t) with
            | none => (0xFFFF, 3, 0)
            | some (d, kind, lim) => (BitVec.ofNat 16 (min d 0xFFFF), BitVec.ofNat 2 kind, BitVec.ofNat 13 lim)) ∧
          (∀ n ∈ [365, 90, 30], (soonest (predictions t)).isSome = true → t.rel.days.toNat < n → n ∈ t.rel.lifeSeen) ∧
          t.pwr.aclkMhz = (if aged = true ∧ 1300 < s.pwr.aclkMhz.toNat then 1300 else s.pwr.aclkMhz) ∧ t.mem = s.mem ∧
          t.run = s.run ∧ t.desk.queues = s.desk.queues ∧ t.tier = s.tier ∧ t.rst = s.rst) ∧
      (∀ channels, Yields (.stackMarginMeasure channels) s fun t =>
        t = { s with rel := { s.rel with
          chanDays := (channels.filter fun x => decide (x.1 < 256)).foldl
            (fun h x => addDaily 90 (serviceDays s) h x.1 x.2) s.rel.chanDays } }))

/-! ### The fabric (chapter 12) -/

/-- A good flit in sequence is accepted: the expected SEQ moves on, what it acknowledges is kept no longer and its credits come
back; a slip that is whole is handed on, as a link control message is. A flit with a wrong CRC is discarded, counted and answered
with a NAK of the expected SEQ, which goes out as a flit of its own, and the eighth NAK for one SEQ retrains the port; so is the
first flit out of sequence, and those after it are discarded and counted alone. A NAK counts a replay and sends every kept flit from
its SEQ on again; the eighth for one SEQ retrains instead (rules R295 to R297). The bytes of the NAK's flit and the bit order of the
CRC are the model's (log entries 11, 15). -/
def Obligations.FlitsAndNaks : Prop :=
  ∀ (p : Fin 9) (s : State), Tidy s → (getPort s p).state = 2 →
    let x := getPort s p
    let frame := fun (t : State) => t = { s with fab := { s.fab with ports := t.fab.ports }, out := t.out } ∧
      ∀ o, o ≠ p.val → getPort t o = getPort s o
    (∀ (flit : List Byte) (fec : Nat), flit.length = 256 → natOf (flit.drop 252) = (crc32 (flit.take 252)).toNat →
      bits 31 20 (natOf (flit.take 4)) = x.rxSeq.toNat → Yields (.flitReceive p flit fec) s fun t =>
        let data := x.rx ++ [(flit.drop 4).take 248]
        let sl := slipOfBytes data.flatten
        frame t ∧ (getPort t p).rxSeq = x.rxSeq + 1 ∧ (getPort t p).naks = 0 ∧ (getPort t p).fec = satAdd x.fec fec ∧
          (getPort t p).crc = x.crc ∧ (getPort t p).discarding = false ∧
          (x.rx = [] → ∀ c, ctlOf ((flit.drop 4).take 248) = some c →
            (getPort t p).rx = [] ∧ ∃ l, t.out = s.out ++ .control p c.1 c.2 :: l) ∧
          (x.rx ≠ [] ∨ ctlOf ((flit.drop 4).take 248) = none →
            (data.length < slipFlits sl.len.toNat → (getPort t p).rx = data) ∧
            (slipFlits sl.len.toNat ≤ data.length → (getPort t p).rx = [] ∧ ∃ l, t.out = s.out ++ .received p sl :: l)) ∧
          (x.txq = [] →
            let back := creditBack x (bits 7 5 (natOf (flit.take 4))) (bits 4 0 (natOf (flit.take 4)))
            (getPort t p).usedPriv = back.usedPriv ∧ (getPort t p).usedShared = back.usedShared ∧ (getPort t p).txSeq = x.txSeq ∧
              (getPort t p).sent = x.sent.filter fun f => unacked x.txSeq (BitVec.ofNat 12 (bits 19 8 (natOf (flit.take 4)))) f.1)) ∧
    (∀ (flit : List Byte) (fec : Nat), flit.length = 256 → natOf (flit.drop 252) = (crc32 (flit.take 252)).toNat →
      bits 31 20 (natOf (flit.take 4)) ≠ x.rxSeq.toNat → x.discarding = true → Yields (.flitReceive p flit fec) s fun t =>
        frame t ∧ t.out = s.out ∧ getPort t p = { x with fec := satAdd x.fec fec, crc := satAdd x.crc 1 }) ∧
    (∀ (flit : List Byte) (fec : Nat), flit.length = 256 → natOf (flit.drop 252) ≠ (crc32 (flit.take 252)).toNat ∨
        (bits 31 20 (natOf (flit.take 4)) ≠ x.rxSeq.toNat ∧ x.discarding = false) →
      Yields (.flitReceive p flit fec) s fun t =>
        let n := if x.nakSeq = x.rxSeq then x.naks + 1 else 1
        frame t ∧ (getPort t p).crc = satAdd x.crc 1 ∧ (getPort t p).rxSeq = x.rxSeq ∧ (getPort t p).fec = satAdd x.fec fec ∧
          t.out = s.out ++ [.nak p x.rxSeq.toNat, ctlFlit s p (ctlData ctlNak (bytesOf 2 x.rxSeq.toNat))] ∧
          (getPort t p).txSeq = x.txSeq + 1 ∧ (getPort t p).rx = x.rx ∧
          (getPort t p).state = (if n = 8 then 1 else 2) ∧ (n ≠ 8 → (getPort t p).naks = n ∧ (getPort t p).discarding = true)) ∧
    (∀ (seq : BitVec 12), Yields (.nak p seq) s fun t =>
        let n := if x.nakGotSeq = seq then x.nakGot + 1 else 1
        let kept := x.sent.filter fun f => unacked x.txSeq seq f.1
        frame t ∧ (getPort t p).replay = satAdd x.replay (if n = 8 then 0 else 1) ∧ (getPort t p).sent = kept ∧
          (getPort t p).state = (if n = 8 then 1 else 2) ∧
          t.out = if n = 8 then s.out else s.out ++ (kept.dropWhile fun f => f.1 != seq).map fun f => .flit p f.2)

/-- Ports: a port that loses its hellos or a lane trains again; training that succeeds brings it UP with the width of its working
lanes, after a retraining with a replay of every kept flit, and the third that fails takes it DOWN with what it holds gone and its
counters kept (rules R294, R296, R297); CONGESTED turns at its thresholds and is counted (rules R18, R307). -/
def Obligations.PortsTrain : Prop :=
  ∀ (p : Fin 9) (s : State), Tidy s →
    let x := getPort s p
    (x.state = 2 → Yields (.helloTimeout p) s fun t =>
      getPort t p = { x with state := 1, discarding := false, naks := 0, nakGot := 0 } ∧ (∀ o, o ≠ p.val → getPort t o = getPort s o) ∧
        t = { s with fab := { s.fab with ports := t.fab.ports } }) ∧
    (∀ (lane : Fin 4), x.state = 2 → Yields (.laneLockLoss p lane) s fun t =>
      getPort t p = { x with state := 1, discarding := false, naks := 0, nakGot := 0,
                             lanes := x.lanes &&& ~~~BitVec.ofNat 4 (2 ^ lane.val) } ∧
        (∀ o, o ≠ p.val → getPort t o = getPort s o) ∧ t = { s with fab := { s.fab with ports := t.fab.ports } }) ∧
    (∀ (lanes : BitVec 4), mayTrain s = true → x.state = 0 → widthOf lanes ≠ 0 → Yields (.portTrainingDone p true lanes) s fun t =>
      getPort t p = { x with state := 2, width := BitVec.ofNat 2 (widthOf lanes), lanes := lanes, failedTrains := 0 } ∧
        (getFn t 0).mgmt = true ∧ (∀ o, o ≠ p.val → getPort t o = getPort s o) ∧ t.mem = s.mem ∧ t.run = s.run) ∧
    (∀ (lanes : BitVec 4), mayTrain s = true → x.state = 1 → widthOf lanes ≠ 0 → Yields (.portTrainingDone p true lanes) s fun t =>
      (getPort t p).state = 2 ∧ (getPort t p).width = BitVec.ofNat 2 (widthOf lanes) ∧ (getPort t p).lanes = lanes ∧
        (getPort t p).failedTrains = 0 ∧ (getPort t p).replay = satAdd x.replay (if x.sent = [] then 0 else 1) ∧
        (∃ l, t.out = s.out ++ (x.sent.map fun f => .flit p f.2) ++ l) ∧
        (∀ o, o ≠ p.val → getPort t o = getPort s o) ∧ t = { s with fab := { s.fab with ports := t.fab.ports }, out := t.out }) ∧
    (∀ (lanes : BitVec 4), mayTrain s = true → x.state = 1 → Yields (.portTrainingDone p false lanes) s fun t =>
      (x.failedTrains + 1 < 3 → getPort t p = { x with failedTrains := x.failedTrains + 1 }) ∧
        (3 ≤ x.failedTrains + 1 → getPort t p = { Port.reset with
            fec := x.fec, crc := x.crc, replay := x.replay, choices := x.choices,
            cong := if x.congested = true then satAdd x.cong 1 else x.cong } ∧
          (getFn t 0).mgmt = true ∧
          (s.desk.ready = true → (∀ o, o < 9 → portUp t o = false) → t.fab.alone = true ∧ t.fab.assigned = true ∧
            t.fab.routed = true ∧ t.fab.nodeId = 0)) ∧
        (∀ o, o ≠ p.val → getPort t o = getPort s o) ∧ t.mem = s.mem ∧ t.run = s.run) ∧
    (x.state = 2 → (if x.congested = true then 256 < sharedFree (reservedAny s) x else sharedFree (reservedAny s) x < 64) →
      Yields (.portCongested p) s fun t =>
        getPort t p = { x with congested := !x.congested, cong := satAdd x.cong 1 } ∧
          (∀ o, o ≠ p.val → getPort t o = getPort s o) ∧ t.mem = s.mem ∧ t.run = s.run ∧ t.desk = s.desk)

/-- Hellos name this node, and each goes out as a flit too; a candidate with a lower serial number, heard of in a hello or as a
manager that explores, takes the manager's place; 50 ms without one make a candidate the manager, which asks the nodes at its UP
ports who they are; a node that is no candidate and has heard none runs alone (rules R301 to R305). MGMT slips set the node's ID,
routes, time and ROUTED, and a slip that explores is answered on the port by which it came (rules R303, R306). Time from the parent:
the node sends its time on every UP port; one that joins sets its clock and logs the change, a joined one slews, and shows whether
it is within 40 ns; without synchronisation for 100 ms the node is LOST and stops slewing, and with the fabric as tick source C0
rounds lose the guarantee (rules R235, R253, R323 to R325). What a manager asks, what a node answers and when one with an ID runs
alone are the model's (log entry 77), as are the bytes of the hello and time flits (log entry 11), and SYNCED at 40 ns and the slew
(log entry 60). -/
def Obligations.ManagerAndTime : Prop :=
  (∀ (s : State), Tidy s →
      (Yields .helloSend s fun t =>
        let hello : Nat → Hello := fun p => { serial := serialNo, node := s.fab.nodeId, assigned := s.fab.assigned,
                                              port := BitVec.ofNat 4 p, candidate := s.fab.candidate, time := s.clk.now }
        t.out = s.out ++ (((List.range 9).filter (portUp s)).flatMap fun p =>
            [.hello p (hello p), ctlFlit s p (ctlData ctlHello (helloBody (hello p)))]) ∧
          (∀ p, p < 9 → portUp s p = true → (getPort t p).txSeq = (getPort s p).txSeq + 1) ∧
          (∀ p, 9 ≤ p ∨ portUp s p = false → getPort t p = getPort s p) ∧
          t = { s with fab := { s.fab with ports := t.fab.ports }, out := t.out }) ∧
      (∀ (p : Fin 9) (h : Hello), portUp s p = true → Yields (.helloMessage p h) s fun t =>
        getPort t p = { getPort s p with peerValid := h.assigned, peerNode := h.node } ∧
          t.fab.manager = (s.fab.manager && !(h.candidate && decide (h.serial.toNat < serialNo.toNat))) ∧
          (h.candidate = true → h.serial ∈ t.fab.heard) ∧ t.fab.nodeId = s.fab.nodeId ∧ t.fab.routes = s.fab.routes ∧
          t = { s with fab := t.fab }) ∧
      (s.fab.candidate = true → s.fab.manager = false → (∃ p ∈ List.range 9, portUp s p = true) →
        Yields .managerElectionTimeout s fun t =>
          if (s.fab.heard.all fun x => decide (serialNo.toNat ≤ x.toNat)) = true then
            t.fab.manager = true ∧ t.fab.assigned = true ∧ t.fab.routed = true ∧ t.fab.nodeId = managerId s ∧ t.fab.synced = true ∧
              t.fab.depth = 0 ∧ t.fab.heard = [] ∧ t.fab.alone = false ∧ routeEnt t (managerId s).toNat = 0x8000FFFF ∧
              (∀ p, p < 9 → portUp s p = true → Out.mgmt 0 (.explore serialNo 0xF [BitVec.ofNat 4 p] []) ∈ t.out) ∧
              t = { s with fab := t.fab, out := t.out }
          else t = { s with fab := { s.fab with heard := [], silent := s.fab.heard.isEmpty } }) ∧
      (s.fab.candidate = true → s.fab.manager = true → (∃ p ∈ List.range 9, portUp s p = true) →
        Yields .managerElectionTimeout s fun t =>
          t.fab.manager = true ∧ t.fab.heard = [] ∧ t.fab.nodeId = s.fab.nodeId ∧ t.fab.routes = s.fab.routes ∧
            (∀ p, p < 9 → portUp s p = true → Out.mgmt 0 (.explore serialNo 0xF [BitVec.ofNat 4 p] []) ∈ t.out) ∧
            t = { s with fab := t.fab, out := t.out }) ∧
      (s.fab.candidate = false → (∃ p ∈ List.range 9, portUp s p = true) → Yields .managerElectionTimeout s fun t =>
        if s.fab.heard = [] ∧ (s.fab.assigned = false ∨ s.fab.silent = true) then
          t.fab.alone = true ∧ t.fab.assigned = true ∧ t.fab.routed = true ∧ t.fab.nodeId = 0 ∧
            (∀ n, routeEnt t n = if n = 0 then 0x8000FFFF else 0x0000FFFF) ∧ t = { s with fab := t.fab }
        else t = { s with fab := { s.fab with heard := [], silent := s.fab.heard.isEmpty } }) ∧
      ((∃ p ∈ List.range 9, portUp s p = true) →
        (∀ node, Yields (.mgmtSlip (.assign node)) s fun t =>
          t.fab = { s.fab with assigned := true, alone := false, manager := false, nodeId := node, routes := t.fab.routes,
                               routed := s.fab.routed && !s.fab.alone } ∧ routeEnt t node.toNat = 0x8000FFFF ∧
            (∀ n, n ≠ node.toNat → routeEnt t n = if s.fab.alone = true then 0x0000FFFF else routeEnt s n) ∧
            t = { s with fab := t.fab }) ∧
        (Yields (.mgmtSlip .setRouted) s fun t => t = { s with fab := { s.fab with routed := true } }) ∧
        (∀ es, Yields (.mgmtSlip (.loadRoutes es)) s fun t =>
          routeEnt t s.fab.nodeId.toNat = 0x8000FFFF ∧ t = { s with fab := { s.fab with routes := t.fab.routes } } ∧
            ∀ n, n ≠ s.fab.nodeId.toNat → (∀ e ∈ es, e.1.toNat ≠ n) → routeEnt t n = 0x0000FFFF) ∧
        (∀ es, (es.map fun e => e.1).Nodup → Yields (.mgmtSlip (.loadRoutes es)) s fun t =>
          ∀ e ∈ es, e.1 ≠ s.fab.nodeId → routeEnt t e.1.toNat = (e.2 &&& 0x80FFFFFF).toNat) ∧
        (∀ mgr (entry : BitVec 4) path back, Yields (.mgmtSlip (.explore mgr entry path back)) s fun t =>
          let op := MgmtOp.identity path (helloOf s entry.toNat) (upPorts s)
          (∃ l, t.out = s.out ++ .mgmt 0 (if back = [] then op else .via back op) :: l) ∧ mgr ∈ t.fab.heard ∧
            t.fab.manager = (s.fab.manager && !decide (mgr.toNat < serialNo.toNat)) ∧
            t = { s with fab := { s.fab with ports := t.fab.ports, manager := t.fab.manager, heard := t.fab.heard }, out := t.out }) ∧
        (∀ p ps op, Yields (.mgmtSlip (.via (p :: ps) op)) s fun t =>
          (∃ l, t.out = s.out ++ .mgmt 0 (if ps = [] then op else .via ps op) :: l) ∧
            t = { s with fab := { s.fab with ports := t.fab.ports }, out := t.out }) ∧
        (∀ epoch n0 period, Yields (.mgmtSlip (.setTime epoch n0 period)) s fun t =>
          t = { s with tick := if s.tick.source = 2 then
              { s.tick with pend := some { source := 2, period := BitVec.ofNat 15 period, epoch := epoch, n0 := n0 } }
            else { s.tick with epoch := epoch, n0 := n0 } }))) ∧
  (∀ (s : State), Tidy s → s.fab.manager = false →
      (∀ (parent : W64) (depth : Nat), (∃ p ∈ List.range 9, portUp s p = true) →
        let d : Int := (parent.toNat : Int) - s.clk.now.toNat
        let sent := fun (t : State) => t.out = s.out ++ ((List.range 9).filter (portUp s)).map fun p =>
          ctlFlit s p (ctlData ctlTime (bytesOf 8 s.clk.now.toNat))
        (s.fab.joined = true → Yields (.timeSyncExchange parent depth) s fun t =>
          sent t ∧
          t = { s with clk := { s.clk with slew := d }, out := t.out,
                       fab := { s.fab with depth := BitVec.ofNat 8 depth, offset := BitVec.ofInt 16 (max (-32767) (min 32767 (-d))),
                                           synced := decide (-40 ≤ d ∧ d ≤ 40), ports := t.fab.ports } }) ∧
        (s.fab.joined = false → Yields (.timeSyncExchange parent depth) s fun t =>
          sent t ∧ t.clk = { s.clk with now := parent, slew := 0 } ∧ t.fab.joined = true ∧ t.fab.synced = true ∧ t.mem = s.mem ∧
            t.tick = { s.tick with last := moved d s.tick.last, made := moved d s.tick.made, edge := s.tick.edge.map (moved d) } ∧
            t.run = { s.run with tiles := s.run.tiles.map fun x => { x with waitFrom := x.waitFrom.map (moved d) } } ∧
            (∀ q, (getQ t q).rounds = (getQ s q).rounds ∧ (getQ t q).state = (getQ s q).state) ∧ t.tier = s.tier)) ∧
      (s.fab.joined = true → Yields .timeSyncLost s fun t =>
        t.fab = { s.fab with lost := true, synced := false } ∧ t.clk = { s.clk with slew := 0 } ∧
          t.tick = (if s.tick.source = 2 then { s.tick with lost := true, lossNext := true } else s.tick) ∧
          (s.tick.source = 2 → (getFn t 0).mgmt = true ∧ ∀ q, ∀ r ∈ (getQ t q).rounds, r.cls = 0 →
            r.state = .running ∨ r.state = .suspended → r.lostGuarantee = true) ∧ t.mem = s.mem ∧ t.run = s.run))

/-- A slip for another node leaves by the alternative that its flow keeps or takes afresh, and a fresh one is counted at its port;
with no UP alternative it is dropped and counted, and a node whose clock was never set sends none (rules R18, R306, R307, R309,
R323). That a forwarder keeps the flow's alternative is the model's (log entry 61). The slips of a flow that are not answered in
time go out again (rule R311). A unit of a tile that fails 8 retries on the Aisles ends its tile with UNCORRECTABLE, and its round
has lost the guarantee (Tables 10.3, 15.1). -/
def Obligations.SlipsLeave : Prop :=
  (∀ (sl : Slip) (s : State), Tidy s → sl.dest ≠ s.fab.nodeId →
    let key := (65536 * sl.src.toNat + sl.dest.toNat) * 8 + sl.vc.toNat
    let kept := tabGet none s.fab.fwd key
    let pick := pickAlt s (slipClass sl) sl.dest.toNat (kept.getD 0) kept.isSome
    (s.fab.joined = false → pick ≠ none → Yields (.slipForward sl) s fun t => t = s) ∧
    (pick = none → Yields (.slipForward sl) s fun t =>
      t = { s with fab := { s.fab with noRoute := satAdd s.fab.noRoute 1 } }) ∧
    (∀ i, s.fab.joined = true → pick = some i → Yields (.slipForward sl) s fun t =>
      let p := (routeAlts (routeEnt s sl.dest.toNat)).getD i 9
      (∃ l, t.out = s.out ++ .slip (some p) sl :: l) ∧
        (getPort t p).choices = (if slipClass sl = 0 ∨ keepsAlt s sl.dest.toNat (kept.getD 0) kept.isSome = true then (getPort s p).choices
          else satAdd (getPort s p).choices 1) ∧ (∀ o, o ≠ p → getPort t o = getPort s o) ∧
        (∀ k, tabGet none t.fab.fwd k = if k = key ∧ slipClass sl ≠ 0 then some i else tabGet none s.fab.fwd k) ∧
        t = { s with fab := { s.fab with ports := t.fab.ports, fwd := t.fab.fwd }, out := t.out })) ∧
  (∀ (dest : BitVec 16) (cls : BitVec 2) (s : State), Tidy s → (getTx s dest.toNat cls.toNat).open_ ≠ [] →
    Yields (.slipResendTimeout dest cls) s fun t =>
      t.fab.resends = satAdd s.fab.resends 1 ∧ (getTx t dest.toNat cls.toNat).open_ = (getTx s dest.toNat cls.toNat).open_ ∧
        (getTx t dest.toNat cls.toNat).seq = (getTx s dest.toNat cls.toNat).seq ∧ t = { s with fab := t.fab, out := t.out }) ∧
  (∀ (i : TileId) (n : Nat) (s : State) (x : Tile), Tidy s → findTile s i = some x →
    (n < 8 → Yields (.aislesUnitCrcFail i n) s (Settles s fun u => u = s)) ∧
    (8 ≤ n → x.phase ≠ .finished → Yields (.aislesUnitCrcFail i n) s (Settles s fun u =>
      (∃ y, findTile u i = some y ∧ y.phase = .finished ∧ y.status = 0x0B ∧ y.stamp = s.clk.now) ∧
        (∀ r ∈ (getQ u i.q).rounds, r.num = i.rnd → r.lostGuarantee = true) ∧ (∀ p, p ≠ i.q → getQ u p = getQ s p) ∧
        u.desk = { s.desk with queues := u.desk.queues } ∧ u.fab = (noteLate s [x]).fab ∧
        u.wr = [] ∧ u.tier = s.tier)))

/-- A request slip in its sequence is applied once and its answer is kept: WRITE stores its payload, ADD adds to 64 bits, READ
returns the bytes, when the folio lookup and the range are good; otherwise the answer has BAD_SHELFMARK and nothing is stored (rules
R310, R313, R316). No word of memory is damaged, and the folio does not move. -/
def Obligations.SlipsApplied : Prop :=
  ∀ (sl : Slip) (s : State), Tidy s → Undamaged s → sl.dest = s.fab.nodeId → fabricLive s = true →
    sl.seq = (getRx s sl.src.toNat (slipClass sl)).seq → sl.folio ≠ 0 → moveOf s sl.folio.toNat = none →
    let base := folioBase (getFolio s sl.folio.toNat) + sl.offset.toNat
    let answered := fun (u : State) (kind status : Nat) (data : List Byte) =>
      (getRx u sl.src.toNat (slipClass sl)).seq = sl.seq + 1 ∧
        ∃ a, (getRx u sl.src.toNat (slipClass sl)).answers.head? = some (sl.seq, a) ∧ a.dest = sl.src ∧ a.kind.toNat = kind ∧
          a.status.toNat = status ∧ a.payload = data ∧ a.seq = sl.seq ∧ a.tag = sl.tag
    let frame := fun (u : State) => u.desk = s.desk ∧ u.run = s.run ∧ u.tier = s.tier ∧ u.arrs = s.arrs ∧ u.rst = s.rst
    (sl.kind.toNat = kWrite →
      ((slipCheck s sl sl.payload.length).1 = 0 → Yields (.writeSlip sl []) s (Settles s fun u => answered u kAck 0 [] ∧ frame u ∧
        ∀ a, readByte u a = if base ≤ a ∧ a < base + sl.payload.length then sl.payload.getD (a - base) 0 else readByte s a)) ∧
      ((slipCheck s sl sl.payload.length).1 = 3 → Yields (.writeSlip sl []) s (Settles s fun u => answered u kAck 3 [] ∧ frame u ∧
        u.mem = s.mem ∧ u.wr = []))) ∧
    (sl.kind.toNat = kRead →
      ((slipCheck s sl sl.countLen.toNat).1 = 0 → Yields (.readSlip sl []) s (Settles s fun u =>
        answered u kReadData 0 (readMem s base sl.countLen.toNat) ∧ frame u ∧ u.mem = s.mem ∧ u.wr = [])) ∧
      ((slipCheck s sl sl.countLen.toNat).1 = 3 → Yields (.readSlip sl []) s (Settles s fun u =>
        answered u kReadData 3 [] ∧ frame u ∧ u.mem = s.mem ∧ u.wr = []))) ∧
    (sl.kind.toNat = kAdd →
      ((slipCheck s sl 8).1 = 0 → Yields (.addSlip sl []) s (Settles s fun u => answered u kAck 0 [] ∧ frame u ∧
        readMem u base 8 = bytesOf 8 ((natOf (readMem s base 8) + natOf (sl.payload.take 8)) % 2 ^ 64) ∧
        ∀ a, ¬ (base ≤ a ∧ a < base + 8) → readByte u a = readByte s a)) ∧
      ((slipCheck s sl 8).1 = 3 → Yields (.addSlip sl []) s (Settles s fun u => answered u kAck 3 [] ∧ frame u ∧
        u.mem = s.mem ∧ u.wr = [] ∧ u.fab.sigLost = if sl.countLen = 1 then satAdd s.fab.sigLost 1 else s.fab.sigLost)))

/-- A response releases its request, and the tile that sent it is one answer further (rules R311, R312); CTS grants a SEND (rule
R318). READ_DATA puts its bytes into the IN unit that the GET holds, and a slab that is whole goes out of it to operand C (rules
R123, R138, R319). An RTS waits; when a RECV that it is for has its turn, a CTS answers it: of the same byte count and hint it
grants the RECV, of another byte count it ends the RECV with BAD_FORMAT (rules R317, R318). Where an RTS carries its byte count and
hint, and that one which finds no RECV waits, are the model's (log entries 11, 36). -/
def Obligations.ResponsesAndRendezvous : Prop :=
  (∀ (sl : Slip) (s : State) (x : SentSlip) (y : Tile), Tidy s → sl.dest = s.fab.nodeId → sl.status = 0 →
    (getTx s sl.src.toNat (slipClass sl)).open_.find? (fun x => x.slip.seq == sl.seq) = some x → x.tile.bind (findTile s) = some y →
    x.ended = false → y.phase = .held → isFar x.slip = false →
    let released := fun (u : State) => ∀ z ∈ (getTx u sl.src.toNat (slipClass sl)).open_, z.slip.seq ≠ sl.seq
    (sl.kind.toNat = kAck → Yields (.ack sl) s (Settles s fun u => released u ∧ u.wr = [] ∧ u.desk = s.desk ∧ u.tier = s.tier ∧
      findTile u y.id = some { y with loan := { y.loan with acked := y.loan.acked + 1 }, waitFrom := some s.clk.now })) ∧
    (sl.kind.toNat = kCts → Yields (.cts sl) s (Settles s fun u => released u ∧ u.wr = [] ∧ u.desk = s.desk ∧ u.tier = s.tier ∧
      findTile u y.id =
        some { y with loan := { y.loan with granted := true, acked := y.loan.acked + 1 }, waitFrom := some s.clk.now })) ∧
    (∀ b, sl.kind.toNat = kReadData → Undamaged s → unitHeld s y = some b →
      let slab := slabNow y
      let pos := x.slip.offset.toNat - (dOff y.d 0 + dM0 y.d * rowBytes y.d) - slab.1
      let unit_ := carrelAddr y.w y.a b.off
      let got := y.loan.got + sl.payload.length
      (got < slab.1 + slab.2 → y.loan.asked = slab.1 + slab.2 → Yields (.readData sl) s (Settles s fun u =>
        released u ∧ u.desk = s.desk ∧ u.tier = s.tier ∧
          findTile u y.id =
            some { y with loan := { y.loan with got := got, acked := y.loan.acked + 1 }, waitFrom := some s.clk.now } ∧
          ∀ a, readByte u a = if unit_ + pos ≤ a ∧ a < unit_ + pos + sl.payload.length then sl.payload.getD (a - (unit_ + pos)) 0
            else readByte s a)) ∧
      (got = slab.1 + slab.2 → moveOf s (dFolio y.d 2) = none → Yields (.readData sl) s (Settles s fun u =>
        let at_ := folioBase (getFolio s (dFolio y.d 2)) + (dOff y.d 2 + dM0 y.d * rowBytes y.d + slab.1)
        let arrived := fun i => if pos ≤ i ∧ i < pos + sl.payload.length then sl.payload.getD (i - pos) 0 else readByte s (unit_ + i)
        u.desk = s.desk ∧ u.tier = s.tier ∧
          (∃ z, findTile u y.id = some z ∧ z.loan.got = got ∧ z.loan.acked = y.loan.acked + 1) ∧
          (∀ i, i < slab.2 → readByte u (at_ + i) = arrived i) ∧
          ∀ a, ¬ (at_ ≤ a ∧ a < at_ + slab.2) → ¬ (unit_ + pos ≤ a ∧ a < unit_ + pos + sl.payload.length) →
            readByte u a = readByte s a)))) ∧
  (∀ (sl : Slip) (s : State), Tidy s → sl.dest = s.fab.nodeId → sl.kind.toNat = kRts → fabricLive s = true →
    sl.seq = (getRx s sl.src.toNat (slipClass sl)).seq → isRing sl = false → Yields (.rts sl) s (Settles s fun u =>
      u.fab.rtsWait = s.fab.rtsWait ++ [sl] ∧ (getRx u sl.src.toNat (slipClass sl)).seq = sl.seq + 1 ∧ u.run = s.run ∧
        u.wr = [] ∧ u.desk = s.desk ∧ u.out = s.out ∧
        (s.fab.rtsWait = [] → recvFor u sl = none → matchRts u = u) ∧
        ∀ x, s.fab.rtsWait = [] → recvFor u sl = some x → findTile s x.id = some x →
          let same := decide (sl.countLen.toNat = loanBytes x.d)
          (same = true → sl.rank = 0 ∨ sl.rank = rankHint s (dFolio x.d 2) →
            findTile (matchRts u) x.id = some { x with loan := { x.loan with granted := true, rts := sl.seq }, waitFrom := some s.clk.now }) ∧
          (same = false → ∃ z, findTile (matchRts u) x.id = some z ∧ z.phase = .finished ∧ z.status = 1) ∧
          (matchRts u).fab.rtsWait = [] ∧
          ∃ c, (getRx (matchRts u) sl.src.toNat (slipClass sl)).answers.head? = some (sl.seq, c) ∧ c.kind.toNat = kCts ∧
            c.dest = sl.src ∧ c.seq = sl.seq ∧ c.tag = sl.tag ∧
            (same = true → sl.rank = 0 ∨ sl.rank = rankHint s (dFolio x.d 2) → c.status = 0) ∧ (same = false → c.status = 1)))

/-! ### Debug authorisation (chapter 16) -/

/-- APPLY lowers the level in every state and raises it in Open; elsewhere it is denied (rule R396). A submission snapshots the
token window (rule R398); its verification reports RESULT, takes the next nonce whatever the result, and a good token sets its level
(rule R397) or returns the device (rule R399). That an APPLY of the level in force answers OK outside Open is the model's (log
entries 65, 106), as is that waiting writes of an update reach the flash before the erase (log entry 117). -/
def Obligations.DebugLevels : Prop :=
  (∀ (v : W32) (s : State), Tidy s → barOpen s 0 = true → barHeld s = false → bit 2 v.toNat = true → bit 31 v.toNat = false →
    let n := bits 1 0 v.toNat
    (n = 3 → Yields (.debugLevelApply v) s fun t => t = { s with sec := { s.sec with result := 1 } }) ∧
    (n ≠ 3 → s.sec.state ≠ 0 → s.sec.level.toNat < n → Yields (.debugLevelApply v) s fun t =>
      t = { s with sec := { s.sec with result := 5 } }) ∧
    (n ≠ 3 → s.sec.state = 0 ∨ n ≤ s.sec.level.toNat → Yields (.debugLevelApply v) s fun t =>
      t.sec = { s.sec with level := BitVec.ofNat 2 n, result := 0 } ∧ t.mem = s.mem ∧ t.run = s.run ∧ t.tier = s.tier ∧
        (n ≠ s.sec.level.toNat → (getFn t 0).mgmt = true) ∧
        (n = 2 → s.sec.level ≠ 2 → ∀ q, ∀ r ∈ (getQ t q).rounds, r.cls = 0 → r.state = .running ∨ r.state = .suspended →
          r.lostGuarantee = true))) ∧
  (∀ (s : State), Tidy s → barOpen s 0 = true → barHeld s = false → s.sec.submit = false → Yields .tokenSubmit s fun t =>
    t = { s with sec := { s.sec with submit := true, viaBus := false, busToken := windowToken s } }) ∧
  (∀ (s : State), Tidy s → s.sec.submit = true → s.rst.episode = none → Yields .tokenVerifyDone s (Settles s fun u =>
    let res := tokenResult s s.sec.busToken
    let back := decide (res = 0 ∧ tokenByte s.sec.busToken 4 = 3)
    u.sec.submit = false ∧ u.sec.nonceNo = s.sec.nonceNo + 1 ∧ (back = false → u.sec.result = BitVec.ofNat 4 res) ∧
      u.sec.level = (if back = true then 0 else if res = 0 then BitVec.ofNat 2 (tokenByte s.sec.busToken 4) else s.sec.level) ∧
      u.sec.rpb = (if back = true then s.sec.rpb.map fun r => { r with state := 0, ownerHash := 0 } else s.sec.rpb) ∧
      u.vault = (if back = true then [] else s.vault) ∧
      (back = true → u.rst.episode.isSome = true ∧ u.flash = memClear (flashDrain s).flash 0xA000 0xC000) ∧ (back = false → u.rst = s.rst)))

/-! ### The management bus (chapter 17) -/

/-- Enumeration, ALERT_N, bus errors and the reassembly of messages (rules R410 to R414); SET_ENDPOINT_ID, SET_TID and the poll of
events (rules R414, R416, R417). Status 2 for the IDs 0 and 0xFF, and which messages are dropped beside those of rule R414, are the
model's (log entries 74, 75). -/
def Obligations.BusProtocol : Prop :=
  ∀ (s : State), Tidy s → busUp s = true →
    (∀ (a : BitVec 7) (d : Byte) (rate : BusRate), s.mgt.assigned = false → a = s.mgt.dflt → d.toNat % 2 = 0 →
      addrReserved (d.toNat / 2) = false →
      Yields (.addressCommand a d true true rate) s fun t =>
        t = { s with mgt := { s.mgt with enumIn := true, assigned := true, addr := BitVec.ofNat 7 (d.toNat / 2), enumOut := true,
                                         speed := rateCode rate } }) ∧
    (s.mgt.events ≠ [] → Yields (.alertResponse false) s
      (Says "ALERT_RESPONSE" 0 [(if s.mgt.assigned = true then s.mgt.addr else s.mgt.dflt).toNat] s)) ∧
    (Yields .smbusTimeout s fun t => t = { s with mgt := { s.mgt with timeouts := satAdd s.mgt.timeouts 1, retries := 0 } }) ∧
    (sendingAt s = none → Yields .arbitrationLost s fun t => t = s) ∧
    (∀ i, sendingAt s = some i → Yields .arbitrationLost s fun t =>
      let lost := if s.mgt.retryOf = i then s.mgt.retries else 0
      t = if lost < 3 then { s with mgt := { s.mgt with retries := lost + 1, retryOf := i } }
        else { s with mgt := { s.mgt with retries := 0, retryOf := i, arbDrops := satAdd s.mgt.arbDrops 1 },
                      out := s.out.eraseIdx i }) ∧
    (s.mgt.serving = true → s.mgt.assigned = true →
      (∀ (p : MctpPkt) rate, p.pecOk = false → Yields (.mctpPacket p rate) s fun t =>
        t = { s with mgt := { s.mgt with pecErrs := satAdd s.mgt.pecErrs 1, speed := rateCode rate } }) ∧
      (∀ (p : MctpPkt) rate, p.pecOk = true → p.som = true → p.eom = false → p.msgType.toNat ∈ [0x00, 0x01, 0x05, 0x7E] →
        p.body.length ≤ 1088 → (s.mgt.reasm.filter fun x => !(x.src == p.src && x.msgTag == p.msgTag)).length < 4 →
        Yields (.mctpPacket p rate) s fun t =>
          t = { s with mgt := { s.mgt with speed := rateCode rate, reasm := (s.mgt.reasm.filter fun x => !(x.src == p.src && x.msgTag == p.msgTag)) ++
            [{ src := p.src, msgTag := p.msgTag, msgType := p.msgType, body := p.body }] } }) ∧
      (∀ (p : MctpPkt) rate, p.pecOk = true → p.som = true → 4 ≤ (s.mgt.reasm.filter fun x => !(x.src == p.src && x.msgTag == p.msgTag)).length →
        Yields (.mctpPacket p rate) s fun t => t.mgt.msgDrops = satAdd s.mgt.msgDrops 1 ∧ t = { s with mgt := t.mgt }) ∧
      (∀ e : Byte, Yields (.setEndpointId e) s
        (if e = 0 ∨ e = 0xFF then Says "SET_ENDPOINT_ID" 2 [] s
         else Says "SET_ENDPOINT_ID" 0 [e.toNat] { s with mgt := { s.mgt with eid := e } })) ∧
      (∀ e : Byte, Yields (.setTid e) s
        (if e = 0 ∨ e = 0xFF then Says "SET_TID" 2 [] s else Says "SET_TID" 0 [] { s with mgt := { s.mgt with tid := e } })) ∧
      (∀ ack, let es := if ack = true then s.mgt.events.drop 1 else s.mgt.events
        Yields (.pollForPlatformEventMessage ack) s (Says "POLL_FOR_PLATFORM_EVENT_MESSAGE" 0
          (match es with
           | [] => []
           | e :: _ => e.code.toNat :: byteData (bytesOf 4 e.data.toNat ++ bytesOf 8 e.stamp.toNat))
          { s with mgt := { s.mgt with events := es } })))

/-- The queries of MCTP, SPDM and PLDM answer and change nothing but, where the manual states no value, the count of free values;
the codes of the standards that the manual does not give, the versions and the thresholds are the model's (log entries 10, 11, 75),
and so is the serial number in QUERY_DEVICE_IDENTIFIERS (log entry 106). A device that does not serve refuses them (rule R411), and
without an identity no SPDM request is answered (rule R385). -/
def Obligations.ManagementQueries : Prop :=
  ∀ (s : State), Tidy s →
    (Served s →
      (∀ c ∈ [(Instr.getEndpointId, "GET_ENDPOINT_ID", [s.mgt.eid.toNat]),
          (.getMessageTypeSupport, "GET_MESSAGE_TYPE_SUPPORT", [4, 0x00, 0x01, 0x05, 0x7E]),
          (.getVendorDefinedMessageSupport, "GET_VENDOR_DEFINED_MESSAGE_SUPPORT", [0xFF, 0, 0x1FC7]),
          (.getTid, "GET_TID", [s.mgt.tid.toNat]), (.getPldmTypes, "GET_PLDM_TYPES", [0x25]),
          (.getPdrRepositoryInfo, "GET_PDR_REPOSITORY_INFO", [Config.pdrCount]),
          (.getFirmwareParameters, "GET_FIRMWARE_PARAMETERS",
            [1, 2, 3, s.desk.fwMajor.toNat, s.desk.fwMinor.toNat, s.desk.fwBuild.toNat]),
          (.getNonce, "GET_NONCE", byteData (bytesOf 32 (Config.nonce s.sec.nonceNo).toNat)),
          (.getStateSensorReadings 7, "GET_STATE_SENSOR_READINGS", [pstateCode s.pwr.state]),
          (.getStateSensorReadings 14, "GET_STATE_SENSOR_READINGS", [s.sec.state.toNat, s.sec.level.toNat]),
          (.getSensorReading 1, "GET_SENSOR_READING",
            [1, s.pwr.avg1ms.toNat, if s.pwr.capInForce.toNat ≤ s.pwr.avg1ms.toNat then 1 else 0]),
          (.getSensorReading 2, "GET_SENSOR_READING", [1, s.pwr.dieC.toNat,
            if 115 ≤ s.pwr.dieC.toNat then 3 else if 105 ≤ s.pwr.dieC.toNat then 2 else if 100 ≤ s.pwr.dieC.toNat then 1 else 0]),
          (.getSensorReading 3, "GET_SENSOR_READING",
            [1, s.pwr.hbmC.toNat, if 95 ≤ s.pwr.hbmC.toNat then 2 else if 90 ≤ s.pwr.hbmC.toNat then 1 else 0]),
          (.getSensorReading 4, "GET_SENSOR_READING", [1, s.pwr.aclkMhz.toNat, 0]),
          (.getSensorReading 5, "GET_SENSOR_READING", [1, s.pwr.vcoreMv.toNat, 0]),
          (.getSensorReading 6, "GET_SENSOR_READING", [1, s.pwr.capInForce.toNat, 0]),
          (.getSensorReading 10, "GET_SENSOR_READING", [1, s.rel.totalUe % 2 ^ 32, if 1 ≤ s.rel.totalUe then 1 else 0]),
          (.getSensorReading 11, "GET_SENSOR_READING", [1, larrays s, if larrays s < 1024 then 1 else 0]),
          (.getSensorReading 13, "GET_SENSOR_READING", [1, s.tier.depGib, 0]),
          (.getPldmCommands 0, "GET_PLDM_COMMANDS", [0x01, 0x02, 0x03, 0x04, 0x05]),
          (.getPldmCommands 2, "GET_PLDM_COMMANDS", [0x0B, 0x11, 0x21, 0x50, 0x51]),
          (.getPldmCommands 5, "GET_PLDM_COMMANDS",
            [0x01, 0x02, 0x10, 0x13, 0x14, 0x15, 0x16, 0x17, 0x18, 0x1A, 0x1B, 0x1D])], Yields c.1 s (Says c.2.1 0 c.2.2 s)) ∧
      (Yields .queryDeviceIdentifiers s
        (if s.sec.pufFail = true then
          Says "QUERY_DEVICE_IDENTIFIERS" 0 [0x1FC7, 0x1040, Config.free s.freeCtr % 2 ^ 64] { s with freeCtr := s.freeCtr + 1 }
         else Says "QUERY_DEVICE_IDENTIFIERS" 0 [0x1FC7, 0x1040, serialNo.toNat] s)) ∧
      (∀ t : Byte, Yields (.getMctpVersionSupport t) s
        (if t = 0 ∨ t = 0xFF then Says "GET_MCTP_VERSION_SUPPORT" 0 [1, 0xF1F3F100] s
         else if t = 0x01 ∨ t = 0x05 ∨ t = 0x7E then
           Says "GET_MCTP_VERSION_SUPPORT" 0 [1, Config.free s.freeCtr] { s with freeCtr := s.freeCtr + 1 }
         else Says "GET_MCTP_VERSION_SUPPORT" 0x80 [] s)) ∧
      (∀ h, Yields (.getPdr h) s
        (if max h 1 ≤ Config.pdrCount then Says "GET_PDR" 0 (byteData (Config.pdr (max h 1))) s else Says "GET_PDR" 0x82 [] s)) ∧
      (∀ t : Byte, Yields (.getPldmVersion t) s
        (if t = 0 ∨ t = 2 ∨ t = 5 then Says "GET_PLDM_VERSION" 0 [Config.free s.freeCtr] { s with freeCtr := s.freeCtr + 1 }
         else Says "GET_PLDM_VERSION" 0x83 [] s)) ∧
      (∀ i, Yields (.getSensorReading i) s fun t => t = { s with out := t.out } ∧ t.out.length = s.out.length + 1) ∧
      (s.sec.pufFail = false →
        (∀ c ∈ [(Instr.getEndpointUuid, "GET_ENDPOINT_UUID", byteData (((bytesOf 48 Config.deviceId.toNat).drop 8).take 16)),
            (.spdmGetVersion, "SPDM_GET_VERSION", [0x12]), (.spdmGetCapabilities, "SPDM_GET_CAPABILITIES", [0x16]),
            (.spdmNegotiateAlgorithms, "SPDM_NEGOTIATE_ALGORITHMS", [0x80, 0x02]),
            (.spdmGetDigests, "SPDM_GET_DIGESTS",
              0x01 :: byteData (bytesOf 48 (Config.sha384 (memBytes 0xFF s.flash 0x10000 0x10000)).toNat)),
            (.spdmGetMeasurements 0 false [], "SPDM_GET_MEASUREMENTS", [5]),
            (.spdmGetMeasurements 4 false [], "SPDM_GET_MEASUREMENTS",
              [s.sec.state.toNat, s.sec.level.toNat, s.rst.code.toNat, b2n s.rst.safe + 2 * b2n (pertActive s)])],
          Yields c.1 s (Says c.2.1 0 c.2.2 s)) ∧
        (∀ (nonce : List Byte) (signed : Bool),
          ∀ b ∈ [(2, bytesOf 48 s.sec.fwDigest.toNat), (3, bytesOf 48 s.sec.optDigest.toNat)],
            Yields (.spdmGetMeasurements (BitVec.ofNat 8 b.1) signed nonce) s (Says "SPDM_GET_MEASUREMENTS" 0
              (byteData (if signed = true then b.2 ++ Config.signIdk (nonce ++ b.2) else b.2)) s)) ∧
        (∀ off len, off < 0x10000 →
          let part := ((memBytes 0xFF s.flash 0x10000 0x10000).drop off).take len
          Yields (.spdmGetCertificate 0 off len) s
            (Says "SPDM_GET_CERTIFICATE" 0 ([part.length, 0x10000 - off - part.length] ++ byteData part) s)) ∧
        (∀ nonce, Yields (.spdmChallenge 0 nonce) s fun t =>
          let body := bytesOf 48 (Config.sha384 (memBytes 0xFF s.flash 0x10000 0x10000)).toNat ++ bytesOf 32 (Config.free s.freeCtr)
          Says "SPDM_CHALLENGE" 0 (byteData (body ++ Config.signIdk (nonce ++ body))) { s with freeCtr := s.freeCtr + 1 } t))) ∧
    (¬ Served s → ∀ c ∈ [(Instr.getTid, "GET_TID"), (.spdmGetVersion, "SPDM_GET_VERSION"), (.getNonce, "GET_NONCE"),
        (.requestUpdate, "REQUEST_UPDATE")], Yields c.1 s fun t => t = { s with out := s.out ++ [.nack c.2] }) ∧
    (Served s → s.sec.pufFail = true → ∀ c ∈ [Instr.spdmGetVersion, .spdmGetDigests, .spdmChallenge 0 []], Yields c s fun t => t = s)

/-- A firmware update: it begins once, learns its components, erases copy B of each and programs the blocks that come; a component
that verifies is copied to copy A, which is verified; ACTIVATE_FIRMWARE and CANCEL_UPDATE end it (rules R419, R420). The writes of
an update wait for the flash until it is asked for something else (rule R431); that they wait so long, and what an area holds as
verification finds it, are the model's (log entry 117), as are the status 0x81 (log entry 75) and the words of GET_STATUS (log entry
11). -/
def Obligations.FirmwareUpdate : Prop :=
  ∀ (s : State), Tidy s → Served s →
    (s.mgt.update = none → Yields .requestUpdate s (Says "REQUEST_UPDATE" 0 []
      { s with mgt := { s.mgt with update := some { component := none, size := 0, got := 0, table := [], verified := [] } } })) ∧
    (Yields .getStatus s (Says "GET_STATUS" 0 (match s.mgt.update with
      | none => [0]
      | some u => [if u.component.isSome then 3 else if u.table.isEmpty then 1 else 2, u.got, u.size]) s)) ∧
    ∀ u, s.mgt.update = some u →
      let w := flashDrain s
      (w.mgt = { s.mgt with flashQ := [] } ∧
        w = { s with flash := w.flash, mgt := w.mgt, out := w.out, sec := { s.sec with areas := w.sec.areas } }) ∧
      (Yields .requestUpdate s (Says "REQUEST_UPDATE" 0x81 [] s)) ∧
      (Yields .cancelUpdate s (Says "CANCEL_UPDATE" 0 [] { w with mgt := { w.mgt with update := none } })) ∧
      (∀ c a b n, u.component = none → flashArea c.toNat = some (a, b, n) → c ∉ u.table → Yields (.passComponentTable c) s
        (Says "PASS_COMPONENT_TABLE" 0 [] { s with mgt := { s.mgt with update := some { u with table := u.table ++ [c] } } })) ∧
      (∀ c size a b n, u.component = none → flashArea c.toNat = some (a, b, n) → c ∈ u.table → 0 < size → size ≤ n →
        Yields (.updateComponent c size) s fun t =>
          let u' : Update := { u with component := some c, size := size, got := 0, verified := u.verified.filter fun x => x != c }
          Says "UPDATE_COMPONENT" 0 [] { w with mgt := { w.mgt with flashQ := [.erase b n], update := some u' } } t ∧
            (flashDrain t).flash = memClear w.flash b (b + n)) ∧
      (∀ c a b n block good found copyOk, u.component = some c → flashArea c.toNat = some (a, b, n) →
        block.length = min 1024 (u.size - u.got) →
        (u.got + block.length ≠ u.size → Yields (.requestFirmwareData block good found copyOk) s fun t =>
          let u' : Update := { u with got := u.got + block.length }
          Says "REQUEST_FIRMWARE_DATA" 0 [u.got, block.length]
              { w with mgt := { w.mgt with flashQ := [.program (b + u.got) block], update := some u' } } t ∧
            (flashDrain t).flash = memPut 0xFF w.flash (b + u.got) block) ∧
        (u.got + block.length = u.size → Yields (.requestFirmwareData block good found copyOk) s fun t =>
          let whole := memPut 0xFF w.flash (b + u.got) block
          let ok := copyGood { w with flash := whole } c.toNat b n good found
          let u' : Update := { component := none, size := 0, got := 0, table := u.table,
                               verified := if (ok && copyOk) = true then u.verified ++ [c] else u.verified }
          t.flash = (if ok = true then flashCopy whole b a n else whole) ∧
            t.sec = { s.sec with areas := t.sec.areas } ∧ (ok = false → t.sec.areas = w.sec.areas) ∧
            (ok = true → t.sec.areas.lookup b = some found ∧ t.sec.areas.lookup a = some (if copyOk = true then found else none)) ∧
            t.mgt = { s.mgt with flashQ := [], update := some u' } ∧
            t = { s with flash := t.flash, mgt := t.mgt, sec := t.sec, out := t.out })) ∧
      (u.component = none → u.table ≠ [] → (∀ c ∈ u.table, c ∈ u.verified) → Yields .activateFirmware s
        (Says "ACTIVATE_FIRMWARE" 0 []
          { w with sec := { w.sec with vaultFw := none, vaultOpt := none }, mgt := { w.mgt with update := none } }))

/-- The vendor-defined commands at the level that Table 17.5 asks: registers, memory, cores, reset, log, power and tokens; below
that level they are denied and have no effect (rules R395, R401, R418). Where the fill of a Wing is still to come, a message that
names its memory is held and takes effect after it (rule R209; log entry 105). The numbers of the statuses (log entry 11), and that
a STEP leaves a core as it was (log entry 76), are the model's. -/
def Obligations.VendorCommands : Prop :=
  ∀ (s : State), Tidy s → Served s →
    (∀ (token : List Byte), token.length = 256 → s.sec.submit = false → Yields (.submitToken token) s fun t =>
      t = { s with sec := { s.sec with submit := true, viaBus := true, busToken := token } }) ∧
    (∀ (req : BitVec 2), Yields (.powerReq req) s fun t =>
      t.out = (powerRequest req.toNat s).out ++ [.reply "POWER_REQ" 0 [t.pwr.result.toNat]] ∧ t.pwr = (powerRequest req.toNat s).pwr ∧
        t.mem = s.mem ∧ t.desk = s.desk ∧ t.tier = s.tier) ∧
    (s.sec.level ≠ 0 →
      (∀ off : BitVec 26, 0x1000 ≤ off.toNat → off.toNat < 0x20000 → Yields (.regRead off []) s (Says "REG_READ" 0 [0] s)) ∧
      (∀ i : Fin 16, Yields (.regRead (BitVec.ofNat 26 (0x200100 + 4 * i)) []) s
        (Says "REG_READ" 0 [(tabGet 0 s.rst.backup i).toNat] s)) ∧
      (∀ first count, 0 < count → count ≤ 32 → (∀ i, i < count → s.rel.logHead.toNat ≤ first + i) → Yields (.logRead first count []) s
        (Says "LOG_READ" 0 [] s)) ∧
      (∀ first, s.ecc.ce = [] → s.ecc.ue = [] → first < s.rel.logHead.toNat → s.rel.logHead.toNat ≤ first + 2 ^ 21 → dark s = false →
        Yields (.logRead first 1 []) s (Says "LOG_READ" 0 (byteData (readMem s (logBase + 32 * (first % 2 ^ 21)) 32)) s)) ∧
      (s.rst.episode = none → s.rst.bringup = none → s.rst.l3Wings = [] → Yields (.reset false) s (Settles s fun u =>
        Begun s u 2 { Sources.none with dbg := true } false))) ∧
    (s.sec.level = 0 → ∀ c ∈ [(Instr.regRead 0 [], "REG_READ"), (.logRead 0 1 [], "LOG_READ"), (.coreCtl 0 .halt, "CORE_CTL"),
        (.vdmMemRead 0 8 [], "MEM_READ")], Yields c.1 s (Says c.2 1 [] s)) ∧
    (s.sec.level = 2 →
      (∀ (i : Fin 16) (v : W32), Yields (.regWrite (BitVec.ofNat 26 (0x200100 + 4 * i)) v []) s (Settles s
        (Says "REG_WRITE" 0 [] { s with rst := { s.rst with backup := tabSet 0 s.rst.backup i v } }))) ∧
      (∀ (core : Fin 4) (op : CoreOp), Yields (.coreCtl core op) s (Says "CORE_CTL" 0 []
        { s with sec := { s.sec with halted := match op with
          | .halt => s.sec.halted ||| BitVec.ofNat 4 (2 ^ core.val)
          | .step => s.sec.halted
          | .resume => s.sec.halted &&& ~~~BitVec.ofNat 4 (2 ^ core.val) } })) ∧
      (∀ (a : BitVec 44) (n : Nat), Undamaged s → 8 ≤ n → n ≤ 1024 → a.toNat + n ≤ 0x07FF0000000 → dark s = false →
        Yields (.vdmMemRead a n []) s (Says "MEM_READ" 0 (byteData (readMem s a.toNat n)) s)) ∧
      (∀ (a : BitVec 44) (data : List Byte) (portA : List (Nat × W64)), Undamaged s → 8 ≤ data.length → data.length ≤ 1024 →
        a.toNat + data.length ≤ 0x07FF0000000 → dark s = false → Yields (.vdmMemWrite a data portA) s (Settles s fun u =>
          u = { s with wr := u.wr, out := s.out ++ [.reply "MEM_WRITE" 0 []] } ∧
            ∀ b, readByte u b = if a.toNat ≤ b ∧ b < a.toNat + data.length then data.getD (b - a.toNat) 0 else readByte s b)))

/-! ### The whole block -/

/-- Every command answers a next state, leaves the commands that wait alone and leaves no store behind: no command stops the block.
The queue of the commands is the model's (log entry 1). -/
def Obligations.EveryCommandAnswers : Prop :=
  ∀ (c : Instr) (s : State), ∃ t, exec c s = .next t ∧ t.pending = s.pending ∧ t.wr = []

/-- Between commands the device memory is in its canonical form and no store is left, whatever the commands are. -/
def Obligations.StepKeepsTidy : Prop :=
  (∀ (s t : State), Tidy s → step s = .next t → Tidy t) ∧ ∀ (s : State), Reachable s → Tidy s

/-- The block right after an L0 reset: tidy, memory all zeros, no command, no queue, no folio, bring-up of level L0 ahead, and the
values of the Reset columns. What the manual gives no value is the model's choice (notes/assumptions/4, 5). -/
def Obligations.ResetState : Prop :=
  let s := State.reset
  Tidy s ∧ s.pending = [] ∧ (∀ a, readByte s a = 0) ∧ s.rst.bringup = some 0 ∧ s.rst.episode = none ∧ s.desk.ready = false ∧
    (∀ q, (getQ s q).state = 0) ∧ (∀ f, (getFolio s f).valid = false) ∧ s.clk.now = 0 ∧ s.sec.level = 0 ∧
    (∀ f k, (getMb s f k).state = 0) ∧ (∀ p, (getPort s p).state = 0) ∧ (∀ n, routeEnt s n = 0x0000FFFF) ∧
    (∀ off ∈ [0x20000, 0x200000, 0x202004, 0x300018, 0x400000, 0x50000C], regValue s off = 0) ∧
    regValue s 0x20200 = 0x10401100 ∧ regValue s 0x200008 = 2 ∧ regValue s 0x300008 = 65536 * 1400 + 1400 ∧
    regValue s 0x400020 = 0xFFFF ∧ s.mgt.dflt = 0x5C
end

