-- ==== Sys2Proof/Laws/State.lean ====
section
/-! SUPPORT. One law per part of the state per update: the part set holds the new value, every other part its old one. -/

set_option Elab.async false

namespace Sys2Proof.Machine

variable (s t : State)

/-! ### setOut -/

@[simp] theorem State.setOut_pending (x : List Out) : (s.setOut x).pending = s.pending := rfl
@[simp] theorem State.setOut_out (x : List Out) : (s.setOut x).out = x := rfl
@[simp] theorem State.setOut_wr (x : List Out) : (s.setOut x).wr = s.wr := rfl
@[simp] theorem State.setOut_freeCtr (x : List Out) : (s.setOut x).freeCtr = s.freeCtr := rfl
@[simp] theorem State.setOut_clk (x : List Out) : (s.setOut x).clk = s.clk := rfl
@[simp] theorem State.setOut_tick (x : List Out) : (s.setOut x).tick = s.tick := rfl
@[simp] theorem State.setOut_adm (x : List Out) : (s.setOut x).adm = s.adm := rfl
@[simp] theorem State.setOut_desk (x : List Out) : (s.setOut x).desk = s.desk := rfl
@[simp] theorem State.setOut_run (x : List Out) : (s.setOut x).run = s.run := rfl
@[simp] theorem State.setOut_units (x : List Out) : (s.setOut x).units = s.units := rfl
@[simp] theorem State.setOut_arrs (x : List Out) : (s.setOut x).arrs = s.arrs := rfl
@[simp] theorem State.setOut_wings (x : List Out) : (s.setOut x).wings = s.wings := rfl
@[simp] theorem State.setOut_mem (x : List Out) : (s.setOut x).mem = s.mem := rfl
@[simp] theorem State.setOut_ecc (x : List Out) : (s.setOut x).ecc = s.ecc := rfl
@[simp] theorem State.setOut_banks (x : List Out) : (s.setOut x).banks = s.banks := rfl
@[simp] theorem State.setOut_inv (x : List Out) : (s.setOut x).inv = s.inv := rfl
@[simp] theorem State.setOut_vault (x : List Out) : (s.setOut x).vault = s.vault := rfl
@[simp] theorem State.setOut_flash (x : List Out) : (s.setOut x).flash = s.flash := rfl
@[simp] theorem State.setOut_tier (x : List Out) : (s.setOut x).tier = s.tier := rfl
@[simp] theorem State.setOut_fab (x : List Out) : (s.setOut x).fab = s.fab := rfl
@[simp] theorem State.setOut_rst (x : List Out) : (s.setOut x).rst = s.rst := rfl
@[simp] theorem State.setOut_pwr (x : List Out) : (s.setOut x).pwr = s.pwr := rfl
@[simp] theorem State.setOut_rel (x : List Out) : (s.setOut x).rel = s.rel := rfl
@[simp] theorem State.setOut_sec (x : List Out) : (s.setOut x).sec = s.sec := rfl
@[simp] theorem State.setOut_pcie (x : List Out) : (s.setOut x).pcie = s.pcie := rfl
@[simp] theorem State.setOut_mgt (x : List Out) : (s.setOut x).mgt = s.mgt := rfl

/-! ### setWr -/

@[simp] theorem State.setWr_pending (x : List MemOp) : (s.setWr x).pending = s.pending := rfl
@[simp] theorem State.setWr_out (x : List MemOp) : (s.setWr x).out = s.out := rfl
@[simp] theorem State.setWr_wr (x : List MemOp) : (s.setWr x).wr = x := rfl
@[simp] theorem State.setWr_freeCtr (x : List MemOp) : (s.setWr x).freeCtr = s.freeCtr := rfl
@[simp] theorem State.setWr_clk (x : List MemOp) : (s.setWr x).clk = s.clk := rfl
@[simp] theorem State.setWr_tick (x : List MemOp) : (s.setWr x).tick = s.tick := rfl
@[simp] theorem State.setWr_adm (x : List MemOp) : (s.setWr x).adm = s.adm := rfl
@[simp] theorem State.setWr_desk (x : List MemOp) : (s.setWr x).desk = s.desk := rfl
@[simp] theorem State.setWr_run (x : List MemOp) : (s.setWr x).run = s.run := rfl
@[simp] theorem State.setWr_units (x : List MemOp) : (s.setWr x).units = s.units := rfl
@[simp] theorem State.setWr_arrs (x : List MemOp) : (s.setWr x).arrs = s.arrs := rfl
@[simp] theorem State.setWr_wings (x : List MemOp) : (s.setWr x).wings = s.wings := rfl
@[simp] theorem State.setWr_mem (x : List MemOp) : (s.setWr x).mem = s.mem := rfl
@[simp] theorem State.setWr_ecc (x : List MemOp) : (s.setWr x).ecc = s.ecc := rfl
@[simp] theorem State.setWr_banks (x : List MemOp) : (s.setWr x).banks = s.banks := rfl
@[simp] theorem State.setWr_inv (x : List MemOp) : (s.setWr x).inv = s.inv := rfl
@[simp] theorem State.setWr_vault (x : List MemOp) : (s.setWr x).vault = s.vault := rfl
@[simp] theorem State.setWr_flash (x : List MemOp) : (s.setWr x).flash = s.flash := rfl
@[simp] theorem State.setWr_tier (x : List MemOp) : (s.setWr x).tier = s.tier := rfl
@[simp] theorem State.setWr_fab (x : List MemOp) : (s.setWr x).fab = s.fab := rfl
@[simp] theorem State.setWr_rst (x : List MemOp) : (s.setWr x).rst = s.rst := rfl
@[simp] theorem State.setWr_pwr (x : List MemOp) : (s.setWr x).pwr = s.pwr := rfl
@[simp] theorem State.setWr_rel (x : List MemOp) : (s.setWr x).rel = s.rel := rfl
@[simp] theorem State.setWr_sec (x : List MemOp) : (s.setWr x).sec = s.sec := rfl
@[simp] theorem State.setWr_pcie (x : List MemOp) : (s.setWr x).pcie = s.pcie := rfl
@[simp] theorem State.setWr_mgt (x : List MemOp) : (s.setWr x).mgt = s.mgt := rfl

/-! ### setFreeCtr -/

@[simp] theorem State.setFreeCtr_pending (x : Nat) : (s.setFreeCtr x).pending = s.pending := rfl
@[simp] theorem State.setFreeCtr_out (x : Nat) : (s.setFreeCtr x).out = s.out := rfl
@[simp] theorem State.setFreeCtr_wr (x : Nat) : (s.setFreeCtr x).wr = s.wr := rfl
@[simp] theorem State.setFreeCtr_freeCtr (x : Nat) : (s.setFreeCtr x).freeCtr = x := rfl
@[simp] theorem State.setFreeCtr_clk (x : Nat) : (s.setFreeCtr x).clk = s.clk := rfl
@[simp] theorem State.setFreeCtr_tick (x : Nat) : (s.setFreeCtr x).tick = s.tick := rfl
@[simp] theorem State.setFreeCtr_adm (x : Nat) : (s.setFreeCtr x).adm = s.adm := rfl
@[simp] theorem State.setFreeCtr_desk (x : Nat) : (s.setFreeCtr x).desk = s.desk := rfl
@[simp] theorem State.setFreeCtr_run (x : Nat) : (s.setFreeCtr x).run = s.run := rfl
@[simp] theorem State.setFreeCtr_units (x : Nat) : (s.setFreeCtr x).units = s.units := rfl
@[simp] theorem State.setFreeCtr_arrs (x : Nat) : (s.setFreeCtr x).arrs = s.arrs := rfl
@[simp] theorem State.setFreeCtr_wings (x : Nat) : (s.setFreeCtr x).wings = s.wings := rfl
@[simp] theorem State.setFreeCtr_mem (x : Nat) : (s.setFreeCtr x).mem = s.mem := rfl
@[simp] theorem State.setFreeCtr_ecc (x : Nat) : (s.setFreeCtr x).ecc = s.ecc := rfl
@[simp] theorem State.setFreeCtr_banks (x : Nat) : (s.setFreeCtr x).banks = s.banks := rfl
@[simp] theorem State.setFreeCtr_inv (x : Nat) : (s.setFreeCtr x).inv = s.inv := rfl
@[simp] theorem State.setFreeCtr_vault (x : Nat) : (s.setFreeCtr x).vault = s.vault := rfl
@[simp] theorem State.setFreeCtr_flash (x : Nat) : (s.setFreeCtr x).flash = s.flash := rfl
@[simp] theorem State.setFreeCtr_tier (x : Nat) : (s.setFreeCtr x).tier = s.tier := rfl
@[simp] theorem State.setFreeCtr_fab (x : Nat) : (s.setFreeCtr x).fab = s.fab := rfl
@[simp] theorem State.setFreeCtr_rst (x : Nat) : (s.setFreeCtr x).rst = s.rst := rfl
@[simp] theorem State.setFreeCtr_pwr (x : Nat) : (s.setFreeCtr x).pwr = s.pwr := rfl
@[simp] theorem State.setFreeCtr_rel (x : Nat) : (s.setFreeCtr x).rel = s.rel := rfl
@[simp] theorem State.setFreeCtr_sec (x : Nat) : (s.setFreeCtr x).sec = s.sec := rfl
@[simp] theorem State.setFreeCtr_pcie (x : Nat) : (s.setFreeCtr x).pcie = s.pcie := rfl
@[simp] theorem State.setFreeCtr_mgt (x : Nat) : (s.setFreeCtr x).mgt = s.mgt := rfl

/-! ### setClk -/

@[simp] theorem State.setClk_pending (x : Clk) : (s.setClk x).pending = s.pending := rfl
@[simp] theorem State.setClk_out (x : Clk) : (s.setClk x).out = s.out := rfl
@[simp] theorem State.setClk_wr (x : Clk) : (s.setClk x).wr = s.wr := rfl
@[simp] theorem State.setClk_freeCtr (x : Clk) : (s.setClk x).freeCtr = s.freeCtr := rfl
@[simp] theorem State.setClk_clk (x : Clk) : (s.setClk x).clk = x := rfl
@[simp] theorem State.setClk_tick (x : Clk) : (s.setClk x).tick = s.tick := rfl
@[simp] theorem State.setClk_adm (x : Clk) : (s.setClk x).adm = s.adm := rfl
@[simp] theorem State.setClk_desk (x : Clk) : (s.setClk x).desk = s.desk := rfl
@[simp] theorem State.setClk_run (x : Clk) : (s.setClk x).run = s.run := rfl
@[simp] theorem State.setClk_units (x : Clk) : (s.setClk x).units = s.units := rfl
@[simp] theorem State.setClk_arrs (x : Clk) : (s.setClk x).arrs = s.arrs := rfl
@[simp] theorem State.setClk_wings (x : Clk) : (s.setClk x).wings = s.wings := rfl
@[simp] theorem State.setClk_mem (x : Clk) : (s.setClk x).mem = s.mem := rfl
@[simp] theorem State.setClk_ecc (x : Clk) : (s.setClk x).ecc = s.ecc := rfl
@[simp] theorem State.setClk_banks (x : Clk) : (s.setClk x).banks = s.banks := rfl
@[simp] theorem State.setClk_inv (x : Clk) : (s.setClk x).inv = s.inv := rfl
@[simp] theorem State.setClk_vault (x : Clk) : (s.setClk x).vault = s.vault := rfl
@[simp] theorem State.setClk_flash (x : Clk) : (s.setClk x).flash = s.flash := rfl
@[simp] theorem State.setClk_tier (x : Clk) : (s.setClk x).tier = s.tier := rfl
@[simp] theorem State.setClk_fab (x : Clk) : (s.setClk x).fab = s.fab := rfl
@[simp] theorem State.setClk_rst (x : Clk) : (s.setClk x).rst = s.rst := rfl
@[simp] theorem State.setClk_pwr (x : Clk) : (s.setClk x).pwr = s.pwr := rfl
@[simp] theorem State.setClk_rel (x : Clk) : (s.setClk x).rel = s.rel := rfl
@[simp] theorem State.setClk_sec (x : Clk) : (s.setClk x).sec = s.sec := rfl
@[simp] theorem State.setClk_pcie (x : Clk) : (s.setClk x).pcie = s.pcie := rfl
@[simp] theorem State.setClk_mgt (x : Clk) : (s.setClk x).mgt = s.mgt := rfl

/-! ### setTick -/

@[simp] theorem State.setTick_pending (x : Tick) : (s.setTick x).pending = s.pending := rfl
@[simp] theorem State.setTick_out (x : Tick) : (s.setTick x).out = s.out := rfl
@[simp] theorem State.setTick_wr (x : Tick) : (s.setTick x).wr = s.wr := rfl
@[simp] theorem State.setTick_freeCtr (x : Tick) : (s.setTick x).freeCtr = s.freeCtr := rfl
@[simp] theorem State.setTick_clk (x : Tick) : (s.setTick x).clk = s.clk := rfl
@[simp] theorem State.setTick_tick (x : Tick) : (s.setTick x).tick = x := rfl
@[simp] theorem State.setTick_adm (x : Tick) : (s.setTick x).adm = s.adm := rfl
@[simp] theorem State.setTick_desk (x : Tick) : (s.setTick x).desk = s.desk := rfl
@[simp] theorem State.setTick_run (x : Tick) : (s.setTick x).run = s.run := rfl
@[simp] theorem State.setTick_units (x : Tick) : (s.setTick x).units = s.units := rfl
@[simp] theorem State.setTick_arrs (x : Tick) : (s.setTick x).arrs = s.arrs := rfl
@[simp] theorem State.setTick_wings (x : Tick) : (s.setTick x).wings = s.wings := rfl
@[simp] theorem State.setTick_mem (x : Tick) : (s.setTick x).mem = s.mem := rfl
@[simp] theorem State.setTick_ecc (x : Tick) : (s.setTick x).ecc = s.ecc := rfl
@[simp] theorem State.setTick_banks (x : Tick) : (s.setTick x).banks = s.banks := rfl
@[simp] theorem State.setTick_inv (x : Tick) : (s.setTick x).inv = s.inv := rfl
@[simp] theorem State.setTick_vault (x : Tick) : (s.setTick x).vault = s.vault := rfl
@[simp] theorem State.setTick_flash (x : Tick) : (s.setTick x).flash = s.flash := rfl
@[simp] theorem State.setTick_tier (x : Tick) : (s.setTick x).tier = s.tier := rfl
@[simp] theorem State.setTick_fab (x : Tick) : (s.setTick x).fab = s.fab := rfl
@[simp] theorem State.setTick_rst (x : Tick) : (s.setTick x).rst = s.rst := rfl
@[simp] theorem State.setTick_pwr (x : Tick) : (s.setTick x).pwr = s.pwr := rfl
@[simp] theorem State.setTick_rel (x : Tick) : (s.setTick x).rel = s.rel := rfl
@[simp] theorem State.setTick_sec (x : Tick) : (s.setTick x).sec = s.sec := rfl
@[simp] theorem State.setTick_pcie (x : Tick) : (s.setTick x).pcie = s.pcie := rfl
@[simp] theorem State.setTick_mgt (x : Tick) : (s.setTick x).mgt = s.mgt := rfl

/-! ### setAdm -/

@[simp] theorem State.setAdm_pending (x : Adm) : (s.setAdm x).pending = s.pending := rfl
@[simp] theorem State.setAdm_out (x : Adm) : (s.setAdm x).out = s.out := rfl
@[simp] theorem State.setAdm_wr (x : Adm) : (s.setAdm x).wr = s.wr := rfl
@[simp] theorem State.setAdm_freeCtr (x : Adm) : (s.setAdm x).freeCtr = s.freeCtr := rfl
@[simp] theorem State.setAdm_clk (x : Adm) : (s.setAdm x).clk = s.clk := rfl
@[simp] theorem State.setAdm_tick (x : Adm) : (s.setAdm x).tick = s.tick := rfl
@[simp] theorem State.setAdm_adm (x : Adm) : (s.setAdm x).adm = x := rfl
@[simp] theorem State.setAdm_desk (x : Adm) : (s.setAdm x).desk = s.desk := rfl
@[simp] theorem State.setAdm_run (x : Adm) : (s.setAdm x).run = s.run := rfl
@[simp] theorem State.setAdm_units (x : Adm) : (s.setAdm x).units = s.units := rfl
@[simp] theorem State.setAdm_arrs (x : Adm) : (s.setAdm x).arrs = s.arrs := rfl
@[simp] theorem State.setAdm_wings (x : Adm) : (s.setAdm x).wings = s.wings := rfl
@[simp] theorem State.setAdm_mem (x : Adm) : (s.setAdm x).mem = s.mem := rfl
@[simp] theorem State.setAdm_ecc (x : Adm) : (s.setAdm x).ecc = s.ecc := rfl
@[simp] theorem State.setAdm_banks (x : Adm) : (s.setAdm x).banks = s.banks := rfl
@[simp] theorem State.setAdm_inv (x : Adm) : (s.setAdm x).inv = s.inv := rfl
@[simp] theorem State.setAdm_vault (x : Adm) : (s.setAdm x).vault = s.vault := rfl
@[simp] theorem State.setAdm_flash (x : Adm) : (s.setAdm x).flash = s.flash := rfl
@[simp] theorem State.setAdm_tier (x : Adm) : (s.setAdm x).tier = s.tier := rfl
@[simp] theorem State.setAdm_fab (x : Adm) : (s.setAdm x).fab = s.fab := rfl
@[simp] theorem State.setAdm_rst (x : Adm) : (s.setAdm x).rst = s.rst := rfl
@[simp] theorem State.setAdm_pwr (x : Adm) : (s.setAdm x).pwr = s.pwr := rfl
@[simp] theorem State.setAdm_rel (x : Adm) : (s.setAdm x).rel = s.rel := rfl
@[simp] theorem State.setAdm_sec (x : Adm) : (s.setAdm x).sec = s.sec := rfl
@[simp] theorem State.setAdm_pcie (x : Adm) : (s.setAdm x).pcie = s.pcie := rfl
@[simp] theorem State.setAdm_mgt (x : Adm) : (s.setAdm x).mgt = s.mgt := rfl

/-! ### setDesk -/

@[simp] theorem State.setDesk_pending (x : Desk) : (s.setDesk x).pending = s.pending := rfl
@[simp] theorem State.setDesk_out (x : Desk) : (s.setDesk x).out = s.out := rfl
@[simp] theorem State.setDesk_wr (x : Desk) : (s.setDesk x).wr = s.wr := rfl
@[simp] theorem State.setDesk_freeCtr (x : Desk) : (s.setDesk x).freeCtr = s.freeCtr := rfl
@[simp] theorem State.setDesk_clk (x : Desk) : (s.setDesk x).clk = s.clk := rfl
@[simp] theorem State.setDesk_tick (x : Desk) : (s.setDesk x).tick = s.tick := rfl
@[simp] theorem State.setDesk_adm (x : Desk) : (s.setDesk x).adm = s.adm := rfl
@[simp] theorem State.setDesk_desk (x : Desk) : (s.setDesk x).desk = x := rfl
@[simp] theorem State.setDesk_run (x : Desk) : (s.setDesk x).run = s.run := rfl
@[simp] theorem State.setDesk_units (x : Desk) : (s.setDesk x).units = s.units := rfl
@[simp] theorem State.setDesk_arrs (x : Desk) : (s.setDesk x).arrs = s.arrs := rfl
@[simp] theorem State.setDesk_wings (x : Desk) : (s.setDesk x).wings = s.wings := rfl
@[simp] theorem State.setDesk_mem (x : Desk) : (s.setDesk x).mem = s.mem := rfl
@[simp] theorem State.setDesk_ecc (x : Desk) : (s.setDesk x).ecc = s.ecc := rfl
@[simp] theorem State.setDesk_banks (x : Desk) : (s.setDesk x).banks = s.banks := rfl
@[simp] theorem State.setDesk_inv (x : Desk) : (s.setDesk x).inv = s.inv := rfl
@[simp] theorem State.setDesk_vault (x : Desk) : (s.setDesk x).vault = s.vault := rfl
@[simp] theorem State.setDesk_flash (x : Desk) : (s.setDesk x).flash = s.flash := rfl
@[simp] theorem State.setDesk_tier (x : Desk) : (s.setDesk x).tier = s.tier := rfl
@[simp] theorem State.setDesk_fab (x : Desk) : (s.setDesk x).fab = s.fab := rfl
@[simp] theorem State.setDesk_rst (x : Desk) : (s.setDesk x).rst = s.rst := rfl
@[simp] theorem State.setDesk_pwr (x : Desk) : (s.setDesk x).pwr = s.pwr := rfl
@[simp] theorem State.setDesk_rel (x : Desk) : (s.setDesk x).rel = s.rel := rfl
@[simp] theorem State.setDesk_sec (x : Desk) : (s.setDesk x).sec = s.sec := rfl
@[simp] theorem State.setDesk_pcie (x : Desk) : (s.setDesk x).pcie = s.pcie := rfl
@[simp] theorem State.setDesk_mgt (x : Desk) : (s.setDesk x).mgt = s.mgt := rfl

/-! ### setRun -/

@[simp] theorem State.setRun_pending (x : Work) : (s.setRun x).pending = s.pending := rfl
@[simp] theorem State.setRun_out (x : Work) : (s.setRun x).out = s.out := rfl
@[simp] theorem State.setRun_wr (x : Work) : (s.setRun x).wr = s.wr := rfl
@[simp] theorem State.setRun_freeCtr (x : Work) : (s.setRun x).freeCtr = s.freeCtr := rfl
@[simp] theorem State.setRun_clk (x : Work) : (s.setRun x).clk = s.clk := rfl
@[simp] theorem State.setRun_tick (x : Work) : (s.setRun x).tick = s.tick := rfl
@[simp] theorem State.setRun_adm (x : Work) : (s.setRun x).adm = s.adm := rfl
@[simp] theorem State.setRun_desk (x : Work) : (s.setRun x).desk = s.desk := rfl
@[simp] theorem State.setRun_run (x : Work) : (s.setRun x).run = x := rfl
@[simp] theorem State.setRun_units (x : Work) : (s.setRun x).units = s.units := rfl
@[simp] theorem State.setRun_arrs (x : Work) : (s.setRun x).arrs = s.arrs := rfl
@[simp] theorem State.setRun_wings (x : Work) : (s.setRun x).wings = s.wings := rfl
@[simp] theorem State.setRun_mem (x : Work) : (s.setRun x).mem = s.mem := rfl
@[simp] theorem State.setRun_ecc (x : Work) : (s.setRun x).ecc = s.ecc := rfl
@[simp] theorem State.setRun_banks (x : Work) : (s.setRun x).banks = s.banks := rfl
@[simp] theorem State.setRun_inv (x : Work) : (s.setRun x).inv = s.inv := rfl
@[simp] theorem State.setRun_vault (x : Work) : (s.setRun x).vault = s.vault := rfl
@[simp] theorem State.setRun_flash (x : Work) : (s.setRun x).flash = s.flash := rfl
@[simp] theorem State.setRun_tier (x : Work) : (s.setRun x).tier = s.tier := rfl
@[simp] theorem State.setRun_fab (x : Work) : (s.setRun x).fab = s.fab := rfl
@[simp] theorem State.setRun_rst (x : Work) : (s.setRun x).rst = s.rst := rfl
@[simp] theorem State.setRun_pwr (x : Work) : (s.setRun x).pwr = s.pwr := rfl
@[simp] theorem State.setRun_rel (x : Work) : (s.setRun x).rel = s.rel := rfl
@[simp] theorem State.setRun_sec (x : Work) : (s.setRun x).sec = s.sec := rfl
@[simp] theorem State.setRun_pcie (x : Work) : (s.setRun x).pcie = s.pcie := rfl
@[simp] theorem State.setRun_mgt (x : Work) : (s.setRun x).mgt = s.mgt := rfl

/-! ### setUnits -/

@[simp] theorem State.setUnits_pending (x : Units) : (s.setUnits x).pending = s.pending := rfl
@[simp] theorem State.setUnits_out (x : Units) : (s.setUnits x).out = s.out := rfl
@[simp] theorem State.setUnits_wr (x : Units) : (s.setUnits x).wr = s.wr := rfl
@[simp] theorem State.setUnits_freeCtr (x : Units) : (s.setUnits x).freeCtr = s.freeCtr := rfl
@[simp] theorem State.setUnits_clk (x : Units) : (s.setUnits x).clk = s.clk := rfl
@[simp] theorem State.setUnits_tick (x : Units) : (s.setUnits x).tick = s.tick := rfl
@[simp] theorem State.setUnits_adm (x : Units) : (s.setUnits x).adm = s.adm := rfl
@[simp] theorem State.setUnits_desk (x : Units) : (s.setUnits x).desk = s.desk := rfl
@[simp] theorem State.setUnits_run (x : Units) : (s.setUnits x).run = s.run := rfl
@[simp] theorem State.setUnits_units (x : Units) : (s.setUnits x).units = x := rfl
@[simp] theorem State.setUnits_arrs (x : Units) : (s.setUnits x).arrs = s.arrs := rfl
@[simp] theorem State.setUnits_wings (x : Units) : (s.setUnits x).wings = s.wings := rfl
@[simp] theorem State.setUnits_mem (x : Units) : (s.setUnits x).mem = s.mem := rfl
@[simp] theorem State.setUnits_ecc (x : Units) : (s.setUnits x).ecc = s.ecc := rfl
@[simp] theorem State.setUnits_banks (x : Units) : (s.setUnits x).banks = s.banks := rfl
@[simp] theorem State.setUnits_inv (x : Units) : (s.setUnits x).inv = s.inv := rfl
@[simp] theorem State.setUnits_vault (x : Units) : (s.setUnits x).vault = s.vault := rfl
@[simp] theorem State.setUnits_flash (x : Units) : (s.setUnits x).flash = s.flash := rfl
@[simp] theorem State.setUnits_tier (x : Units) : (s.setUnits x).tier = s.tier := rfl
@[simp] theorem State.setUnits_fab (x : Units) : (s.setUnits x).fab = s.fab := rfl
@[simp] theorem State.setUnits_rst (x : Units) : (s.setUnits x).rst = s.rst := rfl
@[simp] theorem State.setUnits_pwr (x : Units) : (s.setUnits x).pwr = s.pwr := rfl
@[simp] theorem State.setUnits_rel (x : Units) : (s.setUnits x).rel = s.rel := rfl
@[simp] theorem State.setUnits_sec (x : Units) : (s.setUnits x).sec = s.sec := rfl
@[simp] theorem State.setUnits_pcie (x : Units) : (s.setUnits x).pcie = s.pcie := rfl
@[simp] theorem State.setUnits_mgt (x : Units) : (s.setUnits x).mgt = s.mgt := rfl

/-! ### setArrs -/

@[simp] theorem State.setArrs_pending (x : Arrays) : (s.setArrs x).pending = s.pending := rfl
@[simp] theorem State.setArrs_out (x : Arrays) : (s.setArrs x).out = s.out := rfl
@[simp] theorem State.setArrs_wr (x : Arrays) : (s.setArrs x).wr = s.wr := rfl
@[simp] theorem State.setArrs_freeCtr (x : Arrays) : (s.setArrs x).freeCtr = s.freeCtr := rfl
@[simp] theorem State.setArrs_clk (x : Arrays) : (s.setArrs x).clk = s.clk := rfl
@[simp] theorem State.setArrs_tick (x : Arrays) : (s.setArrs x).tick = s.tick := rfl
@[simp] theorem State.setArrs_adm (x : Arrays) : (s.setArrs x).adm = s.adm := rfl
@[simp] theorem State.setArrs_desk (x : Arrays) : (s.setArrs x).desk = s.desk := rfl
@[simp] theorem State.setArrs_run (x : Arrays) : (s.setArrs x).run = s.run := rfl
@[simp] theorem State.setArrs_units (x : Arrays) : (s.setArrs x).units = s.units := rfl
@[simp] theorem State.setArrs_arrs (x : Arrays) : (s.setArrs x).arrs = x := rfl
@[simp] theorem State.setArrs_wings (x : Arrays) : (s.setArrs x).wings = s.wings := rfl
@[simp] theorem State.setArrs_mem (x : Arrays) : (s.setArrs x).mem = s.mem := rfl
@[simp] theorem State.setArrs_ecc (x : Arrays) : (s.setArrs x).ecc = s.ecc := rfl
@[simp] theorem State.setArrs_banks (x : Arrays) : (s.setArrs x).banks = s.banks := rfl
@[simp] theorem State.setArrs_inv (x : Arrays) : (s.setArrs x).inv = s.inv := rfl
@[simp] theorem State.setArrs_vault (x : Arrays) : (s.setArrs x).vault = s.vault := rfl
@[simp] theorem State.setArrs_flash (x : Arrays) : (s.setArrs x).flash = s.flash := rfl
@[simp] theorem State.setArrs_tier (x : Arrays) : (s.setArrs x).tier = s.tier := rfl
@[simp] theorem State.setArrs_fab (x : Arrays) : (s.setArrs x).fab = s.fab := rfl
@[simp] theorem State.setArrs_rst (x : Arrays) : (s.setArrs x).rst = s.rst := rfl
@[simp] theorem State.setArrs_pwr (x : Arrays) : (s.setArrs x).pwr = s.pwr := rfl
@[simp] theorem State.setArrs_rel (x : Arrays) : (s.setArrs x).rel = s.rel := rfl
@[simp] theorem State.setArrs_sec (x : Arrays) : (s.setArrs x).sec = s.sec := rfl
@[simp] theorem State.setArrs_pcie (x : Arrays) : (s.setArrs x).pcie = s.pcie := rfl
@[simp] theorem State.setArrs_mgt (x : Arrays) : (s.setArrs x).mgt = s.mgt := rfl

/-! ### setWings -/

@[simp] theorem State.setWings_pending (x : Tab Wing) : (s.setWings x).pending = s.pending := rfl
@[simp] theorem State.setWings_out (x : Tab Wing) : (s.setWings x).out = s.out := rfl
@[simp] theorem State.setWings_wr (x : Tab Wing) : (s.setWings x).wr = s.wr := rfl
@[simp] theorem State.setWings_freeCtr (x : Tab Wing) : (s.setWings x).freeCtr = s.freeCtr := rfl
@[simp] theorem State.setWings_clk (x : Tab Wing) : (s.setWings x).clk = s.clk := rfl
@[simp] theorem State.setWings_tick (x : Tab Wing) : (s.setWings x).tick = s.tick := rfl
@[simp] theorem State.setWings_adm (x : Tab Wing) : (s.setWings x).adm = s.adm := rfl
@[simp] theorem State.setWings_desk (x : Tab Wing) : (s.setWings x).desk = s.desk := rfl
@[simp] theorem State.setWings_run (x : Tab Wing) : (s.setWings x).run = s.run := rfl
@[simp] theorem State.setWings_units (x : Tab Wing) : (s.setWings x).units = s.units := rfl
@[simp] theorem State.setWings_arrs (x : Tab Wing) : (s.setWings x).arrs = s.arrs := rfl
@[simp] theorem State.setWings_wings (x : Tab Wing) : (s.setWings x).wings = x := rfl
@[simp] theorem State.setWings_mem (x : Tab Wing) : (s.setWings x).mem = s.mem := rfl
@[simp] theorem State.setWings_ecc (x : Tab Wing) : (s.setWings x).ecc = s.ecc := rfl
@[simp] theorem State.setWings_banks (x : Tab Wing) : (s.setWings x).banks = s.banks := rfl
@[simp] theorem State.setWings_inv (x : Tab Wing) : (s.setWings x).inv = s.inv := rfl
@[simp] theorem State.setWings_vault (x : Tab Wing) : (s.setWings x).vault = s.vault := rfl
@[simp] theorem State.setWings_flash (x : Tab Wing) : (s.setWings x).flash = s.flash := rfl
@[simp] theorem State.setWings_tier (x : Tab Wing) : (s.setWings x).tier = s.tier := rfl
@[simp] theorem State.setWings_fab (x : Tab Wing) : (s.setWings x).fab = s.fab := rfl
@[simp] theorem State.setWings_rst (x : Tab Wing) : (s.setWings x).rst = s.rst := rfl
@[simp] theorem State.setWings_pwr (x : Tab Wing) : (s.setWings x).pwr = s.pwr := rfl
@[simp] theorem State.setWings_rel (x : Tab Wing) : (s.setWings x).rel = s.rel := rfl
@[simp] theorem State.setWings_sec (x : Tab Wing) : (s.setWings x).sec = s.sec := rfl
@[simp] theorem State.setWings_pcie (x : Tab Wing) : (s.setWings x).pcie = s.pcie := rfl
@[simp] theorem State.setWings_mgt (x : Tab Wing) : (s.setWings x).mgt = s.mgt := rfl

/-! ### setEcc -/

@[simp] theorem State.setEcc_pending (x : Ecc) : (s.setEcc x).pending = s.pending := rfl
@[simp] theorem State.setEcc_out (x : Ecc) : (s.setEcc x).out = s.out := rfl
@[simp] theorem State.setEcc_wr (x : Ecc) : (s.setEcc x).wr = s.wr := rfl
@[simp] theorem State.setEcc_freeCtr (x : Ecc) : (s.setEcc x).freeCtr = s.freeCtr := rfl
@[simp] theorem State.setEcc_clk (x : Ecc) : (s.setEcc x).clk = s.clk := rfl
@[simp] theorem State.setEcc_tick (x : Ecc) : (s.setEcc x).tick = s.tick := rfl
@[simp] theorem State.setEcc_adm (x : Ecc) : (s.setEcc x).adm = s.adm := rfl
@[simp] theorem State.setEcc_desk (x : Ecc) : (s.setEcc x).desk = s.desk := rfl
@[simp] theorem State.setEcc_run (x : Ecc) : (s.setEcc x).run = s.run := rfl
@[simp] theorem State.setEcc_units (x : Ecc) : (s.setEcc x).units = s.units := rfl
@[simp] theorem State.setEcc_arrs (x : Ecc) : (s.setEcc x).arrs = s.arrs := rfl
@[simp] theorem State.setEcc_wings (x : Ecc) : (s.setEcc x).wings = s.wings := rfl
@[simp] theorem State.setEcc_mem (x : Ecc) : (s.setEcc x).mem = s.mem := rfl
@[simp] theorem State.setEcc_ecc (x : Ecc) : (s.setEcc x).ecc = x := rfl
@[simp] theorem State.setEcc_banks (x : Ecc) : (s.setEcc x).banks = s.banks := rfl
@[simp] theorem State.setEcc_inv (x : Ecc) : (s.setEcc x).inv = s.inv := rfl
@[simp] theorem State.setEcc_vault (x : Ecc) : (s.setEcc x).vault = s.vault := rfl
@[simp] theorem State.setEcc_flash (x : Ecc) : (s.setEcc x).flash = s.flash := rfl
@[simp] theorem State.setEcc_tier (x : Ecc) : (s.setEcc x).tier = s.tier := rfl
@[simp] theorem State.setEcc_fab (x : Ecc) : (s.setEcc x).fab = s.fab := rfl
@[simp] theorem State.setEcc_rst (x : Ecc) : (s.setEcc x).rst = s.rst := rfl
@[simp] theorem State.setEcc_pwr (x : Ecc) : (s.setEcc x).pwr = s.pwr := rfl
@[simp] theorem State.setEcc_rel (x : Ecc) : (s.setEcc x).rel = s.rel := rfl
@[simp] theorem State.setEcc_sec (x : Ecc) : (s.setEcc x).sec = s.sec := rfl
@[simp] theorem State.setEcc_pcie (x : Ecc) : (s.setEcc x).pcie = s.pcie := rfl
@[simp] theorem State.setEcc_mgt (x : Ecc) : (s.setEcc x).mgt = s.mgt := rfl

/-! ### setBanks -/

@[simp] theorem State.setBanks_pending (x : Tab Bank) : (s.setBanks x).pending = s.pending := rfl
@[simp] theorem State.setBanks_out (x : Tab Bank) : (s.setBanks x).out = s.out := rfl
@[simp] theorem State.setBanks_wr (x : Tab Bank) : (s.setBanks x).wr = s.wr := rfl
@[simp] theorem State.setBanks_freeCtr (x : Tab Bank) : (s.setBanks x).freeCtr = s.freeCtr := rfl
@[simp] theorem State.setBanks_clk (x : Tab Bank) : (s.setBanks x).clk = s.clk := rfl
@[simp] theorem State.setBanks_tick (x : Tab Bank) : (s.setBanks x).tick = s.tick := rfl
@[simp] theorem State.setBanks_adm (x : Tab Bank) : (s.setBanks x).adm = s.adm := rfl
@[simp] theorem State.setBanks_desk (x : Tab Bank) : (s.setBanks x).desk = s.desk := rfl
@[simp] theorem State.setBanks_run (x : Tab Bank) : (s.setBanks x).run = s.run := rfl
@[simp] theorem State.setBanks_units (x : Tab Bank) : (s.setBanks x).units = s.units := rfl
@[simp] theorem State.setBanks_arrs (x : Tab Bank) : (s.setBanks x).arrs = s.arrs := rfl
@[simp] theorem State.setBanks_wings (x : Tab Bank) : (s.setBanks x).wings = s.wings := rfl
@[simp] theorem State.setBanks_mem (x : Tab Bank) : (s.setBanks x).mem = s.mem := rfl
@[simp] theorem State.setBanks_ecc (x : Tab Bank) : (s.setBanks x).ecc = s.ecc := rfl
@[simp] theorem State.setBanks_banks (x : Tab Bank) : (s.setBanks x).banks = x := rfl
@[simp] theorem State.setBanks_inv (x : Tab Bank) : (s.setBanks x).inv = s.inv := rfl
@[simp] theorem State.setBanks_vault (x : Tab Bank) : (s.setBanks x).vault = s.vault := rfl
@[simp] theorem State.setBanks_flash (x : Tab Bank) : (s.setBanks x).flash = s.flash := rfl
@[simp] theorem State.setBanks_tier (x : Tab Bank) : (s.setBanks x).tier = s.tier := rfl
@[simp] theorem State.setBanks_fab (x : Tab Bank) : (s.setBanks x).fab = s.fab := rfl
@[simp] theorem State.setBanks_rst (x : Tab Bank) : (s.setBanks x).rst = s.rst := rfl
@[simp] theorem State.setBanks_pwr (x : Tab Bank) : (s.setBanks x).pwr = s.pwr := rfl
@[simp] theorem State.setBanks_rel (x : Tab Bank) : (s.setBanks x).rel = s.rel := rfl
@[simp] theorem State.setBanks_sec (x : Tab Bank) : (s.setBanks x).sec = s.sec := rfl
@[simp] theorem State.setBanks_pcie (x : Tab Bank) : (s.setBanks x).pcie = s.pcie := rfl
@[simp] theorem State.setBanks_mgt (x : Tab Bank) : (s.setBanks x).mgt = s.mgt := rfl

/-! ### setInv -/

@[simp] theorem State.setInv_pending (x : Inv) : (s.setInv x).pending = s.pending := rfl
@[simp] theorem State.setInv_out (x : Inv) : (s.setInv x).out = s.out := rfl
@[simp] theorem State.setInv_wr (x : Inv) : (s.setInv x).wr = s.wr := rfl
@[simp] theorem State.setInv_freeCtr (x : Inv) : (s.setInv x).freeCtr = s.freeCtr := rfl
@[simp] theorem State.setInv_clk (x : Inv) : (s.setInv x).clk = s.clk := rfl
@[simp] theorem State.setInv_tick (x : Inv) : (s.setInv x).tick = s.tick := rfl
@[simp] theorem State.setInv_adm (x : Inv) : (s.setInv x).adm = s.adm := rfl
@[simp] theorem State.setInv_desk (x : Inv) : (s.setInv x).desk = s.desk := rfl
@[simp] theorem State.setInv_run (x : Inv) : (s.setInv x).run = s.run := rfl
@[simp] theorem State.setInv_units (x : Inv) : (s.setInv x).units = s.units := rfl
@[simp] theorem State.setInv_arrs (x : Inv) : (s.setInv x).arrs = s.arrs := rfl
@[simp] theorem State.setInv_wings (x : Inv) : (s.setInv x).wings = s.wings := rfl
@[simp] theorem State.setInv_mem (x : Inv) : (s.setInv x).mem = s.mem := rfl
@[simp] theorem State.setInv_ecc (x : Inv) : (s.setInv x).ecc = s.ecc := rfl
@[simp] theorem State.setInv_banks (x : Inv) : (s.setInv x).banks = s.banks := rfl
@[simp] theorem State.setInv_inv (x : Inv) : (s.setInv x).inv = x := rfl
@[simp] theorem State.setInv_vault (x : Inv) : (s.setInv x).vault = s.vault := rfl
@[simp] theorem State.setInv_flash (x : Inv) : (s.setInv x).flash = s.flash := rfl
@[simp] theorem State.setInv_tier (x : Inv) : (s.setInv x).tier = s.tier := rfl
@[simp] theorem State.setInv_fab (x : Inv) : (s.setInv x).fab = s.fab := rfl
@[simp] theorem State.setInv_rst (x : Inv) : (s.setInv x).rst = s.rst := rfl
@[simp] theorem State.setInv_pwr (x : Inv) : (s.setInv x).pwr = s.pwr := rfl
@[simp] theorem State.setInv_rel (x : Inv) : (s.setInv x).rel = s.rel := rfl
@[simp] theorem State.setInv_sec (x : Inv) : (s.setInv x).sec = s.sec := rfl
@[simp] theorem State.setInv_pcie (x : Inv) : (s.setInv x).pcie = s.pcie := rfl
@[simp] theorem State.setInv_mgt (x : Inv) : (s.setInv x).mgt = s.mgt := rfl

/-! ### setVault -/

@[simp] theorem State.setVault_pending (x : List Host.Cell) : (s.setVault x).pending = s.pending := rfl
@[simp] theorem State.setVault_out (x : List Host.Cell) : (s.setVault x).out = s.out := rfl
@[simp] theorem State.setVault_wr (x : List Host.Cell) : (s.setVault x).wr = s.wr := rfl
@[simp] theorem State.setVault_freeCtr (x : List Host.Cell) : (s.setVault x).freeCtr = s.freeCtr := rfl
@[simp] theorem State.setVault_clk (x : List Host.Cell) : (s.setVault x).clk = s.clk := rfl
@[simp] theorem State.setVault_tick (x : List Host.Cell) : (s.setVault x).tick = s.tick := rfl
@[simp] theorem State.setVault_adm (x : List Host.Cell) : (s.setVault x).adm = s.adm := rfl
@[simp] theorem State.setVault_desk (x : List Host.Cell) : (s.setVault x).desk = s.desk := rfl
@[simp] theorem State.setVault_run (x : List Host.Cell) : (s.setVault x).run = s.run := rfl
@[simp] theorem State.setVault_units (x : List Host.Cell) : (s.setVault x).units = s.units := rfl
@[simp] theorem State.setVault_arrs (x : List Host.Cell) : (s.setVault x).arrs = s.arrs := rfl
@[simp] theorem State.setVault_wings (x : List Host.Cell) : (s.setVault x).wings = s.wings := rfl
@[simp] theorem State.setVault_mem (x : List Host.Cell) : (s.setVault x).mem = s.mem := rfl
@[simp] theorem State.setVault_ecc (x : List Host.Cell) : (s.setVault x).ecc = s.ecc := rfl
@[simp] theorem State.setVault_banks (x : List Host.Cell) : (s.setVault x).banks = s.banks := rfl
@[simp] theorem State.setVault_inv (x : List Host.Cell) : (s.setVault x).inv = s.inv := rfl
@[simp] theorem State.setVault_vault (x : List Host.Cell) : (s.setVault x).vault = x := rfl
@[simp] theorem State.setVault_flash (x : List Host.Cell) : (s.setVault x).flash = s.flash := rfl
@[simp] theorem State.setVault_tier (x : List Host.Cell) : (s.setVault x).tier = s.tier := rfl
@[simp] theorem State.setVault_fab (x : List Host.Cell) : (s.setVault x).fab = s.fab := rfl
@[simp] theorem State.setVault_rst (x : List Host.Cell) : (s.setVault x).rst = s.rst := rfl
@[simp] theorem State.setVault_pwr (x : List Host.Cell) : (s.setVault x).pwr = s.pwr := rfl
@[simp] theorem State.setVault_rel (x : List Host.Cell) : (s.setVault x).rel = s.rel := rfl
@[simp] theorem State.setVault_sec (x : List Host.Cell) : (s.setVault x).sec = s.sec := rfl
@[simp] theorem State.setVault_pcie (x : List Host.Cell) : (s.setVault x).pcie = s.pcie := rfl
@[simp] theorem State.setVault_mgt (x : List Host.Cell) : (s.setVault x).mgt = s.mgt := rfl

/-! ### setFlash -/

@[simp] theorem State.setFlash_pending (x : List Host.Cell) : (s.setFlash x).pending = s.pending := rfl
@[simp] theorem State.setFlash_out (x : List Host.Cell) : (s.setFlash x).out = s.out := rfl
@[simp] theorem State.setFlash_wr (x : List Host.Cell) : (s.setFlash x).wr = s.wr := rfl
@[simp] theorem State.setFlash_freeCtr (x : List Host.Cell) : (s.setFlash x).freeCtr = s.freeCtr := rfl
@[simp] theorem State.setFlash_clk (x : List Host.Cell) : (s.setFlash x).clk = s.clk := rfl
@[simp] theorem State.setFlash_tick (x : List Host.Cell) : (s.setFlash x).tick = s.tick := rfl
@[simp] theorem State.setFlash_adm (x : List Host.Cell) : (s.setFlash x).adm = s.adm := rfl
@[simp] theorem State.setFlash_desk (x : List Host.Cell) : (s.setFlash x).desk = s.desk := rfl
@[simp] theorem State.setFlash_run (x : List Host.Cell) : (s.setFlash x).run = s.run := rfl
@[simp] theorem State.setFlash_units (x : List Host.Cell) : (s.setFlash x).units = s.units := rfl
@[simp] theorem State.setFlash_arrs (x : List Host.Cell) : (s.setFlash x).arrs = s.arrs := rfl
@[simp] theorem State.setFlash_wings (x : List Host.Cell) : (s.setFlash x).wings = s.wings := rfl
@[simp] theorem State.setFlash_mem (x : List Host.Cell) : (s.setFlash x).mem = s.mem := rfl
@[simp] theorem State.setFlash_ecc (x : List Host.Cell) : (s.setFlash x).ecc = s.ecc := rfl
@[simp] theorem State.setFlash_banks (x : List Host.Cell) : (s.setFlash x).banks = s.banks := rfl
@[simp] theorem State.setFlash_inv (x : List Host.Cell) : (s.setFlash x).inv = s.inv := rfl
@[simp] theorem State.setFlash_vault (x : List Host.Cell) : (s.setFlash x).vault = s.vault := rfl
@[simp] theorem State.setFlash_flash (x : List Host.Cell) : (s.setFlash x).flash = x := rfl
@[simp] theorem State.setFlash_tier (x : List Host.Cell) : (s.setFlash x).tier = s.tier := rfl
@[simp] theorem State.setFlash_fab (x : List Host.Cell) : (s.setFlash x).fab = s.fab := rfl
@[simp] theorem State.setFlash_rst (x : List Host.Cell) : (s.setFlash x).rst = s.rst := rfl
@[simp] theorem State.setFlash_pwr (x : List Host.Cell) : (s.setFlash x).pwr = s.pwr := rfl
@[simp] theorem State.setFlash_rel (x : List Host.Cell) : (s.setFlash x).rel = s.rel := rfl
@[simp] theorem State.setFlash_sec (x : List Host.Cell) : (s.setFlash x).sec = s.sec := rfl
@[simp] theorem State.setFlash_pcie (x : List Host.Cell) : (s.setFlash x).pcie = s.pcie := rfl
@[simp] theorem State.setFlash_mgt (x : List Host.Cell) : (s.setFlash x).mgt = s.mgt := rfl

/-! ### setTier -/

@[simp] theorem State.setTier_pending (x : Tiers) : (s.setTier x).pending = s.pending := rfl
@[simp] theorem State.setTier_out (x : Tiers) : (s.setTier x).out = s.out := rfl
@[simp] theorem State.setTier_wr (x : Tiers) : (s.setTier x).wr = s.wr := rfl
@[simp] theorem State.setTier_freeCtr (x : Tiers) : (s.setTier x).freeCtr = s.freeCtr := rfl
@[simp] theorem State.setTier_clk (x : Tiers) : (s.setTier x).clk = s.clk := rfl
@[simp] theorem State.setTier_tick (x : Tiers) : (s.setTier x).tick = s.tick := rfl
@[simp] theorem State.setTier_adm (x : Tiers) : (s.setTier x).adm = s.adm := rfl
@[simp] theorem State.setTier_desk (x : Tiers) : (s.setTier x).desk = s.desk := rfl
@[simp] theorem State.setTier_run (x : Tiers) : (s.setTier x).run = s.run := rfl
@[simp] theorem State.setTier_units (x : Tiers) : (s.setTier x).units = s.units := rfl
@[simp] theorem State.setTier_arrs (x : Tiers) : (s.setTier x).arrs = s.arrs := rfl
@[simp] theorem State.setTier_wings (x : Tiers) : (s.setTier x).wings = s.wings := rfl
@[simp] theorem State.setTier_mem (x : Tiers) : (s.setTier x).mem = s.mem := rfl
@[simp] theorem State.setTier_ecc (x : Tiers) : (s.setTier x).ecc = s.ecc := rfl
@[simp] theorem State.setTier_banks (x : Tiers) : (s.setTier x).banks = s.banks := rfl
@[simp] theorem State.setTier_inv (x : Tiers) : (s.setTier x).inv = s.inv := rfl
@[simp] theorem State.setTier_vault (x : Tiers) : (s.setTier x).vault = s.vault := rfl
@[simp] theorem State.setTier_flash (x : Tiers) : (s.setTier x).flash = s.flash := rfl
@[simp] theorem State.setTier_tier (x : Tiers) : (s.setTier x).tier = x := rfl
@[simp] theorem State.setTier_fab (x : Tiers) : (s.setTier x).fab = s.fab := rfl
@[simp] theorem State.setTier_rst (x : Tiers) : (s.setTier x).rst = s.rst := rfl
@[simp] theorem State.setTier_pwr (x : Tiers) : (s.setTier x).pwr = s.pwr := rfl
@[simp] theorem State.setTier_rel (x : Tiers) : (s.setTier x).rel = s.rel := rfl
@[simp] theorem State.setTier_sec (x : Tiers) : (s.setTier x).sec = s.sec := rfl
@[simp] theorem State.setTier_pcie (x : Tiers) : (s.setTier x).pcie = s.pcie := rfl
@[simp] theorem State.setTier_mgt (x : Tiers) : (s.setTier x).mgt = s.mgt := rfl

/-! ### setFab -/

@[simp] theorem State.setFab_pending (x : Fab) : (s.setFab x).pending = s.pending := rfl
@[simp] theorem State.setFab_out (x : Fab) : (s.setFab x).out = s.out := rfl
@[simp] theorem State.setFab_wr (x : Fab) : (s.setFab x).wr = s.wr := rfl
@[simp] theorem State.setFab_freeCtr (x : Fab) : (s.setFab x).freeCtr = s.freeCtr := rfl
@[simp] theorem State.setFab_clk (x : Fab) : (s.setFab x).clk = s.clk := rfl
@[simp] theorem State.setFab_tick (x : Fab) : (s.setFab x).tick = s.tick := rfl
@[simp] theorem State.setFab_adm (x : Fab) : (s.setFab x).adm = s.adm := rfl
@[simp] theorem State.setFab_desk (x : Fab) : (s.setFab x).desk = s.desk := rfl
@[simp] theorem State.setFab_run (x : Fab) : (s.setFab x).run = s.run := rfl
@[simp] theorem State.setFab_units (x : Fab) : (s.setFab x).units = s.units := rfl
@[simp] theorem State.setFab_arrs (x : Fab) : (s.setFab x).arrs = s.arrs := rfl
@[simp] theorem State.setFab_wings (x : Fab) : (s.setFab x).wings = s.wings := rfl
@[simp] theorem State.setFab_mem (x : Fab) : (s.setFab x).mem = s.mem := rfl
@[simp] theorem State.setFab_ecc (x : Fab) : (s.setFab x).ecc = s.ecc := rfl
@[simp] theorem State.setFab_banks (x : Fab) : (s.setFab x).banks = s.banks := rfl
@[simp] theorem State.setFab_inv (x : Fab) : (s.setFab x).inv = s.inv := rfl
@[simp] theorem State.setFab_vault (x : Fab) : (s.setFab x).vault = s.vault := rfl
@[simp] theorem State.setFab_flash (x : Fab) : (s.setFab x).flash = s.flash := rfl
@[simp] theorem State.setFab_tier (x : Fab) : (s.setFab x).tier = s.tier := rfl
@[simp] theorem State.setFab_fab (x : Fab) : (s.setFab x).fab = x := rfl
@[simp] theorem State.setFab_rst (x : Fab) : (s.setFab x).rst = s.rst := rfl
@[simp] theorem State.setFab_pwr (x : Fab) : (s.setFab x).pwr = s.pwr := rfl
@[simp] theorem State.setFab_rel (x : Fab) : (s.setFab x).rel = s.rel := rfl
@[simp] theorem State.setFab_sec (x : Fab) : (s.setFab x).sec = s.sec := rfl
@[simp] theorem State.setFab_pcie (x : Fab) : (s.setFab x).pcie = s.pcie := rfl
@[simp] theorem State.setFab_mgt (x : Fab) : (s.setFab x).mgt = s.mgt := rfl

/-! ### setRst -/

@[simp] theorem State.setRst_pending (x : Rst) : (s.setRst x).pending = s.pending := rfl
@[simp] theorem State.setRst_out (x : Rst) : (s.setRst x).out = s.out := rfl
@[simp] theorem State.setRst_wr (x : Rst) : (s.setRst x).wr = s.wr := rfl
@[simp] theorem State.setRst_freeCtr (x : Rst) : (s.setRst x).freeCtr = s.freeCtr := rfl
@[simp] theorem State.setRst_clk (x : Rst) : (s.setRst x).clk = s.clk := rfl
@[simp] theorem State.setRst_tick (x : Rst) : (s.setRst x).tick = s.tick := rfl
@[simp] theorem State.setRst_adm (x : Rst) : (s.setRst x).adm = s.adm := rfl
@[simp] theorem State.setRst_desk (x : Rst) : (s.setRst x).desk = s.desk := rfl
@[simp] theorem State.setRst_run (x : Rst) : (s.setRst x).run = s.run := rfl
@[simp] theorem State.setRst_units (x : Rst) : (s.setRst x).units = s.units := rfl
@[simp] theorem State.setRst_arrs (x : Rst) : (s.setRst x).arrs = s.arrs := rfl
@[simp] theorem State.setRst_wings (x : Rst) : (s.setRst x).wings = s.wings := rfl
@[simp] theorem State.setRst_mem (x : Rst) : (s.setRst x).mem = s.mem := rfl
@[simp] theorem State.setRst_ecc (x : Rst) : (s.setRst x).ecc = s.ecc := rfl
@[simp] theorem State.setRst_banks (x : Rst) : (s.setRst x).banks = s.banks := rfl
@[simp] theorem State.setRst_inv (x : Rst) : (s.setRst x).inv = s.inv := rfl
@[simp] theorem State.setRst_vault (x : Rst) : (s.setRst x).vault = s.vault := rfl
@[simp] theorem State.setRst_flash (x : Rst) : (s.setRst x).flash = s.flash := rfl
@[simp] theorem State.setRst_tier (x : Rst) : (s.setRst x).tier = s.tier := rfl
@[simp] theorem State.setRst_fab (x : Rst) : (s.setRst x).fab = s.fab := rfl
@[simp] theorem State.setRst_rst (x : Rst) : (s.setRst x).rst = x := rfl
@[simp] theorem State.setRst_pwr (x : Rst) : (s.setRst x).pwr = s.pwr := rfl
@[simp] theorem State.setRst_rel (x : Rst) : (s.setRst x).rel = s.rel := rfl
@[simp] theorem State.setRst_sec (x : Rst) : (s.setRst x).sec = s.sec := rfl
@[simp] theorem State.setRst_pcie (x : Rst) : (s.setRst x).pcie = s.pcie := rfl
@[simp] theorem State.setRst_mgt (x : Rst) : (s.setRst x).mgt = s.mgt := rfl

/-! ### setPwr -/

@[simp] theorem State.setPwr_pending (x : Pwr) : (s.setPwr x).pending = s.pending := rfl
@[simp] theorem State.setPwr_out (x : Pwr) : (s.setPwr x).out = s.out := rfl
@[simp] theorem State.setPwr_wr (x : Pwr) : (s.setPwr x).wr = s.wr := rfl
@[simp] theorem State.setPwr_freeCtr (x : Pwr) : (s.setPwr x).freeCtr = s.freeCtr := rfl
@[simp] theorem State.setPwr_clk (x : Pwr) : (s.setPwr x).clk = s.clk := rfl
@[simp] theorem State.setPwr_tick (x : Pwr) : (s.setPwr x).tick = s.tick := rfl
@[simp] theorem State.setPwr_adm (x : Pwr) : (s.setPwr x).adm = s.adm := rfl
@[simp] theorem State.setPwr_desk (x : Pwr) : (s.setPwr x).desk = s.desk := rfl
@[simp] theorem State.setPwr_run (x : Pwr) : (s.setPwr x).run = s.run := rfl
@[simp] theorem State.setPwr_units (x : Pwr) : (s.setPwr x).units = s.units := rfl
@[simp] theorem State.setPwr_arrs (x : Pwr) : (s.setPwr x).arrs = s.arrs := rfl
@[simp] theorem State.setPwr_wings (x : Pwr) : (s.setPwr x).wings = s.wings := rfl
@[simp] theorem State.setPwr_mem (x : Pwr) : (s.setPwr x).mem = s.mem := rfl
@[simp] theorem State.setPwr_ecc (x : Pwr) : (s.setPwr x).ecc = s.ecc := rfl
@[simp] theorem State.setPwr_banks (x : Pwr) : (s.setPwr x).banks = s.banks := rfl
@[simp] theorem State.setPwr_inv (x : Pwr) : (s.setPwr x).inv = s.inv := rfl
@[simp] theorem State.setPwr_vault (x : Pwr) : (s.setPwr x).vault = s.vault := rfl
@[simp] theorem State.setPwr_flash (x : Pwr) : (s.setPwr x).flash = s.flash := rfl
@[simp] theorem State.setPwr_tier (x : Pwr) : (s.setPwr x).tier = s.tier := rfl
@[simp] theorem State.setPwr_fab (x : Pwr) : (s.setPwr x).fab = s.fab := rfl
@[simp] theorem State.setPwr_rst (x : Pwr) : (s.setPwr x).rst = s.rst := rfl
@[simp] theorem State.setPwr_pwr (x : Pwr) : (s.setPwr x).pwr = x := rfl
@[simp] theorem State.setPwr_rel (x : Pwr) : (s.setPwr x).rel = s.rel := rfl
@[simp] theorem State.setPwr_sec (x : Pwr) : (s.setPwr x).sec = s.sec := rfl
@[simp] theorem State.setPwr_pcie (x : Pwr) : (s.setPwr x).pcie = s.pcie := rfl
@[simp] theorem State.setPwr_mgt (x : Pwr) : (s.setPwr x).mgt = s.mgt := rfl

/-! ### setRel -/

@[simp] theorem State.setRel_pending (x : Rel) : (s.setRel x).pending = s.pending := rfl
@[simp] theorem State.setRel_out (x : Rel) : (s.setRel x).out = s.out := rfl
@[simp] theorem State.setRel_wr (x : Rel) : (s.setRel x).wr = s.wr := rfl
@[simp] theorem State.setRel_freeCtr (x : Rel) : (s.setRel x).freeCtr = s.freeCtr := rfl
@[simp] theorem State.setRel_clk (x : Rel) : (s.setRel x).clk = s.clk := rfl
@[simp] theorem State.setRel_tick (x : Rel) : (s.setRel x).tick = s.tick := rfl
@[simp] theorem State.setRel_adm (x : Rel) : (s.setRel x).adm = s.adm := rfl
@[simp] theorem State.setRel_desk (x : Rel) : (s.setRel x).desk = s.desk := rfl
@[simp] theorem State.setRel_run (x : Rel) : (s.setRel x).run = s.run := rfl
@[simp] theorem State.setRel_units (x : Rel) : (s.setRel x).units = s.units := rfl
@[simp] theorem State.setRel_arrs (x : Rel) : (s.setRel x).arrs = s.arrs := rfl
@[simp] theorem State.setRel_wings (x : Rel) : (s.setRel x).wings = s.wings := rfl
@[simp] theorem State.setRel_mem (x : Rel) : (s.setRel x).mem = s.mem := rfl
@[simp] theorem State.setRel_ecc (x : Rel) : (s.setRel x).ecc = s.ecc := rfl
@[simp] theorem State.setRel_banks (x : Rel) : (s.setRel x).banks = s.banks := rfl
@[simp] theorem State.setRel_inv (x : Rel) : (s.setRel x).inv = s.inv := rfl
@[simp] theorem State.setRel_vault (x : Rel) : (s.setRel x).vault = s.vault := rfl
@[simp] theorem State.setRel_flash (x : Rel) : (s.setRel x).flash = s.flash := rfl
@[simp] theorem State.setRel_tier (x : Rel) : (s.setRel x).tier = s.tier := rfl
@[simp] theorem State.setRel_fab (x : Rel) : (s.setRel x).fab = s.fab := rfl
@[simp] theorem State.setRel_rst (x : Rel) : (s.setRel x).rst = s.rst := rfl
@[simp] theorem State.setRel_pwr (x : Rel) : (s.setRel x).pwr = s.pwr := rfl
@[simp] theorem State.setRel_rel (x : Rel) : (s.setRel x).rel = x := rfl
@[simp] theorem State.setRel_sec (x : Rel) : (s.setRel x).sec = s.sec := rfl
@[simp] theorem State.setRel_pcie (x : Rel) : (s.setRel x).pcie = s.pcie := rfl
@[simp] theorem State.setRel_mgt (x : Rel) : (s.setRel x).mgt = s.mgt := rfl

/-! ### setSec -/

@[simp] theorem State.setSec_pending (x : Sec) : (s.setSec x).pending = s.pending := rfl
@[simp] theorem State.setSec_out (x : Sec) : (s.setSec x).out = s.out := rfl
@[simp] theorem State.setSec_wr (x : Sec) : (s.setSec x).wr = s.wr := rfl
@[simp] theorem State.setSec_freeCtr (x : Sec) : (s.setSec x).freeCtr = s.freeCtr := rfl
@[simp] theorem State.setSec_clk (x : Sec) : (s.setSec x).clk = s.clk := rfl
@[simp] theorem State.setSec_tick (x : Sec) : (s.setSec x).tick = s.tick := rfl
@[simp] theorem State.setSec_adm (x : Sec) : (s.setSec x).adm = s.adm := rfl
@[simp] theorem State.setSec_desk (x : Sec) : (s.setSec x).desk = s.desk := rfl
@[simp] theorem State.setSec_run (x : Sec) : (s.setSec x).run = s.run := rfl
@[simp] theorem State.setSec_units (x : Sec) : (s.setSec x).units = s.units := rfl
@[simp] theorem State.setSec_arrs (x : Sec) : (s.setSec x).arrs = s.arrs := rfl
@[simp] theorem State.setSec_wings (x : Sec) : (s.setSec x).wings = s.wings := rfl
@[simp] theorem State.setSec_mem (x : Sec) : (s.setSec x).mem = s.mem := rfl
@[simp] theorem State.setSec_ecc (x : Sec) : (s.setSec x).ecc = s.ecc := rfl
@[simp] theorem State.setSec_banks (x : Sec) : (s.setSec x).banks = s.banks := rfl
@[simp] theorem State.setSec_inv (x : Sec) : (s.setSec x).inv = s.inv := rfl
@[simp] theorem State.setSec_vault (x : Sec) : (s.setSec x).vault = s.vault := rfl
@[simp] theorem State.setSec_flash (x : Sec) : (s.setSec x).flash = s.flash := rfl
@[simp] theorem State.setSec_tier (x : Sec) : (s.setSec x).tier = s.tier := rfl
@[simp] theorem State.setSec_fab (x : Sec) : (s.setSec x).fab = s.fab := rfl
@[simp] theorem State.setSec_rst (x : Sec) : (s.setSec x).rst = s.rst := rfl
@[simp] theorem State.setSec_pwr (x : Sec) : (s.setSec x).pwr = s.pwr := rfl
@[simp] theorem State.setSec_rel (x : Sec) : (s.setSec x).rel = s.rel := rfl
@[simp] theorem State.setSec_sec (x : Sec) : (s.setSec x).sec = x := rfl
@[simp] theorem State.setSec_pcie (x : Sec) : (s.setSec x).pcie = s.pcie := rfl
@[simp] theorem State.setSec_mgt (x : Sec) : (s.setSec x).mgt = s.mgt := rfl

/-! ### setPcie -/

@[simp] theorem State.setPcie_pending (x : Pcie) : (s.setPcie x).pending = s.pending := rfl
@[simp] theorem State.setPcie_out (x : Pcie) : (s.setPcie x).out = s.out := rfl
@[simp] theorem State.setPcie_wr (x : Pcie) : (s.setPcie x).wr = s.wr := rfl
@[simp] theorem State.setPcie_freeCtr (x : Pcie) : (s.setPcie x).freeCtr = s.freeCtr := rfl
@[simp] theorem State.setPcie_clk (x : Pcie) : (s.setPcie x).clk = s.clk := rfl
@[simp] theorem State.setPcie_tick (x : Pcie) : (s.setPcie x).tick = s.tick := rfl
@[simp] theorem State.setPcie_adm (x : Pcie) : (s.setPcie x).adm = s.adm := rfl
@[simp] theorem State.setPcie_desk (x : Pcie) : (s.setPcie x).desk = s.desk := rfl
@[simp] theorem State.setPcie_run (x : Pcie) : (s.setPcie x).run = s.run := rfl
@[simp] theorem State.setPcie_units (x : Pcie) : (s.setPcie x).units = s.units := rfl
@[simp] theorem State.setPcie_arrs (x : Pcie) : (s.setPcie x).arrs = s.arrs := rfl
@[simp] theorem State.setPcie_wings (x : Pcie) : (s.setPcie x).wings = s.wings := rfl
@[simp] theorem State.setPcie_mem (x : Pcie) : (s.setPcie x).mem = s.mem := rfl
@[simp] theorem State.setPcie_ecc (x : Pcie) : (s.setPcie x).ecc = s.ecc := rfl
@[simp] theorem State.setPcie_banks (x : Pcie) : (s.setPcie x).banks = s.banks := rfl
@[simp] theorem State.setPcie_inv (x : Pcie) : (s.setPcie x).inv = s.inv := rfl
@[simp] theorem State.setPcie_vault (x : Pcie) : (s.setPcie x).vault = s.vault := rfl
@[simp] theorem State.setPcie_flash (x : Pcie) : (s.setPcie x).flash = s.flash := rfl
@[simp] theorem State.setPcie_tier (x : Pcie) : (s.setPcie x).tier = s.tier := rfl
@[simp] theorem State.setPcie_fab (x : Pcie) : (s.setPcie x).fab = s.fab := rfl
@[simp] theorem State.setPcie_rst (x : Pcie) : (s.setPcie x).rst = s.rst := rfl
@[simp] theorem State.setPcie_pwr (x : Pcie) : (s.setPcie x).pwr = s.pwr := rfl
@[simp] theorem State.setPcie_rel (x : Pcie) : (s.setPcie x).rel = s.rel := rfl
@[simp] theorem State.setPcie_sec (x : Pcie) : (s.setPcie x).sec = s.sec := rfl
@[simp] theorem State.setPcie_pcie (x : Pcie) : (s.setPcie x).pcie = x := rfl
@[simp] theorem State.setPcie_mgt (x : Pcie) : (s.setPcie x).mgt = s.mgt := rfl

/-! ### setMgt -/

@[simp] theorem State.setMgt_pending (x : Mgt) : (s.setMgt x).pending = s.pending := rfl
@[simp] theorem State.setMgt_out (x : Mgt) : (s.setMgt x).out = s.out := rfl
@[simp] theorem State.setMgt_wr (x : Mgt) : (s.setMgt x).wr = s.wr := rfl
@[simp] theorem State.setMgt_freeCtr (x : Mgt) : (s.setMgt x).freeCtr = s.freeCtr := rfl
@[simp] theorem State.setMgt_clk (x : Mgt) : (s.setMgt x).clk = s.clk := rfl
@[simp] theorem State.setMgt_tick (x : Mgt) : (s.setMgt x).tick = s.tick := rfl
@[simp] theorem State.setMgt_adm (x : Mgt) : (s.setMgt x).adm = s.adm := rfl
@[simp] theorem State.setMgt_desk (x : Mgt) : (s.setMgt x).desk = s.desk := rfl
@[simp] theorem State.setMgt_run (x : Mgt) : (s.setMgt x).run = s.run := rfl
@[simp] theorem State.setMgt_units (x : Mgt) : (s.setMgt x).units = s.units := rfl
@[simp] theorem State.setMgt_arrs (x : Mgt) : (s.setMgt x).arrs = s.arrs := rfl
@[simp] theorem State.setMgt_wings (x : Mgt) : (s.setMgt x).wings = s.wings := rfl
@[simp] theorem State.setMgt_mem (x : Mgt) : (s.setMgt x).mem = s.mem := rfl
@[simp] theorem State.setMgt_ecc (x : Mgt) : (s.setMgt x).ecc = s.ecc := rfl
@[simp] theorem State.setMgt_banks (x : Mgt) : (s.setMgt x).banks = s.banks := rfl
@[simp] theorem State.setMgt_inv (x : Mgt) : (s.setMgt x).inv = s.inv := rfl
@[simp] theorem State.setMgt_vault (x : Mgt) : (s.setMgt x).vault = s.vault := rfl
@[simp] theorem State.setMgt_flash (x : Mgt) : (s.setMgt x).flash = s.flash := rfl
@[simp] theorem State.setMgt_tier (x : Mgt) : (s.setMgt x).tier = s.tier := rfl
@[simp] theorem State.setMgt_fab (x : Mgt) : (s.setMgt x).fab = s.fab := rfl
@[simp] theorem State.setMgt_rst (x : Mgt) : (s.setMgt x).rst = s.rst := rfl
@[simp] theorem State.setMgt_pwr (x : Mgt) : (s.setMgt x).pwr = s.pwr := rfl
@[simp] theorem State.setMgt_rel (x : Mgt) : (s.setMgt x).rel = s.rel := rfl
@[simp] theorem State.setMgt_sec (x : Mgt) : (s.setMgt x).sec = s.sec := rfl
@[simp] theorem State.setMgt_pcie (x : Mgt) : (s.setMgt x).pcie = s.pcie := rfl
@[simp] theorem State.setMgt_mgt (x : Mgt) : (s.setMgt x).mgt = x := rfl

/-! ### finish -/

@[simp] theorem finish_pending : (finish s t).pending = s.pending := rfl
@[simp] theorem finish_out : (finish s t).out = t.out := rfl
@[simp] theorem finish_wr : (finish s t).wr = [] := rfl
@[simp] theorem finish_freeCtr : (finish s t).freeCtr = t.freeCtr := rfl
@[simp] theorem finish_clk : (finish s t).clk = t.clk := rfl
@[simp] theorem finish_tick : (finish s t).tick = t.tick := rfl
@[simp] theorem finish_adm : (finish s t).adm = t.adm := rfl
@[simp] theorem finish_desk : (finish s t).desk = t.desk := rfl
@[simp] theorem finish_run : (finish s t).run = t.run := rfl
@[simp] theorem finish_units : (finish s t).units = t.units := rfl
@[simp] theorem finish_arrs : (finish s t).arrs = t.arrs := rfl
@[simp] theorem finish_wings : (finish s t).wings = t.wings := rfl
@[simp] theorem finish_mem : (finish s t).mem = memOps s.mem t.wr := rfl
@[simp] theorem finish_ecc : (finish s t).ecc = t.ecc := rfl
@[simp] theorem finish_banks : (finish s t).banks = t.banks := rfl
@[simp] theorem finish_inv : (finish s t).inv = t.inv := rfl
@[simp] theorem finish_vault : (finish s t).vault = t.vault := rfl
@[simp] theorem finish_flash : (finish s t).flash = t.flash := rfl
@[simp] theorem finish_tier : (finish s t).tier = t.tier := rfl
@[simp] theorem finish_fab : (finish s t).fab = t.fab := rfl
@[simp] theorem finish_rst : (finish s t).rst = t.rst := rfl
@[simp] theorem finish_pwr : (finish s t).pwr = t.pwr := rfl
@[simp] theorem finish_rel : (finish s t).rel = t.rel := rfl
@[simp] theorem finish_sec : (finish s t).sec = t.sec := rfl
@[simp] theorem finish_pcie : (finish s t).pcie = t.pcie := rfl
@[simp] theorem finish_mgt : (finish s t).mgt = t.mgt := rfl

end Sys2Proof.Machine
end

