-- ==== Sys2Proof/Laws/Tables.lean ====
section
/-! SUPPORT. Laws of the sparse tables: what a key reads after a store, and that every store keeps the canonical form; and the
same for the units of the State that are tabled. -/

set_option Elab.async false

namespace Sys2Proof.Machine

section Tab
variable {α : Type} (d : α)

theorem tabGet_tabDel (t : Tab α) (i j : Nat) : tabGet d (tabDel t i) j = if i = j then d else tabGet d t j := by
  induction t with
  | nil => simp [tabDel, tabGet]
  | cons c t ih =>
    obtain ⟨k, v⟩ := c
    by_cases hk : k = i
    · subst hk
      have : tabDel ((k, v) :: t) k = tabDel t k := by simp [tabDel]
      rw [this, ih]
      by_cases hj : k = j <;> simp [tabGet, hj]
    · have : tabDel ((k, v) :: t) i = (k, v) :: tabDel t i := by simp [tabDel, hk]
      rw [this]
      by_cases hj : k = j
      · subst hj
        simp [tabGet, Ne.symm hk]
      · simp [tabGet, hj, ih]

theorem tabGet_tabIns (t : Tab α) (i j : Nat) (v : α) : tabGet d (tabIns t i v) j = if i = j then v else tabGet d t j := by
  induction t with
  | nil => simp [tabIns, tabGet]
  | cons c t ih =>
    obtain ⟨k, w⟩ := c
    unfold tabIns
    split
    · by_cases hj : k = j
      · subst hj
        have : i ≠ k := by omega
        simp [tabGet, this]
      · simp [tabGet, hj, ih]
    · split
      · next h => subst h; by_cases hj : k = j <;> simp [tabGet, hj]
      · simp [tabGet]

/-- A key reads what was last stored at it. -/
theorem tabGet_tabSet [DecidableEq α] (t : Tab α) (i j : Nat) (v : α) :
    tabGet d (tabSet d t i v) j = if i = j then v else tabGet d t j := by
  unfold tabSet
  split
  · next h => rw [tabGet_tabDel, h]
  · exact tabGet_tabIns d t i j v

@[simp] theorem tabGet_tabSet_same [DecidableEq α] (t : Tab α) (i : Nat) (v : α) : tabGet d (tabSet d t i v) i = v := by
  simp [tabGet_tabSet]

theorem tabGet_tabSet_ne [DecidableEq α] (t : Tab α) {i j : Nat} (v : α) (h : i ≠ j) :
    tabGet d (tabSet d t i v) j = tabGet d t j := by
  simp [tabGet_tabSet, h]

theorem tabWf_iff [DecidableEq α] (t : Tab α) :
    tabWf d t = true ↔ (∀ c ∈ t, c.2 ≠ d) ∧ t.Pairwise fun a b => a.1 < b.1 := by
  simp [tabWf]

theorem mem_tabIns (t : Tab α) (i : Nat) (v : α) (c : Nat × α) (h : c ∈ tabIns t i v) : c = (i, v) ∨ c ∈ t := by
  induction t with
  | nil => simpa [tabIns] using h
  | cons a t ih =>
    obtain ⟨k, w⟩ := a
    unfold tabIns at h
    split at h
    · rcases List.mem_cons.1 h with rfl | h
      · simp
      · rcases ih h with h | h <;> simp [h]
    · split at h
      · rcases List.mem_cons.1 h with rfl | h <;> simp [*]
      · rcases List.mem_cons.1 h with rfl | h <;> simp_all

theorem pairwise_tabIns (t : Tab α) (i : Nat) (v : α) (h : t.Pairwise fun a b => a.1 < b.1) :
    (tabIns t i v).Pairwise fun a b => a.1 < b.1 := by
  induction t with
  | nil => simp [tabIns]
  | cons a t ih =>
    obtain ⟨k, w⟩ := a
    rw [List.pairwise_cons] at h
    obtain ⟨h1, h2⟩ := h
    unfold tabIns
    split
    · next hk =>
      refine List.pairwise_cons.2 ⟨fun c hc => ?_, ih h2⟩
      rcases mem_tabIns t i v c hc with rfl | hc
      · exact hk
      · exact h1 c hc
    · split
      · next hk => subst hk; exact List.pairwise_cons.2 ⟨h1, h2⟩
      · refine List.pairwise_cons.2 ⟨fun c hc => ?_, List.pairwise_cons.2 ⟨h1, h2⟩⟩
        rcases List.mem_cons.1 hc with rfl | hc
        · show i < k; omega
        · have := h1 c hc; show i < c.1; simp only at this; omega

/-- A store keeps the canonical form. -/
theorem tabWf_tabSet [DecidableEq α] (t : Tab α) (i : Nat) (v : α) (h : tabWf d t = true) : tabWf d (tabSet d t i v) = true := by
  rw [tabWf_iff] at h ⊢
  obtain ⟨h1, h2⟩ := h
  unfold tabSet
  split
  · exact ⟨fun c hc => h1 c (List.mem_filter.1 hc).1, h2.filter _⟩
  · next hv =>
    refine ⟨fun c hc => ?_, pairwise_tabIns t i v h2⟩
    rcases mem_tabIns t i v c hc with rfl | hc
    · exact hv
    · exact h1 c hc

end Tab

/-! ### The tabled units of the State: a unit reads what was stored in it, and no other unit changes -/

variable (s : State)

@[simp] theorem getMb_setMb (f k : Nat) (m : Mbox) : getMb (setMb s f k m) f k = m := by simp [getMb, setMb]
theorem getMb_setMb_ne {f k f' k' : Nat} (m : Mbox) (h : 8 * f + k ≠ 8 * f' + k') : getMb (setMb s f k m) f' k' = getMb s f' k' := by
  simp [getMb, setMb, tabGet_tabSet_ne _ _ _ h]
@[simp] theorem getFn_setFn (f : Nat) (x : FnReg) : getFn (setFn s f x) f = x := by simp [getFn, setFn]
theorem getFn_setFn_ne {f g : Nat} (x : FnReg) (h : f ≠ g) : getFn (setFn s f x) g = getFn s g := by
  simp [getFn, setFn, tabGet_tabSet_ne _ _ _ h]
@[simp] theorem getQ_setQ (q : Nat) (x : Queue) : getQ (setQ s q x) q = x := by simp [getQ, setQ]
theorem getQ_setQ_ne {q r : Nat} (x : Queue) (h : q ≠ r) : getQ (setQ s q x) r = getQ s r := by
  simp [getQ, setQ, tabGet_tabSet_ne _ _ _ h]
@[simp] theorem getRun_putRun (w r : Nat) (x : Runner) : getRun (putRun s w r x) w r = x := by simp [getRun, putRun]
@[simp] theorem getGlo_setGlo (w u : Nat) (x : Glo) : getGlo (setGlo s w u x) w u = x := by simp [getGlo, setGlo]
@[simp] theorem getLed_setLed (w u : Nat) (x : Led) : getLed (setLed s w u x) w u = x := by simp [getLed, setLed]
@[simp] theorem getRet_setRet (w u : Nat) (x : Ret) : getRet (setRet s w u x) w u = x := by simp [getRet, setRet]
@[simp] theorem getArr_setArr (w a : Nat) (x : Arr) : getArr (setArr s w a x) w a = x := by simp [getArr, setArr]
@[simp] theorem getGroup_setGroup (l g : Nat) (x : Group) : getGroup (setGroup s l g x) l g = x := by simp [getGroup, setGroup]
@[simp] theorem getSlot_setSlot (w a k : Nat) (x : Slot) : getSlot (setSlot s w a k x) w a k = x := by simp [getSlot, setSlot]
@[simp] theorem getWing_setWing (w : Nat) (x : Wing) : getWing (setWing s w x) w = x := by simp [getWing, setWing]
@[simp] theorem getBank_setBank (w k : Nat) (x : Bank) : getBank (setBank s w k x) w k = x := by simp [getBank, setBank]
@[simp] theorem getFolio_setFolio (f : Nat) (x : Folio) : getFolio (setFolio s f x) f = x := by simp [getFolio, setFolio]
theorem getFolio_setFolio_ne {f g : Nat} (x : Folio) (h : f ≠ g) : getFolio (setFolio s f x) g = getFolio s g := by
  simp [getFolio, setFolio, tabGet_tabSet_ne _ _ _ h]
@[simp] theorem getPort_setPort (p : Nat) (x : Port) : getPort (setPort s p x) p = x := by simp [getPort, setPort]
theorem getPort_setPort_ne {p q : Nat} (x : Port) (h : p ≠ q) : getPort (setPort s p x) q = getPort s q := by
  simp [getPort, setPort, tabGet_tabSet_ne _ _ _ h]
@[simp] theorem getPcie_setPcieFn (f : Nat) (x : PcieFn) : getPcie (setPcieFn s f x) f = x := by simp [getPcie, setPcieFn]

end Sys2Proof.Machine
end

