-- ==== Sys2Proof/Laws/Memory.lean ====
section
/-! SUPPORT. Laws of the device memory: every operation keeps the canonical form, what an address reads after a store, and that
what a command reads while it runs is what stands in memory when it has ended. -/

namespace Sys2Proof.Machine

/-! ### The canonical form -/

theorem mem_cellsOf (z : Byte) (bs : List Byte) (a : Nat) (c : Host.Cell) (h : c ∈ cellsOf z a bs) :
    a ≤ c.1 ∧ c.1 < a + bs.length ∧ c.2 ≠ z := by
  induction bs generalizing a with
  | nil => simp [cellsOf] at h
  | cons b t ih =>
    unfold cellsOf at h
    simp only [List.length_cons]
    split at h
    · have := ih _ h; exact ⟨by omega, by omega, this.2.2⟩
    · rcases List.mem_cons.1 h with rfl | h
      · exact ⟨Nat.le_refl a, by simp, ‹_›⟩
      · have := ih _ h; refine ⟨by omega, by omega, this.2.2⟩

theorem pairwise_cellsOf (z : Byte) (bs : List Byte) (a : Nat) : (cellsOf z a bs).Pairwise fun x y => x.1 < y.1 := by
  induction bs generalizing a with
  | nil => simp [cellsOf]
  | cons b t ih =>
    unfold cellsOf
    split
    · exact ih _
    · refine List.pairwise_cons.2 ⟨fun c hc => ?_, ih _⟩
      have := (mem_cellsOf z t (a + 1) c hc).1
      show a < c.1
      omega

/-- A store keeps the canonical form, whatever an unlisted address reads as. -/
theorem tabWf_memPut (z : Byte) (m : List Host.Cell) (a : Nat) (bs : List Byte) (h : tabWf z m = true) :
    tabWf z (memPut z m a bs) = true := by
  rw [tabWf_iff] at h ⊢
  obtain ⟨h1, h2⟩ := h
  refine ⟨fun c hc => ?_, ?_⟩
  · simp only [memPut, List.mem_append, List.mem_filter] at hc
    rcases hc with (hc | hc) | hc
    · exact h1 c hc.1
    · exact (mem_cellsOf z bs a c hc).2.2
    · exact h1 c hc.1
  · simp only [memPut, List.pairwise_append, List.mem_append, List.mem_filter, decide_eq_true_eq]
    refine ⟨⟨h2.filter _, pairwise_cellsOf z bs a, fun x hx y hy => ?_⟩, h2.filter _, fun x hx y hy => ?_⟩
    · have := mem_cellsOf z bs a y hy; have := hx.2; omega
    · rcases hx with hx | hx
      · have := hx.2; have := hy.2; omega
      · have := mem_cellsOf z bs a x hx; have := hy.2; omega

theorem tabWf_memClear (z : Byte) (m : List Host.Cell) (lo hi : Nat) (h : tabWf z m = true) :
    tabWf z (memClear m lo hi) = true := by
  rw [tabWf_iff] at h ⊢
  exact ⟨fun c hc => h.1 c (List.mem_filter.1 hc).1, h.2.filter _⟩

/-- Every memory operation keeps the canonical form. -/
theorem Memory.wf_memOp (m : List Host.Cell) (o : MemOp) (h : Memory.wf m = true) : Memory.wf (memOp m o) = true := by
  cases o with
  | store a bs => exact tabWf_memPut 0 m a bs h
  | clear lo hi => exact tabWf_memClear 0 m lo hi h

theorem Memory.wf_memOps (m : List Host.Cell) (ops : List MemOp) (h : Memory.wf m = true) : Memory.wf (memOps m ops) = true := by
  induction ops with
  | nil => exact h
  | cons o t ih => exact Memory.wf_memOp _ o ih

theorem Memory.wf_reset : Memory.wf State.reset.mem = true := by decide

/-! ### What an address reads -/

/-- The byte at an address of cells. -/
abbrev cellAt (z : Byte) (m : List Host.Cell) (x : Nat) : Byte := tabGet z m x

theorem cellAt_append (z : Byte) (l r : List Host.Cell) (x : Nat) :
    cellAt z (l ++ r) x = if x ∈ l.map (·.1) then cellAt z l x else cellAt z r x := by
  induction l with
  | nil => simp
  | cons c t ih =>
    obtain ⟨k, v⟩ := c
    by_cases hk : k = x
    · subst hk; simp [cellAt, tabGet]
    · have : ¬ x = k := fun e => hk e.symm
      simp only [cellAt, List.cons_append, tabGet, hk, if_false, List.map_cons, List.mem_cons, this, false_or]
      simpa [cellAt] using ih

theorem cellAt_filter (z : Byte) (m : List Host.Cell) (p : Nat → Bool) (x : Nat) :
    cellAt z (m.filter fun c => p c.1) x = if p x then cellAt z m x else z := by
  induction m with
  | nil => simp [cellAt, tabGet]
  | cons c t ih =>
    obtain ⟨k, v⟩ := c
    by_cases hk : k = x
    · subst hk
      cases hp : p k
      · simpa [cellAt, List.filter, hp] using ih
      · simp [cellAt, List.filter, hp, tabGet]
    · cases hp : p k <;> simpa [cellAt, List.filter, hp, tabGet, hk] using ih

theorem cellAt_cellsOf (z : Byte) (bs : List Byte) (a x : Nat) :
    cellAt z (cellsOf z a bs) x = if a ≤ x ∧ x < a + bs.length then bs.getD (x - a) z else z := by
  induction bs generalizing a with
  | nil => simp [cellsOf, cellAt, tabGet]
  | cons b t ih =>
    unfold cellsOf
    by_cases hx : x = a
    · subst hx
      split
      · next hb =>
        have n : ¬ (x + 1 ≤ x ∧ x < x + 1 + t.length) := by omega
        rw [ih, if_neg n]; simp [hb]
      · simp [cellAt, tabGet]
    · have e : cellAt z (cellsOf z (a + 1) t) x = if a ≤ x ∧ x < a + (b :: t).length then (b :: t).getD (x - a) z else z := by
        rw [ih]
        simp only [List.length_cons]
        by_cases h : a ≤ x ∧ x < a + (t.length + 1)
        · have h' : a + 1 ≤ x ∧ x < a + 1 + t.length := by omega
          have : x - a = (x - (a + 1)) + 1 := by omega
          simp [h, h', this]
        · have h' : ¬ (a + 1 ≤ x ∧ x < a + 1 + t.length) := by omega
          rw [if_neg h, if_neg h']
      split
      · exact e
      · have : a ≠ x := fun h => hx h.symm
        simpa [cellAt, tabGet, this] using e

theorem cellAt_eq_of_not_mem (z : Byte) (m : List Host.Cell) (x : Nat) (h : x ∉ m.map (·.1)) : cellAt z m x = z := by
  induction m with
  | nil => rfl
  | cons c t ih =>
    obtain ⟨k, v⟩ := c
    simp only [List.map_cons, List.mem_cons, not_or] at h
    simp only [cellAt, tabGet, if_neg (Ne.symm h.1)]
    exact ih h.2

/-- What an address reads after a store: the stored byte inside the range, the old one elsewhere. -/
theorem cellAt_memPut (z : Byte) (m : List Host.Cell) (a : Nat) (bs : List Byte) (x : Nat) :
    cellAt z (memPut z m a bs) x = if a ≤ x ∧ x < a + bs.length then bs.getD (x - a) z else cellAt z m x := by
  have h1 := cellAt_filter z m (fun k => decide (k < a)) x
  have h3 := cellAt_filter z m (fun k => decide (a + bs.length ≤ k)) x
  have h2 := cellAt_cellsOf z bs a x
  simp only [memPut, List.append_assoc]
  rw [cellAt_append, cellAt_append, h1, h2, h3]
  simp only [decide_eq_true_eq]
  by_cases hlo : x < a
  · have n1 : ¬ (a ≤ x ∧ x < a + bs.length) := by omega
    have n2 : ¬ (x ∈ (cellsOf z a bs).map (·.1)) := by
      rw [List.mem_map]; rintro ⟨c, hc, rfl⟩; have := mem_cellsOf z bs a c hc; omega
    have n3 : ¬ (a + bs.length ≤ x) := by omega
    rw [if_neg n1, if_neg n2, if_neg n3, if_pos hlo]
    split
    · rfl
    · next hm =>
      refine (cellAt_eq_of_not_mem z m x fun h => hm ?_).symm
      obtain ⟨c, hc, rfl⟩ := List.mem_map.1 h
      exact List.mem_map.2 ⟨c, List.mem_filter.2 ⟨hc, by simpa using hlo⟩, rfl⟩
  · have n0 : ¬ (x ∈ (m.filter fun c => decide (c.1 < a)).map (·.1)) := by
      rw [List.mem_map]; rintro ⟨c, h, rfl⟩; exact hlo (by simpa using (List.mem_filter.1 h).2)
    rw [if_neg n0]
    by_cases hin : a ≤ x ∧ x < a + bs.length
    · rw [if_pos hin]
      split
      · rfl
      · next hm =>
        have n3 : ¬ (a + bs.length ≤ x) := by omega
        rw [if_neg n3]
        have := cellAt_eq_of_not_mem z (cellsOf z a bs) x hm
        rw [h2, if_pos hin] at this
        exact this.symm
    · rw [if_neg hin]
      have n2 : ¬ (x ∈ (cellsOf z a bs).map (·.1)) := by
        rw [List.mem_map]; rintro ⟨c, hc, rfl⟩; have := mem_cellsOf z bs a c hc; omega
      have h4 : a + bs.length ≤ x := by omega
      rw [if_neg n2, if_pos h4, if_neg hin]

theorem cellAt_memClear (z : Byte) (m : List Host.Cell) (lo hi x : Nat) :
    cellAt z (memClear m lo hi) x = if lo ≤ x ∧ x < hi then z else cellAt z m x := by
  have := cellAt_filter z m (fun k => decide (k < lo) || decide (hi ≤ k)) x
  unfold memClear
  rw [this]
  by_cases h : lo ≤ x ∧ x < hi
  · have n : ¬ (x < lo ∨ hi ≤ x) := by omega
    simp [h, n]
  · have n : x < lo ∨ hi ≤ x := by omega
    simp [h, n]

/-! ### Reading bytes -/

theorem fillBytes_length (z : Byte) (n a : Nat) (m : List Host.Cell) : (fillBytes z n a m).length = n := by
  induction n generalizing a m with
  | zero => simp [fillBytes]
  | succ n ih =>
    cases m with
    | nil => simp [fillBytes, ih]
    | cons c t =>
      obtain ⟨k, v⟩ := c
      unfold fillBytes
      split <;> simp [ih]

theorem fillBytes_getD (z : Byte) (n a : Nat) (m : List Host.Cell) (hp : m.Pairwise fun x y => x.1 < y.1)
    (ha : ∀ c ∈ m, a ≤ c.1) (i : Nat) (hi : i < n) : (fillBytes z n a m).getD i z = cellAt z m (a + i) := by
  induction n generalizing a m i with
  | zero => omega
  | succ n ih =>
    cases m with
    | nil =>
      cases i with
      | zero => simp [fillBytes, cellAt, tabGet]
      | succ i =>
        have := ih (a + 1) [] (by simp) (by simp) i (by omega)
        simpa [fillBytes, cellAt, tabGet] using this
    | cons c t =>
      obtain ⟨k, v⟩ := c
      have hk := ha (k, v) (by simp)
      rw [List.pairwise_cons] at hp
      unfold fillBytes
      split
      · next e =>
        subst e
        cases i with
        | zero => simp [cellAt, tabGet]
        | succ i =>
          have := ih (k + 1) t hp.2 (fun c hc => hp.1 c hc) i (by omega)
          have e1 : k + 1 + i = k + (i + 1) := by omega
          have e2 : ¬ k = k + (i + 1) := by omega
          simp only [List.getD_cons_succ, this, cellAt, e1]
          simp [tabGet]
      · next e =>
        cases i with
        | zero =>
          have : cellAt z ((k, v) :: t) (a + 0) = z := by
            refine cellAt_eq_of_not_mem z _ _ fun h => ?_
            simp only [List.map_cons, List.mem_cons, List.mem_map] at h
            rcases h with h | ⟨c, hc, h⟩
            · exact e (by omega)
            · have := hp.1 c hc; simp only at this hk; omega
          exact this.symm
        | succ i =>
          have := ih (a + 1) ((k, v) :: t) (List.pairwise_cons.2 hp) (fun c hc => by
            rcases List.mem_cons.1 hc with rfl | hc
            · simp only at hk ⊢; omega
            · have := hp.1 c hc; simp only at this hk; omega) i (by omega)
          have e1 : a + 1 + i = a + (i + 1) := by omega
          simpa [e1] using this

theorem memBytes_length (z : Byte) (m : List Host.Cell) (a n : Nat) : (memBytes z m a n).length = n := fillBytes_length ..

/-- The bytes of a read, one by one. -/
theorem memBytes_getD (z : Byte) (m : List Host.Cell) (a n i : Nat) (hw : tabWf z m = true) (hi : i < n) :
    (memBytes z m a n).getD i z = cellAt z m (a + i) := by
  have hw := (tabWf_iff z m).1 hw
  unfold memBytes
  have hs := (cellAt_filter z m (fun k => decide (a ≤ k) && decide (k < a + n)) (a + i))
  have := fillBytes_getD z n a (m.filter fun c => decide (a ≤ c.1) && decide (c.1 < a + n)) (hw.2.filter _)
    (fun c hc => by have := (List.mem_filter.1 hc).2; simp at this; exact this.1) i hi
  rw [this, hs]
  have : a + i < a + n := by omega
  simp [this]

theorem patchBytes_length (a : Nat) (o : MemOp) (bs : List Byte) : (patchBytes a o bs).length = bs.length := by
  unfold patchBytes
  cases o with
  | store b cs =>
    simp only
    split
    · rfl
    · simp only [List.length_append, List.length_take, List.length_drop]; omega
  | clear lo hi =>
    simp only
    split
    · rfl
    · simp only [List.length_append, List.length_take, List.length_drop, List.length_replicate]; omega

/-- A patched read reads the stored byte inside the store's range. -/
theorem patchBytes_getD (a : Nat) (o : MemOp) (bs : List Byte) (m : List Host.Cell) (i : Nat) (hi : i < bs.length)
    (h : bs.getD i 0 = cellAt 0 m (a + i)) : (patchBytes a o bs).getD i 0 = cellAt 0 (memOp m o) (a + i) := by
  have key : ∀ (b n : Nat) (mid : List Byte), mid.length = min (a + bs.length) (b + n) - max a b →
      ¬ min (a + bs.length) (b + n) ≤ max a b →
      (bs.take (max a b - a) ++ mid ++ bs.drop (min (a + bs.length) (b + n) - a)).getD i 0 =
        if b ≤ a + i ∧ a + i < b + n then mid.getD (a + i - max a b) 0 else bs.getD i 0 := by
    intro b n mid hm hn
    simp only [List.getD_eq_getElem?_getD]
    by_cases h1 : i < max a b - a
    · have : ¬ (b ≤ a + i ∧ a + i < b + n) := by omega
      rw [if_neg this, List.append_assoc, List.getElem?_append_left (by simp; omega), List.getElem?_take_of_lt h1]
    · by_cases h2 : a + i < min (a + bs.length) (b + n)
      · have : b ≤ a + i ∧ a + i < b + n := by omega
        rw [if_pos this, List.append_assoc, List.getElem?_append_right (by simp; omega),
          List.getElem?_append_left (by simp; omega)]
        congr 2
        simp; omega
      · have : ¬ (b ≤ a + i ∧ a + i < b + n) := by omega
        rw [if_neg this, List.getElem?_append_right (by simp; omega), List.getElem?_drop]
        congr 2
        simp; omega
  cases o with
  | store b cs =>
    simp only [memOp, cellAt_memPut]
    unfold patchBytes
    simp only
    split
    · have : ¬ (b ≤ a + i ∧ a + i < b + cs.length) := by omega
      rw [if_neg this]; exact h
    · next hn =>
      rw [key b cs.length _ (by simp; omega) hn]
      by_cases hb : b ≤ a + i ∧ a + i < b + cs.length
      · rw [if_pos hb, if_pos hb]
        simp only [List.getD_eq_getElem?_getD]
        rw [List.getElem?_take_of_lt (by omega), List.getElem?_drop]
        congr 2
        omega
      · rw [if_neg hb, if_neg hb]; exact h
  | clear lo hi' =>
    simp only [memOp, cellAt_memClear]
    unfold patchBytes
    simp only
    split
    · have : ¬ (lo ≤ a + i ∧ a + i < hi') := by omega
      rw [if_neg this]; exact h
    · next hn =>
      rw [key lo (hi' - lo) _ (by simp) hn]
      by_cases hb : lo ≤ a + i ∧ a + i < hi'
      · have hb' : lo ≤ a + i ∧ a + i < lo + (hi' - lo) := by omega
        rw [if_pos hb, if_pos hb']
        simp only [List.getD_eq_getElem?_getD]
        rw [List.getElem?_replicate]
        split <;> rfl
      · have hb' : ¬ (lo ≤ a + i ∧ a + i < lo + (hi' - lo)) := by omega
        rw [if_neg hb, if_neg hb']; exact h

theorem readMem_length (s : State) (a n : Nat) : (readMem s a n).length = n := by
  unfold readMem
  induction s.wr with
  | nil => exact memBytes_length ..
  | cons o t ih => rw [List.foldr_cons, patchBytes_length, ih]

/-- What a command reads while it runs is what memory holds once its stores stand in it. -/
theorem readMem_getD (s : State) (a n i : Nat) (hw : Memory.wf s.mem = true) (hi : i < n) :
    (readMem s a n).getD i 0 = cellAt 0 (memOps s.mem s.wr) (a + i) := by
  unfold readMem
  induction s.wr with
  | nil => exact memBytes_getD 0 s.mem a n i hw hi
  | cons o t ih =>
    have hl : (t.foldr (patchBytes a) (memBytes 0 s.mem a n)).length = n := by
      clear ih
      induction t with
      | nil => exact memBytes_length ..
      | cons o t ih => rw [List.foldr_cons, patchBytes_length, ih]
    exact patchBytes_getD a o _ _ i (by rw [hl]; exact hi) ih

theorem headD_eq_getD {α : Type} (l : List α) (d : α) : l.headD d = l.getD 0 d := by cases l <;> rfl

theorem readByte_eq (s : State) (a : Nat) (hw : Memory.wf s.mem = true) : readByte s a = cellAt 0 (memOps s.mem s.wr) a := by
  unfold readByte
  rw [headD_eq_getD]
  exact readMem_getD s a 1 0 hw (by omega)

/-- What an address reads after a command ends, from the stores that the command made. -/
theorem readByte_finish (s t : State) (a : Nat) (hw : Memory.wf s.mem = true) :
    readByte (finish s t) a = cellAt 0 (memOps s.mem t.wr) a :=
  readByte_eq (finish s t) a (Memory.wf_memOps s.mem t.wr hw)

/-- A command that made no store leaves every byte of memory as it was. -/
theorem mem_finish_of_wr_nil (s t : State) (h : t.wr = []) : (finish s t).mem = s.mem := by
  simp [finish, h, memOps]

/-- Between commands a byte is the cell at its address. -/
theorem readByte_tidy (s : State) (a : Nat) (h : Tidy s) : readByte s a = cellAt 0 s.mem a := by
  rw [readByte_eq s a h.1, h.2]; rfl

/-- Every command ends tidy: whatever it did, its stores stand in canonical memory. -/
theorem tidy_finish (s t : State) (h : Memory.wf s.mem = true) : Tidy (finish s t) :=
  ⟨Memory.wf_memOps s.mem t.wr h, rfl⟩

end Sys2Proof.Machine
end

