-- ==== Sys2Proof/Laws/Quiet.lean ====
section
/-! SUPPORT. What the queues' own machinery never touches. Ends of rounds, halts, completion records, signals and everything
that a tile's leaving a station lets happen (settle) change the Desk, tiles, stations, arrays, folio entries, slips, events
and outputs; time, ticks, admission counters, Wings, memories, reset, power, wear, the log and security stay as they are. -/

set_option Elab.async false

namespace Sys2Proof.Machine

theorem Quiet.refl (s : State) : Quiet s s := by constructor <;> rfl

theorem Quiet.trans {s t u : State} (h : Quiet s t) (k : Quiet t u) : Quiet s u :=
  ⟨k.pending.trans h.pending, k.wr.trans h.wr, k.freeCtr.trans h.freeCtr, k.clk.trans h.clk, k.tick.trans h.tick,
   k.adm.trans h.adm, k.wings.trans h.wings, k.mem.trans h.mem, k.ecc.trans h.ecc, k.banks.trans h.banks, k.inv.trans h.inv,
   k.vault.trans h.vault, k.flash.trans h.flash, k.rst.trans h.rst, k.pwr.trans h.pwr, k.rel.trans h.rel, k.sec.trans h.sec⟩

/-- A loop keeps what each of its steps keeps. -/
theorem Quiet.forEach {α : Type} (l : List α) (s : State) (f : State → α → State) (h : ∀ s x, Quiet s (f s x)) :
    Quiet s (Machine.forEach l s f) := by
  unfold Machine.forEach
  induction l generalizing s with
  | nil => exact Quiet.refl s
  | cons x t ih => exact (h s x).trans (ih _)

/-- A conditional step keeps what its branches keep. -/
theorem Quiet.ite {c : Prop} [Decidable c] {s t u : State} (h : Quiet s t) (k : Quiet s u) : Quiet s (if c then t else u) := by
  split
  · exact h
  · exact k

section
variable (s : State)

/-! ### Updates -/

theorem quiet_setDesk (x : Desk) : Quiet s (s.setDesk x) := by constructor <;> rfl
theorem quiet_setRun (x : Work) : Quiet s (s.setRun x) := by constructor <;> rfl
theorem quiet_setUnits (x : Units) : Quiet s (s.setUnits x) := by constructor <;> rfl
theorem quiet_setArrs (x : Arrays) : Quiet s (s.setArrs x) := by constructor <;> rfl
theorem quiet_setTier (x : Tiers) : Quiet s (s.setTier x) := by constructor <;> rfl
theorem quiet_setFab (x : Fab) : Quiet s (s.setFab x) := by constructor <;> rfl
theorem quiet_setPcie (x : Pcie) : Quiet s (s.setPcie x) := by constructor <;> rfl
theorem quiet_setMgt (x : Mgt) : Quiet s (s.setMgt x) := by constructor <;> rfl
theorem quiet_setOut (x : List Out) : Quiet s (s.setOut x) := by constructor <;> rfl
theorem quiet_emit (o : Out) : Quiet s (emit s o) := quiet_setOut s _
theorem quiet_modQ (q : Nat) (g : Queue → Queue) : Quiet s (modQ s q g) := quiet_setDesk s _
theorem quiet_setQ (q : Nat) (x : Queue) : Quiet s (setQ s q x) := quiet_setDesk s _
theorem quiet_setMb (f k : Nat) (m : Mbox) : Quiet s (setMb s f k m) := quiet_setDesk s _
theorem quiet_setFn (f : Nat) (x : FnReg) : Quiet s (setFn s f x) := quiet_setDesk s _
theorem quiet_setFolio (f : Nat) (x : Folio) : Quiet s (setFolio s f x) := quiet_setTier s _
theorem quiet_setGroup (l g : Nat) (x : Group) : Quiet s (setGroup s l g x) := quiet_setArrs s _
theorem quiet_setSlot (w a k : Nat) (x : Slot) : Quiet s (setSlot s w a k x) := quiet_setArrs s _
theorem quiet_modPcie (f : Nat) (g : PcieFn → PcieFn) : Quiet s (modPcie s f g) := quiet_setPcie s _
theorem quiet_setPort (p : Nat) (x : Port) : Quiet s (setPort s p x) := quiet_setFab s _
theorem quiet_modPort (p : Nat) (g : Port → Port) : Quiet s (modPort s p g) := quiet_setFab s _

/-! ### Events -/

theorem quiet_fireMsix (f : Nat) : Quiet s (fireMsix s f) := by
  unfold fireMsix; split
  · exact quiet_modPcie ..
  · exact quiet_emit ..

theorem quiet_raiseFn (f : Nat) (b : FnBit) : Quiet s (raiseFn s f b) := by
  unfold raiseFn; simp only; split
  · exact (quiet_setFn ..).trans (quiet_fireMsix ..)
  · exact quiet_setFn ..

theorem quiet_mgmtEvent (c d : Nat) : Quiet s (mgmtEvent s c d) := by
  unfold mgmtEvent
  refine Quiet.trans ?_ (quiet_raiseFn _ _ _)
  split <;> exact quiet_setMgt ..

/-! ### Rounds -/

theorem quiet_modRound (q : Nat) (n : W32) (g : Round → Round) : Quiet s (modRound s q n g) := quiet_modQ ..
theorem quiet_settleLoss (q : Nat) : Quiet s (settleLoss s q) := quiet_modQ ..
theorem quiet_loseRound (q : Nat) (n : W32) : Quiet s (loseRound s q n) := (quiet_modRound ..).trans (quiet_settleLoss ..)

/-! ### Tiles, groups and slots -/

theorem quiet_releaseTiles (p : TileId → Bool) : Quiet s (releaseTiles s p) := (quiet_setArrs s _).trans (quiet_setUnits _ _)
theorem quiet_settleGroups : Quiet s (settleGroups s) := quiet_setArrs ..
theorem quiet_freeDrains (p : TileId → Bool) : Quiet s (freeDrains s p) := quiet_setArrs ..
theorem quiet_orphanDrains (p : TileId → Bool) : Quiet s (orphanDrains s p) := quiet_setArrs ..

theorem quiet_noteLate (xs : List Tile) : Quiet s (noteLate s xs) := quiet_setFab s _

theorem quiet_dropTiles (p : Tile → Bool) : Quiet s (dropTiles s p) := by
  unfold dropTiles; simp only
  exact (((((quiet_noteLate s _).trans (quiet_releaseTiles _ _)).trans (quiet_freeDrains _ _)).trans (quiet_orphanDrains _ _)).trans
    (quiet_setRun _ _)).trans (quiet_settleGroups _)

theorem quiet_setTile (x : Tile) : Quiet s (setTile s x) := quiet_setRun ..

theorem quiet_failTile (t : TileId) (st : Nat) : Quiet s (failTile s t st) := by
  unfold failTile; split
  · exact Quiet.refl s
  · simp only
    exact ((((quiet_noteLate s _).trans (quiet_releaseTiles _ _)).trans (quiet_setTile _ _)).trans (quiet_settleGroups _)).trans
      (quiet_loseRound _ _ _)

theorem quiet_freeGroup (l g : Nat) : Quiet s (freeGroup s l g) := by
  unfold freeGroup; simp only
  refine Quiet.trans ?_ (quiet_setGroup _ _ _ _)
  split
  · split
    · exact quiet_setSlot ..
    · exact Quiet.refl s
  · exact Quiet.refl s

theorem quiet_freeGroups (q : Nat) (p : Group → Bool) : Quiet s (freeGroups s q p) := by
  unfold freeGroups
  refine Quiet.forEach _ _ _ fun s x => ?_
  split
  · exact quiet_freeGroup ..
  · exact Quiet.refl s

theorem quiet_closeKept (q : Nat) : Quiet s (closeKept s q) := by
  unfold closeKept; simp only; split
  · exact Quiet.refl s
  · exact (quiet_freeGroups ..).trans (quiet_modQ ..)

theorem quiet_untakeTiles (p : Tile → Bool) : Quiet s (untakeTiles s p) := by
  unfold untakeTiles
  exact (Quiet.forEach _ _ _ fun s t => quiet_modQ ..).trans (quiet_dropTiles ..)

/-! ### The fabric's sending side -/

theorem quiet_sendFlit (p : Nat) (d : List Byte) : Quiet s (sendFlit s p d) := by
  unfold sendFlit
  exact (quiet_setPort ..).trans (quiet_emit ..)

theorem quiet_pumpSlips (p n : Nat) : Quiet s (pumpSlips s p n) := by
  induction n generalizing s with
  | zero => exact Quiet.refl s
  | succ n ih =>
    unfold pumpSlips; simp only
    repeat' split
    all_goals first
      | exact Quiet.refl s
      | exact ((quiet_setPort s _ _).trans (Quiet.forEach _ _ _ fun s f => quiet_sendFlit s _ _)).trans (ih _)

theorem quiet_pumpPort (p : Nat) : Quiet s (pumpPort s p) := quiet_pumpSlips ..

theorem quiet_handSlip (port : Option Nat) (sl : Slip) (q : Option Nat) : Quiet s (handSlip s port sl q) := by
  unfold handSlip
  cases port with
  | none => exact quiet_emit ..
  | some p => exact ((quiet_emit ..).trans (quiet_modPort ..)).trans (quiet_pumpPort ..)

theorem quiet_countChoice (c n k : Nat) (busy : Bool) (p : Nat) : Quiet s (countChoice s c n k busy p) := by
  unfold countChoice; split
  · exact Quiet.refl s
  · exact quiet_modPort ..

theorem quiet_routeOut (sl : Slip) (alt : Nat) (busy : Bool) (q : Option Nat) : Quiet s (routeOut s sl alt busy q).1 := by
  unfold routeOut
  split
  · simp only; exact quiet_handSlip ..
  · split
    · exact quiet_setFab ..
    · simp only; split
      · exact Quiet.refl s
      · simp only; exact (quiet_countChoice ..).trans (quiet_handSlip ..)

theorem quiet_setTx (n c : Nat) (x : TxFlow) : Quiet s (setTx s n c x) := quiet_setFab ..
theorem quiet_setRx (n c : Nat) (x : RxFlow) : Quiet s (setRx s n c x) := quiet_setFab ..

theorem quiet_sendRequest (sl : Slip) (t : Option TileId) (w q : Nat) : Quiet s (sendRequest s sl t w q) := by
  unfold sendRequest
  exact (quiet_routeOut s _ _ _ _).trans (quiet_setTx ..)

theorem quiet_sendResponse (sl : Slip) : Quiet s (sendResponse s sl) := quiet_routeOut ..

theorem quiet_peerSignal (q c v : Nat) : Quiet s (peerSignal s q c v) := by
  unfold peerSignal; simp only; split
  · exact Quiet.refl s
  · exact quiet_sendRequest ..

/-! ### The Desk -/

theorem quiet_hostWrite (f : Nat) (a : W64) (bs : List Byte) : Quiet s (hostWrite s f a bs) := by
  unfold hostWrite; split
  · exact Quiet.refl s
  · exact quiet_emit ..

theorem quiet_respond (f k st : Nat) (p : List Nat) : Quiet s (respond s f k st p) := (quiet_setMb ..).trans (quiet_setDesk ..)
theorem quiet_waitCmd (f k : Nat) (w : CmdWhy) : Quiet s (waitCmd s f k w) := quiet_setDesk ..

theorem quiet_returnRounds (q : Nat) : Quiet s (returnRounds s q) := (quiet_setQ ..).trans (quiet_dropTiles ..)

theorem quiet_haltEffects (q c : Nat) : Quiet s (haltEffects s q c) := by
  unfold haltEffects; simp only; split
  · exact (quiet_raiseFn ..).trans (quiet_returnRounds ..)
  · exact quiet_raiseFn ..

theorem quiet_haltQueue (q c : Nat) : Quiet s (haltQueue s q c) := by
  unfold haltQueue; split
  · exact (quiet_setQ ..).trans (quiet_haltEffects ..)
  · exact Quiet.refl s

theorem quiet_recordLost (q : Nat) (r : CRec) : Quiet s (recordLost s q r) := by
  unfold recordLost; simp only
  split
  · split
    · exact quiet_setQ ..
    · exact ((quiet_setQ ..).trans (quiet_raiseFn ..)).trans (quiet_mgmtEvent ..)
  · exact Quiet.refl s

theorem quiet_issueRead (f : Nat) (a : W64) (n : Nat) (w : RdWhy) : Quiet s (issueRead s f a n w) := by
  unfold issueRead; simp only
  exact Quiet.ite ((quiet_setDesk ..).trans (quiet_emit ..)) (quiet_setDesk ..)

theorem quiet_flushRead (q : Nat) (r : CRec) : Quiet s (flushRead s q r) := by
  unfold flushRead; split
  · exact quiet_recordLost ..
  · exact quiet_issueRead ..

theorem quiet_putRecord (q : Nat) (st : BitVec 3) (r : CRec) : Quiet s (putRecord s q st r) := by
  unfold putRecord; simp only
  split
  · exact quiet_setQ ..
  · split
    · exact ((quiet_setQ ..).trans (quiet_hostWrite ..)).trans (quiet_flushRead ..)
    · exact Quiet.refl s

theorem quiet_putPoll (q : Nat) (r : CRec) : Quiet s (putPoll s q r) := by
  unfold putPoll; simp only
  exact Quiet.ite ((quiet_hostWrite ..).trans (quiet_flushRead ..)) (Quiet.refl s)

theorem quiet_putLate (e : LateRec) : Quiet s (putLate s e) := Quiet.ite (quiet_putPoll ..) (quiet_putRecord ..)

theorem quiet_writeRecord (q : Nat) (r : CRec) (p : Bool) : Quiet s (writeRecord s q r p) := by
  unfold writeRecord; simp only
  exact Quiet.ite (quiet_putLate ..) (quiet_setDesk ..)

theorem quiet_dropRecords (q : Nat) : Quiet s (dropRecords s q) := quiet_setDesk ..

theorem quiet_endPoll (q : Nat) : Quiet s (endPoll s q) := by
  unfold endPoll; simp only
  exact Quiet.ite (quiet_setQ ..) ((quiet_setQ ..).trans (quiet_writeRecord ..))

theorem quiet_hostReadFail (w : RdWhy) : Quiet s (hostReadFail s w) := by
  unfold hostReadFail
  split
  · exact quiet_respond ..
  · exact quiet_respond ..
  · exact (quiet_modQ ..).trans (quiet_haltQueue ..)
  · exact (quiet_haltQueue ..).trans (quiet_endPoll ..)
  · exact quiet_recordLost ..
  · exact quiet_respond ..
  · exact quiet_respond ..
  · exact quiet_respond ..
  · exact Quiet.refl s

theorem quiet_hostRead (f : Nat) (a : W64) (n : Nat) (w : RdWhy) : Quiet s (hostRead s f a n w) := by
  unfold hostRead; split
  · exact quiet_hostReadFail ..
  · exact quiet_issueRead ..

theorem quiet_endHead (q : Nat) : Quiet s (endHead s q) := by
  unfold endHead; simp only
  split
  · exact Quiet.refl s
  · split
    · exact Quiet.refl s
    · have ends : ∀ (x : Queue) (p : Tile → Bool) (c : Bool) (g : Queue → Queue) (r : CRec),
          Quiet s (writeRecord (if c = true then modQ (dropTiles (setQ s q x) p) q g else dropTiles (setQ s q x) p) q r false) :=
        fun x p c g r =>
          have h := (quiet_setQ s q x).trans (quiet_dropTiles _ p)
          (Quiet.ite (h.trans (quiet_modQ _ _ _)) h).trans (quiet_writeRecord _ _ _ _)
      have halts : ∀ (c : Bool) (v : State), Quiet s v → Quiet s (if c = true then haltEffects v q 1 else v) :=
        fun c v h => Quiet.ite (h.trans (quiet_haltEffects _ _ _)) h
      have tail : ∀ (c : Bool) (v : State) (k val : Nat), Quiet s v → Quiet s (if c = true then peerSignal v q k val else v) :=
        fun c v k val h => Quiet.ite (h.trans (quiet_peerSignal _ _ _ _)) h
      exact tail _ _ _ _ (halts _ _ (ends _ _ _ _ _))

theorem quiet_endRounds (q n : Nat) : Quiet s (endRounds s q n) := by
  induction n generalizing s with
  | zero => exact Quiet.refl s
  | succ n ih =>
    unfold endRounds
    split
    · exact Quiet.refl s
    · split
      · exact (quiet_endHead ..).trans (ih _)
      · exact Quiet.refl s

theorem quiet_settleEnds (q : Nat) : Quiet s (settleEnds s q) := quiet_endRounds ..

theorem quiet_resultRound (q : Nat) (n : W32) (st ft : Nat) : Quiet s (resultRound s q n st ft) :=
  ((quiet_modQ s q _).trans (quiet_settleLoss _ _)).trans (quiet_settleEnds _ _)

theorem quiet_settleReturns (q : Nat) : Quiet s (settleReturns s q) := by
  unfold settleReturns
  refine Quiet.forEach _ _ _ fun s r => ?_
  split
  · exact ((quiet_dropTiles ..).trans (quiet_freeGroups ..)).trans (quiet_modRound ..)
  · exact Quiet.refl s

theorem quiet_settleFaults (q : Nat) : Quiet s (settleFaults s q) := by
  unfold settleFaults
  refine Quiet.forEach _ _ _ fun s r => ?_
  split
  · exact quiet_resultRound ..
  · exact Quiet.refl s

theorem quiet_settleDestroy (q : Nat) : Quiet s (settleDestroy s q) := by
  unfold settleDestroy; split
  · exact quiet_dropTiles ..
  · exact Quiet.refl s

theorem quiet_settleFrees : Quiet s (settleFrees s) := by
  unfold settleFrees
  refine Quiet.forEach _ _ _ fun s c => ?_
  split
  · split
    · exact Quiet.refl s
    · exact (quiet_setFolio ..).trans (quiet_respond ..)
  · exact Quiet.refl s

theorem quiet_putRun (w r : Nat) (x : Runner) : Quiet s (putRun s w r x) := quiet_setRun ..

theorem quiet_stallRunner (w r : Nat) : Quiet s (stallRunner s w r) := by
  unfold stallRunner; simp only
  exact Quiet.ite (Quiet.refl s) (quiet_putRun ..)

theorem quiet_settleStalls : Quiet s (settleStalls s) := Quiet.forEach _ _ _ fun s _ => quiet_stallRunner s _ _

theorem quiet_settleCharge (q : Nat) : Quiet s (settleCharge s q) := quiet_modQ ..

theorem quiet_liveAgain (ring : Bool) (f : Nat) (tag : W32) (p : LateRx → Bool) : Quiet s (liveAgain s ring f tag p) :=
  quiet_setFab ..

theorem quiet_grantRecv (x : Tile) (r : Slip) : Quiet s (grantRecv s x r) := by
  unfold grantRecv; simp only
  have h : ∀ (fl : RxFlow) (c : Slip) (a : Bool) (f : Nat) (g : W32) (p : LateRx → Bool),
      Quiet s (liveAgain (sendResponse (setRx s r.src.toNat (slipClass r) fl) c) a f g p) := fun fl c a f g p =>
    ((quiet_setRx s _ _ fl).trans (quiet_sendResponse _ _)).trans (quiet_liveAgain _ _ _ _ _)
  exact Quiet.ite ((h _ _ _ _ _ _).trans (quiet_failTile _ _ _)) ((h _ _ _ _ _ _).trans (quiet_setTile _ _))

theorem quiet_matchRts : Quiet s (matchRts s) := by
  unfold matchRts
  refine Quiet.forEach _ _ _ fun s r => ?_
  split
  · exact Quiet.refl s
  · exact (quiet_setFab s _).trans (quiet_grantRecv _ _ _)

/-- Everything that follows from a tile's leaving a station stays among queues, tiles, arrays, folio entries and slips. -/
theorem quiet_settle : Quiet s (settle s) := by
  unfold settle; simp only
  refine ((quiet_matchRts s).trans ?_).trans ((quiet_settleFrees _).trans (quiet_settleStalls _))
  exact Quiet.forEach _ _ _ fun s q =>
    (((quiet_settleReturns s q).trans (quiet_settleFaults _ q)).trans (quiet_settleDestroy _ q)).trans (quiet_settleCharge _ q)

theorem quiet_deadReads (q : Nat) : Quiet s (deadReads s q) := quiet_setDesk ..
theorem quiet_absentQueue (q : Nat) : Quiet s (absentQueue s q) := by
  unfold absentQueue
  exact (((quiet_dropTiles ..).trans (quiet_deadReads ..)).trans (quiet_dropRecords ..)).trans ((quiet_freeGroups ..).trans (quiet_modQ ..))
theorem quiet_destroyQueue (q : Nat) : Quiet s (destroyQueue s q) :=
  ((quiet_deadReads ..).trans (quiet_dropRecords ..)).trans (quiet_setQ ..)

/-- With no queue in the table, no command in progress, no RTS that waits, no tile and no Runner in use there is nothing to settle.
-/
theorem settle_idle (hq : s.desk.queues = []) (hc : s.desk.cmds = []) (hr : s.fab.rtsWait = []) (hu : s.run.runners = [])
    (ht : s.run.tiles = []) : settle s = s := by
  simp [settle, matchRts, settleStalls, settleFrees, hq, hc, hr, hu, ht, forEach, nub]

end

section
variable (s : State)
@[simp] theorem settle_pending : (settle s).pending = s.pending := (quiet_settle s).pending
@[simp] theorem settle_wr : (settle s).wr = s.wr := (quiet_settle s).wr
@[simp] theorem settle_freeCtr : (settle s).freeCtr = s.freeCtr := (quiet_settle s).freeCtr
@[simp] theorem settle_clk : (settle s).clk = s.clk := (quiet_settle s).clk
@[simp] theorem settle_tick : (settle s).tick = s.tick := (quiet_settle s).tick
@[simp] theorem settle_adm : (settle s).adm = s.adm := (quiet_settle s).adm
@[simp] theorem settle_wings : (settle s).wings = s.wings := (quiet_settle s).wings
@[simp] theorem settle_mem : (settle s).mem = s.mem := (quiet_settle s).mem
@[simp] theorem settle_ecc : (settle s).ecc = s.ecc := (quiet_settle s).ecc
@[simp] theorem settle_banks : (settle s).banks = s.banks := (quiet_settle s).banks
@[simp] theorem settle_inv : (settle s).inv = s.inv := (quiet_settle s).inv
@[simp] theorem settle_vault : (settle s).vault = s.vault := (quiet_settle s).vault
@[simp] theorem settle_flash : (settle s).flash = s.flash := (quiet_settle s).flash
@[simp] theorem settle_rst : (settle s).rst = s.rst := (quiet_settle s).rst
@[simp] theorem settle_pwr : (settle s).pwr = s.pwr := (quiet_settle s).pwr
@[simp] theorem settle_rel : (settle s).rel = s.rel := (quiet_settle s).rel
@[simp] theorem settle_sec : (settle s).sec = s.sec := (quiet_settle s).sec
end

end Sys2Proof.Machine
end

