-- ==== Sys2Proof/Laws/Mailbox.lean ====
section
/-! SUPPORT. Laws of mailbox commands: what a request that passes its checks does, and what a response leaves. -/

namespace Sys2Proof.Machine

theorem tabGet_putWords (ws : List Nat) (t : Tab W32) (i j : Nat) :
    tabGet 0 (putWords t i ws) j = if i ≤ j ∧ j < i + ws.length then BitVec.ofNat 32 (ws.getD (j - i) 0) else tabGet 0 t j := by
  induction ws generalizing t i with
  | nil =>
    have : ¬ (i ≤ j ∧ j < i + ([] : List Nat).length) := by simp only [List.length_nil]; omega
    rw [if_neg this]; rfl
  | cons w ws ih =>
    simp only [putWords, ih, tabGet_tabSet, List.length_cons]
    by_cases h : i + 1 ≤ j ∧ j < i + 1 + ws.length
    · have h2 : i ≤ j ∧ j < i + (ws.length + 1) := by omega
      have h3 : j - i = (j - (i + 1)) + 1 := by omega
      rw [if_pos h, if_pos h2, h3, List.getD_cons_succ]
    · rw [if_neg h]
      by_cases h4 : i = j
      · subst h4; simp
      · have h5 : ¬ (i ≤ j ∧ j < i + (ws.length + 1)) := by omega
        rw [if_neg h4, if_neg h5]

/-- A request that passes its checks: its effect follows the take-up. -/
theorem takeUpCmd_granted (s : State) (f k op : Nat) (eff : Mbox → State → State) (h : Granted s f k op) :
    takeUpCmd f k op eff s =
      eff (getMb s f k)
        (if opNamesQueue op && op != 0x14 then closeKept (setMb s f k { getMb s f k with taken := true }) (reqWord s f k 0)
         else setMb s f k { getMb s f k with taken := true }) := by
  obtain ⟨h1, _, h3, h4, h5⟩ := h
  have h5' : entryReadBad (setMb s f k { getMb s f k with taken := true }) (getMb s f k) = false := h5
  simp [takeUpCmd, h1, h3, h4, h5', reqWord]

theorem takeUpCmd_plain (s : State) (f k op : Nat) (eff : Mbox → State → State) (h : Granted s f k op)
    (hq : (opNamesQueue op && op != 0x14) = false) :
    takeUpCmd f k op eff s = eff (getMb s f k) (setMb s f k { getMb s f k with taken := true }) := by
  rw [takeUpCmd_granted s f k op eff h, hq]; rfl

/-- A request that the Desk may take up and that fails a check is answered with the first status that applies (rule R451). -/
theorem takeUpCmd_rejected (s : State) (f k op : Nat) (eff : Mbox → State → State) (h1 : mbReady s f k op = true)
    (h2 : bit f s.sec.scrub.toNat = false) (h3 : checkStatus s f (getMb s f k) ≠ 0) :
    takeUpCmd f k op eff s =
      respond (commandFailed s (getMb s f k) (checkStatus s f (getMb s f k))) f k (checkStatus s f (getMb s f k)) [] := by
  simp [takeUpCmd, h1, h2, h3]

/-- A command that is not at hand changes nothing. -/
theorem takeUpCmd_idle (s : State) (f k op : Nat) (eff : Mbox → State → State) (h : mbReady s f k op = false) :
    takeUpCmd f k op eff s = s := by
  simp [takeUpCmd, h]

theorem mbOp_lt (m : Mbox) : mbOp m < 65536 := Nat.mod_lt _ (by decide)
theorem rqWord_lt (m : Mbox) (n : Nat) : rqWord m n < 2 ^ 32 := (tabGet 0 m.req n).isLt

theorem getMb_respond (s : State) (f k st : Nat) (p : List Nat) :
    getMb (respond s f k st p) f k =
      { getMb s f k with
        state := 2, seq := (getMb s f k).seq + 1, taken := false,
        resp := putWords (getMb s f k).resp 0
          ([fld 16 (rqWord (getMb s f k) 0 % 65536) + st, rqWord (getMb s f k) 1, 4 * p.length, 0] ++ p) } := by
  have : getMb (respond s f k st p) f k = getMb (setMb s f k
      { getMb s f k with
        state := 2, seq := (getMb s f k).seq + 1, taken := false,
        resp := putWords (getMb s f k).resp 0
          ([fld 16 (rqWord (getMb s f k) 0 % 65536) + st, rqWord (getMb s f k) 1, 4 * p.length, 0] ++ p) }) f k := rfl
  rw [this, getMb_setMb]

theorem getMb_respond_ne (s : State) (f k st : Nat) (p : List Nat) (f' k' : Nat) (h : 8 * f' + k' ≠ 8 * f + k) :
    getMb (respond s f k st p) f' k' = getMb s f' k' := by
  have : getMb (respond s f k st p) f' k' = getMb (setMb s f k
      { getMb s f k with
        state := 2, seq := (getMb s f k).seq + 1, taken := false,
        resp := putWords (getMb s f k).resp 0
          ([fld 16 (rqWord (getMb s f k) 0 % 65536) + st, rqWord (getMb s f k) 1, 4 * p.length, 0] ++ p) }) f' k' := rfl
  rw [this, getMb_setMb_ne _ _ (Ne.symm h)]

/-- What a response leaves: the mailbox answered, and everything but mailboxes and waiting commands as it was. -/
theorem respond_replies (s u : State) (f k st : Nat) (p : List Nat) (hst : st < 65536) (hp : p.length < 2 ^ 20)
    (hreq : (getMb u f k).req = (getMb s f k).req) (hseq : (getMb u f k).seq = (getMb s f k).seq)
    (hmb : ∀ f' k', 8 * f' + k' ≠ 8 * f + k → getMb u f' k' = getMb s f' k') (v : State) (hwr : u.wr = [])
    (hv : { u with pending := s.pending, mem := s.mem } = { v with desk := { v.desk with mbox := u.desk.mbox } }) :
    Replies s v f k st p (finish s (respond u f k st p)) := by
  have hm : getMb (finish s (respond u f k st p)) f k = getMb (respond u f k st p) f k := rfl
  have hrw : ∀ n, rqWord (getMb u f k) n = rqWord (getMb s f k) n := fun n => by simp [rqWord, hreq]
  refine ⟨⟨?_, ?_, ?_, ?_, ?_, ?_, ?_, ?_⟩, ?_, ?_⟩
  · rw [hm, getMb_respond]
  · rw [hm, getMb_respond, ← hseq]
  · rw [hm, getMb_respond]; exact hreq
  · rw [respWord, hm, getMb_respond]
    simp only [tabGet_putWords]
    rw [if_pos (by simp)]
    have := mbOp_lt (getMb s f k)
    simp only [mbOp] at this ⊢
    simp only [hrw, fld, Nat.sub_zero, List.cons_append, List.getD_cons_zero, BitVec.toNat_ofNat]
    omega
  · rw [respWord, hm, getMb_respond]
    simp only [tabGet_putWords]
    rw [if_pos (by simp)]
    simp only [hrw, List.cons_append]
    simpa using rqWord_lt (getMb s f k) 1
  · rw [respWord, hm, getMb_respond]
    simp only [tabGet_putWords]
    rw [if_pos (by simp)]
    simp
    omega
  · rw [respWord, hm, getMb_respond]
    simp only [tabGet_putWords]
    rw [if_pos (by simp)]
    simp
  · intro i hi
    rw [respWord, hm, getMb_respond]
    simp only [tabGet_putWords]
    rw [if_pos (by simp; omega)]
    have : 4 + i - 0 = i + 4 := by omega
    rw [this]
    simp
  · have : finish s (respond u f k st p) =
        { { u with pending := s.pending, mem := s.mem } with
          desk := { u.desk with mbox := (respond u f k st p).desk.mbox, cmds := (respond u f k st p).desk.cmds } } := by
      have h0 : finish s (respond u f k st p) =
        { u with pending := s.pending, mem := memOps s.mem u.wr, wr := [],
                 desk := { u.desk with mbox := (respond u f k st p).desk.mbox, cmds := (respond u f k st p).desk.cmds } } := rfl
      rw [h0, hwr]
      cases u
      simp only at hwr
      subst hwr
      rfl
    have hd : u.desk = { v.desk with mbox := u.desk.mbox } := congrArg State.desk hv
    have e1 : (finish s (respond u f k st p)).desk.mbox = (respond u f k st p).desk.mbox := rfl
    have e2 : (finish s (respond u f k st p)).desk.cmds = (respond u f k st p).desk.cmds := rfl
    rw [e1, e2, this, hv, hd]
  · intro f' k' h
    show getMb (respond u f k st p) f' k' = _
    rw [getMb_respond_ne _ _ _ _ _ _ _ h, hmb _ _ h]

/-- The mailbox once the Desk has taken its request up. -/
abbrev takenMb (s : State) (f k : Nat) : State := setMb s f k { getMb s f k with taken := true }

theorem takenMb_req (s : State) (f k : Nat) : (getMb (takenMb s f k) f k).req = (getMb s f k).req := by rw [takenMb, getMb_setMb]
theorem takenMb_seq (s : State) (f k : Nat) : (getMb (takenMb s f k) f k).seq = (getMb s f k).seq := by rw [takenMb, getMb_setMb]
theorem takenMb_ne (s : State) (f k f' k' : Nat) (h : 8 * f' + k' ≠ 8 * f + k) : getMb (takenMb s f k) f' k' = getMb s f' k' :=
  getMb_setMb_ne s _ (Ne.symm h)

/-- A command whose effect is an update u of the state beside the Desk, and an OK response. -/
theorem replies_of_update (s u v : State) (f k st : Nat) (p : List Nat) (hst : st < 65536) (hp : p.length < 2 ^ 20)
    (hd : u.desk = (takenMb s f k).desk) (hwr : u.wr = [])
    (hv : { u with pending := s.pending, mem := s.mem } = { v with desk := { v.desk with mbox := u.desk.mbox } }) :
    Replies s v f k st p (finish s (respond u f k st p)) := by
  have hm : ∀ f' k', getMb u f' k' = getMb (takenMb s f k) f' k' := fun f' k' => by unfold getMb; rw [hd]
  exact respond_replies s u f k st p hst hp (by rw [hm]; exact takenMb_req s f k) (by rw [hm]; exact takenMb_seq s f k)
    (fun f' k' h => by rw [hm]; exact takenMb_ne s f k f' k' h) v hwr hv

/-- A loop that only puts out outputs. -/
theorem forEach_emit {α : Type} (l : List α) (g : α → Out) (s : State) :
    forEach l s (fun s x => emit s (g x)) = s.setOut (s.out ++ l.map g) := by
  unfold forEach
  induction l generalizing s with
  | nil => simp [State.setOut]
  | cons x t ih => rw [List.foldl_cons, ih]; simp [emit, State.setOut]

end Sys2Proof.Machine
end

