-- ==== Sys2Proof/WellFormed.lean ====
section
/-! DEFINITION. Which commands are well formed: operands in the range that the command's rule gives them. The meanings are total
and do not rest on it. -/

namespace Sys2Proof

/-- Damaged words lie in the 44-bit device address space, or beyond it in an Accumulator store or in the Vault
(notes/assumptions/88). -/
def eccOk (l : List EccHit) : Bool := l.all fun h => decide (h.addr < 0x200000010000)
/-- Words that port A writes are 8-byte words of the SRAM window (rule R195). -/
def portAOk (l : List (Nat × W64)) : Bool := l.all fun x => x.1 % 8 == 0 && decide (x.1 < 2 ^ 40)
/-- A tile of one of the 1,024 queues, with a 20-bit index (Table 5.10). -/
def tileOk (t : TileId) : Bool := decide (t.q < 1024) && decide (t.idx < 2 ^ 20)
/-- A station that exists (Table 5.2). -/
def stOk (st : StRef) : Bool :=
  match st.kind with
  | .array => decide (st.unit < 33)
  | .loan => st.unit == 0
  | _ => decide (st.unit < 2)
/-- A 10-bit tag (Table 17.1) and data of at most one Max Read Request. -/
def resOk (tag : Nat) (r : HostRes) : Bool :=
  decide (tag < 1024) && match r with
    | .data bs => decide (bs.length ≤ 4096)
    | _ => true
/-- An access of 1 to 4,096 bytes. -/
def lenOk (n : Nat) : Bool := decide (1 ≤ n) && decide (n ≤ 4096)
/-- A register access of 1, 2, 4 or 8 bytes. -/
def sizeOk (n : Nat) : Bool := [1, 2, 4, 8].contains n
/-- A die sensor 0 to 68 and a temperature of one byte. -/
def sensorOk (n : Nat) : Bool := decide (n ≤ 68)
def tempOk (n : Nat) : Bool := decide (n ≤ 255)
/-- The readings of the 69 die sensors. -/
def sampleOk (m : PowerSample) : Bool := m.temps.length == 69 && (m.temps.all tempOk) && tempOk m.hbm
/-- The 16 KiB of an option block and its 34 Foxing ratios. -/
def optBlockOk (o : Option OptBlock) : Bool :=
  match o with
  | some b => b.bytes.length == 16384 && b.foxing.length == 34
  | none => true
/-- What the verification of a component finds. -/
def foundOk : Option FlashObj → Bool
  | some (.options o) => optBlockOk (some o)
  | _ => true
/-- A slip's payload: none, or LEN bytes, at most 4,096 (Table 12.2). -/
def slipOk (s : Slip) : Bool := s.payload.isEmpty || (s.payload.length == s.len.toNat && decide (s.payload.length ≤ 4096))

/-- Whether a command's operands are in range. -/
def wellFormed : Instr → Bool
  | .getVersion _ _ | .getInfo _ _ | .queueCreate _ _ | .queueDestroy _ _ | .queueResume _ _ | .queueSetAttr _ _
  | .queueQuery _ _ | .c0Reserve _ _ | .c0Release _ _ | .folioAlloc _ _ | .folioFree _ _ | .folioPin _ _
  | .folioUnpin _ _ | .folioQuery _ _ | .folioWrite _ _ => true
  | .folioRead _ _ ecc => eccOk ecc
  | .setTierLimits _ _ | .setCurator _ _ | .setTick _ _ | .setInventory _ _ | .setPowerCap _ _ => true
  | .memRead _ _ ecc => eccOk ecc
  | .memWrite _ _ portA => portAOk portA
  | .matmul _ _ | .accRead _ _ | .accWrite _ _ | .map _ _ | .rowstat _ _ | .copy _ _ | .send _ _ | .recv _ _ | .put _ _
  | .get _ _ | .signal _ _ | .allreduce _ _ | .allgather _ _ | .fence _ _ | .psplitChange _ _ => true
  | .slabArrive t _ _ ecc => tileOk t && eccOk ecc
  | .passStart _ _ _ ecc => eccOk ecc
  | .drainStart _ _ ecc => eccOk ecc
  | .drainEnd _ _ => true
  | .creditReturn st ecc => stOk st && eccOk ecc
  | .stationTakeUp st ecc => stOk st && eccOk ecc
  | .userTableFill _ _ ecc => eccOk ecc
  | .stationTileFinish st ecc => stOk st && eccOk ecc
  | .tileComplete _ | .roundReexecute _ _ | .roundOverrun _ _ | .c0Demotion _ _ => true
  | .inputWaitTimeout t => tileOk t
  | .lateBurst slip => slipOk slip
  | .accWindowRead _ _ | .accWindowWrite _ _ => true
  | .accWindowTransferEnd _ ecc => eccOk ecc
  | .tickBoundary | .admissionListClose | .tickOutFall | .tickInEdge | .substituteBoundary | .producerPoll _ => true
  | .flushReadDone tag res => resOk tag res
  | .queueDestroyComplete _ | .destroyTimeout _ => true
  | .moveChunkCopied _ ecc => eccOk ecc
  | .moveSwitch _ => true
  | .inventoryRegionTest _ _ _ ecc => eccOk ecc
  | .arrayInventoryTest _ _ _ | .repairLogCopy => true
  | .patrolScrub _ _ _ ecc => eccOk ecc
  | .logRecordWrite source => decide (source < 65536)
  | .sramWindowRead _ len ecc => lenOk len && eccOk ecc
  | .sramWindowWrite _ data portA => lenOk data.length && portAOk portA
  | .setViewWrite _ data portA => lenOk data.length && portAOk portA
  | .clearViewWrite _ data portA => lenOk data.length && portAOk portA
  | .registerWrite _ _ size _ => sizeOk size
  | .dskAclockLoRead | .rstTickNumLoRead | .queLostEventsRead _ _ | .fnEventEnWrite _ _ | .relPertCtlWrite _
  | .swResetL1 _ | .swResetL2 _ | .swResetL3 _ | .hostGo | .porAssert | .porRelease => true
  | .borAssert _ mv => decide (mv < 4096)
  | .borRelease mvs => mvs.length == 7 && mvs.all fun mv => decide (mv < 4096)
  | .nrstLow | .nrstHigh | .clockFailure _ | .systemReferenceReturn | .watchdogExpire | .lockup _ => true
  | .stretchEnd ratio => decide (ratio ≤ 255)
  | .nrstSample _ => true
  | .clockQualified _ bad => bad.all fun a => decide (a < 1056)
  | .clockQualifyRetry _ _ => true
  | .optionBlockLoaded _ _ a b _ _ => optBlockOk a && optBlockOk b
  | .firmwareVerified _ _ _ _ => true
  | .memoryTrainingDone modules => modules.length == 8
  | .bringupReady | .bringupSlow | .activeRequest _ | .drowseRequest _ | .offRequest _ | .drowseEntryDone
  | .wakeComplete => true
  | .dvfsEvaluation m => sampleOk m
  | .avsStepResponse _ => true
  | .thermalThrottle sensor temp hbm => sensorOk sensor && tempOk temp && tempOk hbm
  | .throttleRelease die hbm => tempOk die && tempOk hbm
  | .thermalTrip sensor temp => sensorOk sensor && tempOk temp
  | .foxingMeasure monitors lanes _ => (monitors.all fun x => decide (x.1 < 34)) && lanes.all fun x => decide (x.1 < 36)
  | .stackMarginMeasure channels => channels.all fun x => decide (x.1 < 256)
  | .flitReceive _ flit _ => flit.length == 256
  | .nak _ _ | .helloSend | .helloMessage _ _ | .helloTimeout _ | .laneLockLoss _ _ | .portTrainingDone _ _ _
  | .portCongested _ | .managerElectionTimeout | .mgmtSlip _ | .timeSyncExchange _ _ | .timeSyncLost => true
  | .slipForward slip => slipOk slip
  | .writeSlip slip ecc => slipOk slip && eccOk ecc
  | .readSlip slip ecc => slipOk slip && eccOk ecc
  | .readData slip => slipOk slip
  | .addSlip slip ecc => slipOk slip && eccOk ecc
  | .rts slip => slipOk slip
  | .cts slip => slipOk slip
  | .ack slip => slipOk slip
  | .slipResendTimeout _ _ | .flr _ | .flrTileAbandon _ | .tenantScrubEnd _ | .vfDisable _ _ | .hotReset | .linkDown
  | .perstN | .poisonedTlp _ => true
  | .hostCompletion tag res => resOk tag res
  | .msixPendingSend _ | .debugLevelApply _ | .tokenSubmit | .tokenVerifyDone | .addressCommand _ _ _ _ _
  | .alertResponse _ | .smbusTimeout | .arbitrationLost => true
  | .mctpPacket p _ => decide (p.body.length ≤ 64)
  | .setEndpointId _ | .getEndpointId | .getEndpointUuid | .getMctpVersionSupport _ | .getMessageTypeSupport
  | .getVendorDefinedMessageSupport | .spdmGetVersion | .spdmGetCapabilities | .spdmNegotiateAlgorithms
  | .spdmGetDigests | .spdmGetCertificate _ _ _ => true
  | .spdmChallenge _ nonce => nonce.length == 32
  | .spdmGetMeasurements _ _ nonce => nonce.length == 32
  | .getTid | .setTid _ | .getPldmVersion _ | .getPldmTypes | .getPldmCommands _ | .getSensorReading _
  | .getStateSensorReadings _ | .getPdr _ | .getPdrRepositoryInfo | .pollForPlatformEventMessage _
  | .queryDeviceIdentifiers | .getFirmwareParameters | .requestUpdate | .passComponentTable _ | .updateComponent _ _ => true
  | .requestFirmwareData block _ found _ => decide (block.length ≤ 1024) && foundOk found
  | .activateFirmware | .getStatus | .cancelUpdate | .getNonce => true
  | .submitToken token => decide (token.length ≤ 1088)
  | .powerReq _ => true
  | .regRead _ ecc => eccOk ecc
  | .regWrite _ _ portA => portAOk portA
  | .vdmMemRead _ _ ecc => eccOk ecc
  | .vdmMemWrite _ data portA => decide (data.length ≤ 1088) && portAOk portA
  | .coreCtl _ _ | .reset _ => true
  | .logRead _ _ ecc => eccOk ecc
  | .rcFieldRead _ _ ecc => eccOk ecc
  | .tripSensorCooled temp => tempOk temp
  | .perstNRelease | .pcieLinkUp _ _ | .configurationWrite _ _ => true
  | .aislesUnitCrcFail t _ => tileOk t

/-! ### The data that a command brings in -/

def resBytes : HostRes → Nat
  | .data bs => bs.length
  | _ => 0

def optBytes : Option OptBlock → Nat
  | some b => b.bytes.length
  | none => 0

def foundBytes : Option FlashObj → Nat
  | some (.options o) => optBytes (some o)
  | _ => 0

/-- Bytes of data among a command's operands. -/
def dataBytes : Instr → Nat
  | .getVersion _ _ | .getInfo _ _ | .queueCreate _ _ | .queueDestroy _ _ | .queueResume _ _ | .queueSetAttr _ _
  | .queueQuery _ _ | .c0Reserve _ _ | .c0Release _ _ | .folioAlloc _ _ | .folioFree _ _ | .folioPin _ _
  | .folioUnpin _ _ | .folioQuery _ _ | .folioWrite _ _ | .folioRead _ _ _ | .setTierLimits _ _ | .setCurator _ _
  | .setTick _ _ | .setInventory _ _ | .setPowerCap _ _ | .memRead _ _ _ | .memWrite _ _ _ | .matmul _ _ | .accRead _ _
  | .accWrite _ _ | .map _ _ | .rowstat _ _ | .copy _ _ | .send _ _ | .recv _ _ | .put _ _ | .get _ _ | .signal _ _
  | .allreduce _ _ | .allgather _ _ | .fence _ _ | .psplitChange _ _ | .slabArrive _ _ _ _ | .passStart _ _ _ _
  | .drainStart _ _ _ | .drainEnd _ _ | .creditReturn _ _ | .stationTakeUp _ _ | .userTableFill _ _ _
  | .stationTileFinish _ _ | .tileComplete _ | .roundReexecute _ _ | .roundOverrun _ _ | .c0Demotion _ _
  | .inputWaitTimeout _ | .accWindowRead _ _ | .accWindowWrite _ _ | .accWindowTransferEnd _ _
  | .tickBoundary | .admissionListClose | .tickOutFall | .tickInEdge | .substituteBoundary | .producerPoll _ => 0
  | .lateBurst slip => slip.payload.length
  | .flushReadDone _ res => resBytes res
  | .queueDestroyComplete _ | .destroyTimeout _ | .moveChunkCopied _ _ | .moveSwitch _ | .inventoryRegionTest _ _ _ _
  | .arrayInventoryTest _ _ _ | .repairLogCopy | .patrolScrub _ _ _ _ | .logRecordWrite _ | .sramWindowRead _ _ _ => 0
  | .sramWindowWrite _ data _ => data.length
  | .setViewWrite _ data _ => data.length
  | .clearViewWrite _ data _ => data.length
  | .registerWrite _ _ _ _ | .dskAclockLoRead | .rstTickNumLoRead | .queLostEventsRead _ _ | .fnEventEnWrite _ _
  | .relPertCtlWrite _ | .swResetL1 _ | .swResetL2 _ | .swResetL3 _ | .hostGo | .porAssert | .porRelease | .borAssert _ _
  | .borRelease _ | .nrstLow | .nrstHigh | .clockFailure _ | .systemReferenceReturn | .watchdogExpire | .lockup _
  | .stretchEnd _ | .nrstSample _ | .clockQualified _ _ | .clockQualifyRetry _ _ => 0
  | .optionBlockLoaded _ _ a b _ _ => optBytes a + optBytes b
  | .firmwareVerified _ _ _ _ | .memoryTrainingDone _ | .bringupReady | .bringupSlow | .activeRequest _
  | .drowseRequest _ | .offRequest _ | .drowseEntryDone | .wakeComplete | .dvfsEvaluation _ | .avsStepResponse _
  | .thermalThrottle _ _ _ | .throttleRelease _ _ | .thermalTrip _ _ | .foxingMeasure _ _ _ | .stackMarginMeasure _ => 0
  | .flitReceive _ flit _ => flit.length
  | .nak _ _ | .helloSend | .helloMessage _ _ | .helloTimeout _ | .laneLockLoss _ _ | .portTrainingDone _ _ _
  | .portCongested _ | .managerElectionTimeout | .mgmtSlip _ | .timeSyncExchange _ _ | .timeSyncLost => 0
  | .slipForward slip => slip.payload.length
  | .writeSlip slip _ => slip.payload.length
  | .readSlip slip _ => slip.payload.length
  | .readData slip => slip.payload.length
  | .addSlip slip _ => slip.payload.length
  | .rts slip => slip.payload.length
  | .cts slip => slip.payload.length
  | .ack slip => slip.payload.length
  | .slipResendTimeout _ _ | .flr _ | .flrTileAbandon _ | .tenantScrubEnd _ | .vfDisable _ _ | .hotReset | .linkDown
  | .perstN | .poisonedTlp _ => 0
  | .hostCompletion _ res => resBytes res
  | .msixPendingSend _ | .debugLevelApply _ | .tokenSubmit | .tokenVerifyDone | .addressCommand _ _ _ _ _
  | .alertResponse _ | .smbusTimeout | .arbitrationLost => 0
  | .mctpPacket p _ => p.body.length
  | .setEndpointId _ | .getEndpointId | .getEndpointUuid | .getMctpVersionSupport _ | .getMessageTypeSupport
  | .getVendorDefinedMessageSupport | .spdmGetVersion | .spdmGetCapabilities | .spdmNegotiateAlgorithms
  | .spdmGetDigests | .spdmGetCertificate _ _ _ => 0
  | .spdmChallenge _ nonce => nonce.length
  | .spdmGetMeasurements _ _ nonce => nonce.length
  | .getTid | .setTid _ | .getPldmVersion _ | .getPldmTypes | .getPldmCommands _ | .getSensorReading _
  | .getStateSensorReadings _ | .getPdr _ | .getPdrRepositoryInfo | .pollForPlatformEventMessage _
  | .queryDeviceIdentifiers | .getFirmwareParameters | .requestUpdate | .passComponentTable _ | .updateComponent _ _ => 0
  | .requestFirmwareData block _ found _ => block.length + foundBytes found
  | .activateFirmware | .getStatus | .cancelUpdate | .getNonce => 0
  | .submitToken token => token.length
  | .powerReq _ | .regRead _ _ | .regWrite _ _ _ | .vdmMemRead _ _ _ => 0
  | .vdmMemWrite _ data _ => data.length
  | .coreCtl _ _ | .reset _ | .logRead _ _ _ | .rcFieldRead _ _ _ | .tripSensorCooled _ | .perstNRelease | .pcieLinkUp _ _
  | .configurationWrite _ _ | .aislesUnitCrcFail _ _ => 0

end Sys2Proof
end

