-- ==== Sys2Proof/Laws/PerInstr.lean ====
section
/-! SUPPORT. A law of every command as syntax: the data that a well-formed command brings in is at most two option blocks. -/

namespace Sys2Proof.Laws.DataBound

set_option Elab.async false

/-- A well-formed command brings in at most 32,768 bytes of data. -/
def Statement (i : Instr) : Prop := wellFormed i = true → dataBytes i ≤ 32768

theorem resBytes_le {tag : Nat} {r : HostRes} (h : resOk tag r = true) : resBytes r ≤ 32768 := by
  cases r <;> simp_all [resOk, resBytes]; omega

theorem slip_le {s : Slip} (h : slipOk s = true) : s.payload.length ≤ 32768 := by
  simp only [slipOk, Bool.or_eq_true, List.isEmpty_iff, Bool.and_eq_true, decide_eq_true_eq] at h
  obtain h | h := h
  · simp [h]
  · omega

theorem opt_le {o : Option OptBlock} (h : optBlockOk o = true) : optBytes o ≤ 16384 := by
  cases o <;> simp_all [optBlockOk, optBytes]

theorem found_le {o : Option FlashObj} (h : foundOk o = true) : foundBytes o ≤ 16384 := by
  match o with
  | none | some (.image _) => simp [foundBytes]
  | some (.options b) => exact opt_le (o := some b) h

theorem getVersion {a0} {a1} : Statement (.getVersion a0 a1) := by
  intro _; simp [dataBytes]
theorem getInfo {a0} {a1} : Statement (.getInfo a0 a1) := by
  intro _; simp [dataBytes]
theorem queueCreate {a0} {a1} : Statement (.queueCreate a0 a1) := by
  intro _; simp [dataBytes]
theorem queueDestroy {a0} {a1} : Statement (.queueDestroy a0 a1) := by
  intro _; simp [dataBytes]
theorem queueResume {a0} {a1} : Statement (.queueResume a0 a1) := by
  intro _; simp [dataBytes]
theorem queueSetAttr {a0} {a1} : Statement (.queueSetAttr a0 a1) := by
  intro _; simp [dataBytes]
theorem queueQuery {a0} {a1} : Statement (.queueQuery a0 a1) := by
  intro _; simp [dataBytes]
theorem c0Reserve {a0} {a1} : Statement (.c0Reserve a0 a1) := by
  intro _; simp [dataBytes]
theorem c0Release {a0} {a1} : Statement (.c0Release a0 a1) := by
  intro _; simp [dataBytes]
theorem folioAlloc {a0} {a1} : Statement (.folioAlloc a0 a1) := by
  intro _; simp [dataBytes]
theorem folioFree {a0} {a1} : Statement (.folioFree a0 a1) := by
  intro _; simp [dataBytes]
theorem folioPin {a0} {a1} : Statement (.folioPin a0 a1) := by
  intro _; simp [dataBytes]
theorem folioUnpin {a0} {a1} : Statement (.folioUnpin a0 a1) := by
  intro _; simp [dataBytes]
theorem folioQuery {a0} {a1} : Statement (.folioQuery a0 a1) := by
  intro _; simp [dataBytes]
theorem folioWrite {a0} {a1} : Statement (.folioWrite a0 a1) := by
  intro _; simp [dataBytes]
theorem folioRead {a0} {a1} {a2} : Statement (.folioRead a0 a1 a2) := by
  intro _; simp [dataBytes]
theorem setTierLimits {a0} {a1} : Statement (.setTierLimits a0 a1) := by
  intro _; simp [dataBytes]
theorem setCurator {a0} {a1} : Statement (.setCurator a0 a1) := by
  intro _; simp [dataBytes]
theorem setTick {a0} {a1} : Statement (.setTick a0 a1) := by
  intro _; simp [dataBytes]
theorem setInventory {a0} {a1} : Statement (.setInventory a0 a1) := by
  intro _; simp [dataBytes]
theorem setPowerCap {a0} {a1} : Statement (.setPowerCap a0 a1) := by
  intro _; simp [dataBytes]
theorem memRead {a0} {a1} {a2} : Statement (.memRead a0 a1 a2) := by
  intro _; simp [dataBytes]
theorem memWrite {a0} {a1} {a2} : Statement (.memWrite a0 a1 a2) := by
  intro _; simp [dataBytes]
theorem matmul {a0} {a1} : Statement (.matmul a0 a1) := by
  intro _; simp [dataBytes]
theorem accRead {a0} {a1} : Statement (.accRead a0 a1) := by
  intro _; simp [dataBytes]
theorem accWrite {a0} {a1} : Statement (.accWrite a0 a1) := by
  intro _; simp [dataBytes]
theorem map {a0} {a1} : Statement (.map a0 a1) := by
  intro _; simp [dataBytes]
theorem rowstat {a0} {a1} : Statement (.rowstat a0 a1) := by
  intro _; simp [dataBytes]
theorem copy {a0} {a1} : Statement (.copy a0 a1) := by
  intro _; simp [dataBytes]
theorem send {a0} {a1} : Statement (.send a0 a1) := by
  intro _; simp [dataBytes]
theorem recv {a0} {a1} : Statement (.recv a0 a1) := by
  intro _; simp [dataBytes]
theorem put {a0} {a1} : Statement (.put a0 a1) := by
  intro _; simp [dataBytes]
theorem get {a0} {a1} : Statement (.get a0 a1) := by
  intro _; simp [dataBytes]
theorem signal {a0} {a1} : Statement (.signal a0 a1) := by
  intro _; simp [dataBytes]
theorem allreduce {a0} {a1} : Statement (.allreduce a0 a1) := by
  intro _; simp [dataBytes]
theorem allgather {a0} {a1} : Statement (.allgather a0 a1) := by
  intro _; simp [dataBytes]
theorem fence {a0} {a1} : Statement (.fence a0 a1) := by
  intro _; simp [dataBytes]
theorem psplitChange {a0} {a1} : Statement (.psplitChange a0 a1) := by
  intro _; simp [dataBytes]
theorem slabArrive {a0} {a1} {a2} {a3} : Statement (.slabArrive a0 a1 a2 a3) := by
  intro _; simp [dataBytes]
theorem passStart {a0} {a1} {a2} {a3} : Statement (.passStart a0 a1 a2 a3) := by
  intro _; simp [dataBytes]
theorem drainStart {a0} {a1} {a2} : Statement (.drainStart a0 a1 a2) := by
  intro _; simp [dataBytes]
theorem drainEnd {a0} {a1} : Statement (.drainEnd a0 a1) := by
  intro _; simp [dataBytes]
theorem creditReturn {a0} {a1} : Statement (.creditReturn a0 a1) := by
  intro _; simp [dataBytes]
theorem stationTakeUp {a0} {a1} : Statement (.stationTakeUp a0 a1) := by
  intro _; simp [dataBytes]
theorem userTableFill {a0} {a1} {a2} : Statement (.userTableFill a0 a1 a2) := by
  intro _; simp [dataBytes]
theorem stationTileFinish {a0} {a1} : Statement (.stationTileFinish a0 a1) := by
  intro _; simp [dataBytes]
theorem tileComplete {a0} : Statement (.tileComplete a0) := by
  intro _; simp [dataBytes]
theorem roundReexecute {a0} {a1} : Statement (.roundReexecute a0 a1) := by
  intro _; simp [dataBytes]
theorem roundOverrun {a0} {a1} : Statement (.roundOverrun a0 a1) := by
  intro _; simp [dataBytes]
theorem c0Demotion {a0} {a1} : Statement (.c0Demotion a0 a1) := by
  intro _; simp [dataBytes]
theorem inputWaitTimeout {a0} : Statement (.inputWaitTimeout a0) := by
  intro _; simp [dataBytes]
theorem lateBurst {a0} : Statement (.lateBurst a0) := by
  intro h; exact slip_le h
theorem accWindowRead {a0} {a1} : Statement (.accWindowRead a0 a1) := by
  intro _; simp [dataBytes]
theorem accWindowWrite {a0} {a1} : Statement (.accWindowWrite a0 a1) := by
  intro _; simp [dataBytes]
theorem accWindowTransferEnd {a0} {a1} : Statement (.accWindowTransferEnd a0 a1) := by
  intro _; simp [dataBytes]
theorem tickBoundary : Statement (.tickBoundary) := by
  intro _; simp [dataBytes]
theorem admissionListClose : Statement (.admissionListClose) := by
  intro _; simp [dataBytes]
theorem tickOutFall : Statement (.tickOutFall) := by
  intro _; simp [dataBytes]
theorem tickInEdge : Statement (.tickInEdge) := by
  intro _; simp [dataBytes]
theorem substituteBoundary : Statement (.substituteBoundary) := by
  intro _; simp [dataBytes]
theorem producerPoll {a0} : Statement (.producerPoll a0) := by
  intro _; simp [dataBytes]
theorem flushReadDone {a0} {a1} : Statement (.flushReadDone a0 a1) := by
  intro h; exact resBytes_le h
theorem queueDestroyComplete {a0} : Statement (.queueDestroyComplete a0) := by
  intro _; simp [dataBytes]
theorem destroyTimeout {a0} : Statement (.destroyTimeout a0) := by
  intro _; simp [dataBytes]
theorem moveChunkCopied {a0} {a1} : Statement (.moveChunkCopied a0 a1) := by
  intro _; simp [dataBytes]
theorem moveSwitch {a0} : Statement (.moveSwitch a0) := by
  intro _; simp [dataBytes]
theorem inventoryRegionTest {a0} {a1} {a2} {a3} : Statement (.inventoryRegionTest a0 a1 a2 a3) := by
  intro _; simp [dataBytes]
theorem arrayInventoryTest {a0} {a1} {a2} : Statement (.arrayInventoryTest a0 a1 a2) := by
  intro _; simp [dataBytes]
theorem repairLogCopy : Statement (.repairLogCopy) := by
  intro _; simp [dataBytes]
theorem patrolScrub {a0} {a1} {a2} {a3} : Statement (.patrolScrub a0 a1 a2 a3) := by
  intro _; simp [dataBytes]
theorem logRecordWrite {a0} : Statement (.logRecordWrite a0) := by
  intro _; simp [dataBytes]
theorem sramWindowRead {a0} {a1} {a2} : Statement (.sramWindowRead a0 a1 a2) := by
  intro _; simp [dataBytes]
theorem sramWindowWrite {a0} {a1} {a2} : Statement (.sramWindowWrite a0 a1 a2) := by
  intro h
  simp [wellFormed, lenOk] at h
  simp only [dataBytes]; omega
theorem setViewWrite {a0} {a1} {a2} : Statement (.setViewWrite a0 a1 a2) := by
  intro h
  simp [wellFormed, lenOk] at h
  simp only [dataBytes]; omega
theorem clearViewWrite {a0} {a1} {a2} : Statement (.clearViewWrite a0 a1 a2) := by
  intro h
  simp [wellFormed, lenOk] at h
  simp only [dataBytes]; omega
theorem registerWrite {a0} {a1} {a2} {a3} : Statement (.registerWrite a0 a1 a2 a3) := by
  intro _; simp [dataBytes]
theorem dskAclockLoRead : Statement (.dskAclockLoRead) := by
  intro _; simp [dataBytes]
theorem rstTickNumLoRead : Statement (.rstTickNumLoRead) := by
  intro _; simp [dataBytes]
theorem queLostEventsRead {a0} {a1} : Statement (.queLostEventsRead a0 a1) := by
  intro _; simp [dataBytes]
theorem fnEventEnWrite {a0} {a1} : Statement (.fnEventEnWrite a0 a1) := by
  intro _; simp [dataBytes]
theorem relPertCtlWrite {a0} : Statement (.relPertCtlWrite a0) := by
  intro _; simp [dataBytes]
theorem swResetL1 {a0} : Statement (.swResetL1 a0) := by
  intro _; simp [dataBytes]
theorem swResetL2 {a0} : Statement (.swResetL2 a0) := by
  intro _; simp [dataBytes]
theorem swResetL3 {a0} : Statement (.swResetL3 a0) := by
  intro _; simp [dataBytes]
theorem hostGo : Statement (.hostGo) := by
  intro _; simp [dataBytes]
theorem porAssert : Statement (.porAssert) := by
  intro _; simp [dataBytes]
theorem porRelease : Statement (.porRelease) := by
  intro _; simp [dataBytes]
theorem borAssert {a0} {a1} : Statement (.borAssert a0 a1) := by
  intro _; simp [dataBytes]
theorem borRelease {a0} : Statement (.borRelease a0) := by
  intro _; simp [dataBytes]
theorem nrstLow : Statement (.nrstLow) := by
  intro _; simp [dataBytes]
theorem nrstHigh : Statement (.nrstHigh) := by
  intro _; simp [dataBytes]
theorem clockFailure {a0} : Statement (.clockFailure a0) := by
  intro _; simp [dataBytes]
theorem systemReferenceReturn : Statement (.systemReferenceReturn) := by
  intro _; simp [dataBytes]
theorem watchdogExpire : Statement (.watchdogExpire) := by
  intro _; simp [dataBytes]
theorem lockup {a0} : Statement (.lockup a0) := by
  intro _; simp [dataBytes]
theorem stretchEnd {a0} : Statement (.stretchEnd a0) := by
  intro _; simp [dataBytes]
theorem nrstSample {a0} : Statement (.nrstSample a0) := by
  intro _; simp [dataBytes]
theorem clockQualified {a0} {a1} : Statement (.clockQualified a0 a1) := by
  intro _; simp [dataBytes]
theorem clockQualifyRetry {a0} {a1} : Statement (.clockQualifyRetry a0 a1) := by
  intro _; simp [dataBytes]
theorem optionBlockLoaded {a0} {a1} {a2} {a3} {a4} {a5} : Statement (.optionBlockLoaded a0 a1 a2 a3 a4 a5) := by
  intro h
  simp only [wellFormed, Bool.and_eq_true] at h
  have := opt_le h.1
  have := opt_le h.2
  simp only [dataBytes]; omega
theorem firmwareVerified {a0} {a1} {a2} {a3} : Statement (.firmwareVerified a0 a1 a2 a3) := by
  intro _; simp [dataBytes]
theorem memoryTrainingDone {a0} : Statement (.memoryTrainingDone a0) := by
  intro _; simp [dataBytes]
theorem bringupReady : Statement (.bringupReady) := by
  intro _; simp [dataBytes]
theorem bringupSlow : Statement (.bringupSlow) := by
  intro _; simp [dataBytes]
theorem activeRequest {a0} : Statement (.activeRequest a0) := by
  intro _; simp [dataBytes]
theorem drowseRequest {a0} : Statement (.drowseRequest a0) := by
  intro _; simp [dataBytes]
theorem offRequest {a0} : Statement (.offRequest a0) := by
  intro _; simp [dataBytes]
theorem drowseEntryDone : Statement (.drowseEntryDone) := by
  intro _; simp [dataBytes]
theorem wakeComplete : Statement (.wakeComplete) := by
  intro _; simp [dataBytes]
theorem dvfsEvaluation {a0} : Statement (.dvfsEvaluation a0) := by
  intro _; simp [dataBytes]
theorem avsStepResponse {a0} : Statement (.avsStepResponse a0) := by
  intro _; simp [dataBytes]
theorem thermalThrottle {a0} {a1} {a2} : Statement (.thermalThrottle a0 a1 a2) := by
  intro _; simp [dataBytes]
theorem throttleRelease {a0} {a1} : Statement (.throttleRelease a0 a1) := by
  intro _; simp [dataBytes]
theorem thermalTrip {a0} {a1} : Statement (.thermalTrip a0 a1) := by
  intro _; simp [dataBytes]
theorem foxingMeasure {a0} {a1} {a2} : Statement (.foxingMeasure a0 a1 a2) := by
  intro _; simp [dataBytes]
theorem stackMarginMeasure {a0} : Statement (.stackMarginMeasure a0) := by
  intro _; simp [dataBytes]
theorem flitReceive {a0} {a1} {a2} : Statement (.flitReceive a0 a1 a2) := by
  intro h
  simp [wellFormed] at h
  simp only [dataBytes]; omega
theorem nak {a0} {a1} : Statement (.nak a0 a1) := by
  intro _; simp [dataBytes]
theorem helloSend : Statement (.helloSend) := by
  intro _; simp [dataBytes]
theorem helloMessage {a0} {a1} : Statement (.helloMessage a0 a1) := by
  intro _; simp [dataBytes]
theorem helloTimeout {a0} : Statement (.helloTimeout a0) := by
  intro _; simp [dataBytes]
theorem laneLockLoss {a0} {a1} : Statement (.laneLockLoss a0 a1) := by
  intro _; simp [dataBytes]
theorem portTrainingDone {a0} {a1} {a2} : Statement (.portTrainingDone a0 a1 a2) := by
  intro _; simp [dataBytes]
theorem portCongested {a0} : Statement (.portCongested a0) := by
  intro _; simp [dataBytes]
theorem managerElectionTimeout : Statement (.managerElectionTimeout) := by
  intro _; simp [dataBytes]
theorem mgmtSlip {a0} : Statement (.mgmtSlip a0) := by
  intro _; simp [dataBytes]
theorem timeSyncExchange {a0} {a1} : Statement (.timeSyncExchange a0 a1) := by
  intro _; simp [dataBytes]
theorem timeSyncLost : Statement (.timeSyncLost) := by
  intro _; simp [dataBytes]
theorem slipForward {a0} : Statement (.slipForward a0) := by
  intro h; exact slip_le h
theorem writeSlip {a0} {a1} : Statement (.writeSlip a0 a1) := by
  intro h
  simp only [wellFormed, Bool.and_eq_true] at h
  exact slip_le h.1
theorem readSlip {a0} {a1} : Statement (.readSlip a0 a1) := by
  intro h
  simp only [wellFormed, Bool.and_eq_true] at h
  exact slip_le h.1
theorem readData {a0} : Statement (.readData a0) := by
  intro h; exact slip_le h
theorem addSlip {a0} {a1} : Statement (.addSlip a0 a1) := by
  intro h
  simp only [wellFormed, Bool.and_eq_true] at h
  exact slip_le h.1
theorem rts {a0} : Statement (.rts a0) := by
  intro h; exact slip_le h
theorem cts {a0} : Statement (.cts a0) := by
  intro h; exact slip_le h
theorem ack {a0} : Statement (.ack a0) := by
  intro h; exact slip_le h
theorem slipResendTimeout {a0} {a1} : Statement (.slipResendTimeout a0 a1) := by
  intro _; simp [dataBytes]
theorem flr {a0} : Statement (.flr a0) := by
  intro _; simp [dataBytes]
theorem flrTileAbandon {a0} : Statement (.flrTileAbandon a0) := by
  intro _; simp [dataBytes]
theorem tenantScrubEnd {a0} : Statement (.tenantScrubEnd a0) := by
  intro _; simp [dataBytes]
theorem vfDisable {a0} {a1} : Statement (.vfDisable a0 a1) := by
  intro _; simp [dataBytes]
theorem hotReset : Statement (.hotReset) := by
  intro _; simp [dataBytes]
theorem linkDown : Statement (.linkDown) := by
  intro _; simp [dataBytes]
theorem perstN : Statement (.perstN) := by
  intro _; simp [dataBytes]
theorem poisonedTlp {a0} : Statement (.poisonedTlp a0) := by
  intro _; simp [dataBytes]
theorem hostCompletion {a0} {a1} : Statement (.hostCompletion a0 a1) := by
  intro h; exact resBytes_le h
theorem msixPendingSend {a0} : Statement (.msixPendingSend a0) := by
  intro _; simp [dataBytes]
theorem debugLevelApply {a0} : Statement (.debugLevelApply a0) := by
  intro _; simp [dataBytes]
theorem tokenSubmit : Statement (.tokenSubmit) := by
  intro _; simp [dataBytes]
theorem tokenVerifyDone : Statement (.tokenVerifyDone) := by
  intro _; simp [dataBytes]
theorem addressCommand {a0} {a1} {a2} {a3} {a4} : Statement (.addressCommand a0 a1 a2 a3 a4) := by
  intro _; simp [dataBytes]
theorem alertResponse {a0} : Statement (.alertResponse a0) := by
  intro _; simp [dataBytes]
theorem smbusTimeout : Statement (.smbusTimeout) := by
  intro _; simp [dataBytes]
theorem arbitrationLost : Statement (.arbitrationLost) := by
  intro _; simp [dataBytes]
theorem mctpPacket {a0} {a1} : Statement (.mctpPacket a0 a1) := by
  intro h
  simp [wellFormed] at h
  simp only [dataBytes]; omega
theorem setEndpointId {a0} : Statement (.setEndpointId a0) := by
  intro _; simp [dataBytes]
theorem getEndpointId : Statement (.getEndpointId) := by
  intro _; simp [dataBytes]
theorem getEndpointUuid : Statement (.getEndpointUuid) := by
  intro _; simp [dataBytes]
theorem getMctpVersionSupport {a0} : Statement (.getMctpVersionSupport a0) := by
  intro _; simp [dataBytes]
theorem getMessageTypeSupport : Statement (.getMessageTypeSupport) := by
  intro _; simp [dataBytes]
theorem getVendorDefinedMessageSupport : Statement (.getVendorDefinedMessageSupport) := by
  intro _; simp [dataBytes]
theorem spdmGetVersion : Statement (.spdmGetVersion) := by
  intro _; simp [dataBytes]
theorem spdmGetCapabilities : Statement (.spdmGetCapabilities) := by
  intro _; simp [dataBytes]
theorem spdmNegotiateAlgorithms : Statement (.spdmNegotiateAlgorithms) := by
  intro _; simp [dataBytes]
theorem spdmGetDigests : Statement (.spdmGetDigests) := by
  intro _; simp [dataBytes]
theorem spdmGetCertificate {a0} {a1} {a2} : Statement (.spdmGetCertificate a0 a1 a2) := by
  intro _; simp [dataBytes]
theorem spdmChallenge {a0} {a1} : Statement (.spdmChallenge a0 a1) := by
  intro h
  simp [wellFormed] at h
  simp only [dataBytes]; omega
theorem spdmGetMeasurements {a0} {a1} {a2} : Statement (.spdmGetMeasurements a0 a1 a2) := by
  intro h
  simp [wellFormed] at h
  simp only [dataBytes]; omega
theorem getTid : Statement (.getTid) := by
  intro _; simp [dataBytes]
theorem setTid {a0} : Statement (.setTid a0) := by
  intro _; simp [dataBytes]
theorem getPldmVersion {a0} : Statement (.getPldmVersion a0) := by
  intro _; simp [dataBytes]
theorem getPldmTypes : Statement (.getPldmTypes) := by
  intro _; simp [dataBytes]
theorem getPldmCommands {a0} : Statement (.getPldmCommands a0) := by
  intro _; simp [dataBytes]
theorem getSensorReading {a0} : Statement (.getSensorReading a0) := by
  intro _; simp [dataBytes]
theorem getStateSensorReadings {a0} : Statement (.getStateSensorReadings a0) := by
  intro _; simp [dataBytes]
theorem getPdr {a0} : Statement (.getPdr a0) := by
  intro _; simp [dataBytes]
theorem getPdrRepositoryInfo : Statement (.getPdrRepositoryInfo) := by
  intro _; simp [dataBytes]
theorem pollForPlatformEventMessage {a0} : Statement (.pollForPlatformEventMessage a0) := by
  intro _; simp [dataBytes]
theorem queryDeviceIdentifiers : Statement (.queryDeviceIdentifiers) := by
  intro _; simp [dataBytes]
theorem getFirmwareParameters : Statement (.getFirmwareParameters) := by
  intro _; simp [dataBytes]
theorem requestUpdate : Statement (.requestUpdate) := by
  intro _; simp [dataBytes]
theorem passComponentTable {a0} : Statement (.passComponentTable a0) := by
  intro _; simp [dataBytes]
theorem updateComponent {a0} {a1} : Statement (.updateComponent a0 a1) := by
  intro _; simp [dataBytes]
theorem requestFirmwareData {a0} {a1} {a2} {a3} : Statement (.requestFirmwareData a0 a1 a2 a3) := by
  intro h
  simp only [wellFormed, Bool.and_eq_true, decide_eq_true_eq] at h
  have := found_le h.2
  simp only [dataBytes]; omega
theorem activateFirmware : Statement (.activateFirmware) := by
  intro _; simp [dataBytes]
theorem getStatus : Statement (.getStatus) := by
  intro _; simp [dataBytes]
theorem cancelUpdate : Statement (.cancelUpdate) := by
  intro _; simp [dataBytes]
theorem getNonce : Statement (.getNonce) := by
  intro _; simp [dataBytes]
theorem submitToken {a0} : Statement (.submitToken a0) := by
  intro h
  simp [wellFormed] at h
  simp only [dataBytes]; omega
theorem powerReq {a0} : Statement (.powerReq a0) := by
  intro _; simp [dataBytes]
theorem regRead {a0} {a1} : Statement (.regRead a0 a1) := by
  intro _; simp [dataBytes]
theorem regWrite {a0} {a1} {a2} : Statement (.regWrite a0 a1 a2) := by
  intro _; simp [dataBytes]
theorem vdmMemRead {a0} {a1} {a2} : Statement (.vdmMemRead a0 a1 a2) := by
  intro _; simp [dataBytes]
theorem vdmMemWrite {a0} {a1} {a2} : Statement (.vdmMemWrite a0 a1 a2) := by
  intro h
  simp [wellFormed] at h
  simp only [dataBytes]; omega
theorem coreCtl {a0} {a1} : Statement (.coreCtl a0 a1) := by
  intro _; simp [dataBytes]
theorem reset {a0} : Statement (.reset a0) := by
  intro _; simp [dataBytes]
theorem logRead {a0} {a1} {a2} : Statement (.logRead a0 a1 a2) := by
  intro _; simp [dataBytes]
theorem rcFieldRead {a0} {a1} {a2} : Statement (.rcFieldRead a0 a1 a2) := by
  intro _; simp [dataBytes]
theorem tripSensorCooled {a0} : Statement (.tripSensorCooled a0) := by
  intro _; simp [dataBytes]
theorem perstNRelease : Statement (.perstNRelease) := by
  intro _; simp [dataBytes]
theorem pcieLinkUp {a0} {a1} : Statement (.pcieLinkUp a0 a1) := by
  intro _; simp [dataBytes]
theorem configurationWrite {a0} {a1} : Statement (.configurationWrite a0 a1) := by
  intro _; simp [dataBytes]
theorem aislesUnitCrcFail {a0} {a1} : Statement (.aislesUnitCrcFail a0 a1) := by
  intro _; simp [dataBytes]

end Sys2Proof.Laws.DataBound
end

