-- ==== Sys2Proof/Tests/Slice0.lean ====
section
/-! SUPPORT. Tests on small states, and for every statement a state that meets the hypotheses of each of its clauses. -/

namespace Sys2Proof.Tests

open Sys2Proof.Machine

set_option Elab.async false

/-! ### States -/

/-- A function with its memory space, its bus mastering and its MSI-X vector enabled. -/
def fnOn : PcieFn := { PcieFn.reset with busMaster := true, memSpace := true, masked := false }

/-- A folio of 64 KiB at the device address 0x10_0000 (unit 16), of function 0, with the hint GENERAL. -/
def folio0 : Folio := { Folio.reset with valid := true, base := 16 }

/-- A part after READY: link up, functions 0 to 2 enabled, 8 GiB of Depository, every Wing powered, folio 5 mapped. -/
def up : State :=
  { State.reset with
    desk := { Desk.reset with ready := true }
    rst := { Rst.reset with bringup := none, step := 6, pinsReleased := true, arrMapSet := true, trained := true, armed := true,
                            qSys := true, qAclk := true, qMem := true, qPcie := true, qSerdes := true }
    pcie := { Pcie.reset with linkUp := true, vfEnable := true, numVFs := 2, fns := [(0, fnOn), (1, fnOn), (2, fnOn)] }
    tier := { Tiers.reset with depGib := 8, folios := [(5, folio0)] }
    wings := (List.range 32).map fun w => (w, { Wing.reset with powered := true })
    fab := { Fab.reset with assigned := true, routed := true, joined := true, routes := [(0, 0x8000FFFF)] }
    mgt := { Mgt.reset with serving := true, assigned := true, addr := 0x30 } }

/-- Mailbox 0 of function f holds a request of opcode op with these payload words, and its GO has been accepted. -/
def ask (f op : Nat) (ps : List Nat) (s : State) : State :=
  let m : Mbox := { Mbox.reset with state := 1, req := putWords [] 0 ([65536 + op, 0x11, 4 * ps.length, 0] ++ ps) }
  setMb s f 0 m

/-- The state with queue q as x. -/
def withQ (q : Nat) (x : Queue) (s : State) : State := setQ s q x

/-- A queue of class 3 that is ACTIVE. -/
def queue1 : Queue := { Queue.reset with state := 1, cls := 3, ringLog2 := 4, pollUs := 10, created := true }

/-! ### Mailbox commands -/

theorem wit_MailboxQueries : Tidy up ∧ Granted (ask 0 0x01 [] up) 0 0 0x01 ∧ Granted (ask 0 0x02 [] up) 0 0 0x02 ∧
    Granted (ask 0 0x14 [3] up) 0 0 0x14 ∧ Granted (ask 0 0x34 [5] up) 0 0 0x34 := by
  unfold Tidy Granted; decide +kernel

theorem wit_MailboxLimits : Tidy up ∧ Granted (ask 0 0x40 [31, 0x7FF000, 131072] up) 0 0 0x40 ∧
    Granted (ask 0 0x41 [0x108001] up) 0 0 0x41 ∧ Granted (ask 0 0x42 [2, 50, 1, 2, 3, 4] up) 0 0 0x42 ∧
    Granted (ask 0 0x43 [3600] up) 0 0 0x43 ∧ Granted (ask 0 0x44 [600] up) 0 0 0x44 := by
  unfold Tidy Granted; decide +kernel

/-- A QUEUE_CREATE of function 1 for its queue 31. -/
def create : List Nat := [0xE0 + 31, 3, 0x1000, 0, 0x2000, 0, 0x3000, 0, 0, 0, 0, 0]

/-- Function 1 may not reach host memory. -/
def noMaster : State := { up with pcie := { up.pcie with fns := [(0, fnOn), (1, { fnOn with busMaster := false })] } }

/-- Queue 1 is HALTED; queue 2 is COMPLETION_BLOCKED with one record kept. -/
def stalled : State :=
  withQ 1 { queue1 with state := 2, cause := 2 } (withQ 2 { queue1 with state := 3, spill := [CRec.reset] } up)

theorem wit_MailboxQueues_create : Tidy (ask 1 0x10 create up) ∧ Granted (ask 1 0x10 create up) 1 0 0x10 ∧ hostBlocked up 1 = false ∧
    Granted (ask 1 0x10 create noMaster) 1 0 0x10 ∧ hostBlocked (ask 1 0x10 create noMaster) 1 = true := by
  unfold Tidy Granted; decide +kernel

theorem wit_MailboxQueues_destroy : Granted (ask 0 0x11 [1] stalled) 0 0 0x11 := by unfold Granted; decide +kernel

theorem wit_MailboxQueues_resume : Granted (ask 0 0x12 [1] stalled) 0 0 0x12 ∧ (getQ stalled 1).state = 2 ∧
    Granted (ask 0 0x12 [2] stalled) 0 0 0x12 ∧ (getQ stalled 2).state = 3 ∧ (getQ stalled 2).spill = CRec.reset :: [] ∧
    hostBlocked stalled (2 / 32) = false := by
  unfold Granted; decide +kernel

theorem wit_MailboxQueues_setAttr : ∀ x ∈ ([(1, 1, 0, 0), (2, 7, 0, 0), (3, 5, 6, 0), (4, 5, 6, 0), (5, 5, 6, 0), (6, 5, 6, 0),
    (7, 1, 5, 8), (8, 1000, 0, 0), (9, 60000000, 0, 0), (10, 1, 0, 0), (11, 0, 0, 0)] : List (Nat × Nat × Nat × Nat)),
    Granted (ask 0 0x13 [1, x.1, x.2.1, x.2.2.1, x.2.2.2] stalled) 0 0 0x13 := by
  unfold Granted; decide +kernel

/-- Queue 1 is of class C0; queue 2 holds a reservation in force. -/
def c0s : State :=
  withQ 1 { queue1 with cls := 0 } (withQ 2 { queue1 with cls := 0, resv := some { mask := 1, ra := 102, rf := 1, releasing := false } } up)

theorem wit_MailboxReservations : Tidy c0s ∧ Granted (ask 0 0x20 [1, 2, 0x0166] c0s) 0 0 0x20 ∧
    Granted (ask 0 0x20 [1, 1, 0x0101] c0s) 0 0 0x20 ∧ Granted (ask 0 0x21 [2] c0s) 0 0 0x21 ∧
    resvFits (closeKept c0s 1) { mask := 2, ra := 0x66, rf := 1, releasing := false } = true ∧
    resvFits (closeKept c0s 1) { mask := 1, ra := 1, rf := 1, releasing := false } = false := by
  unfold Tidy Granted; decide +kernel

theorem wit_FolioAllocation : Granted (ask 0 0x30 [0x2A, 0] up) 0 0 0x30 ∧
    ([false, true].filter fun d => hasExtent up d (extents up) 512).find? (fun d => withinLimit up 0 d 512) = some false ∧
    ∃ i, 1 ≤ i ∧ i < 1048576 ∧ ∀ x ∈ up.tier.folios, x.1 ≠ i := by
  unfold Granted
  exact ⟨by decide +kernel, by decide +kernel, 7, by decide, by decide, by decide +kernel⟩

/-- Function 0 may have nothing more in the Stacks; the part has no Depository. -/
def full : State :=
  { up with tier := { up.tier with depGib := 0, cur := { Curator.reset with limits := [(0, { nearTier := some 1, depos := none })] } } }

theorem wit_FolioAllocation_refused : Granted (ask 0 0x30 [0x00, 0] full) 0 0 0x30 ∧ Granted (ask 0 0x30 [0x10, 0] full) 0 0 0x30 ∧
    ([false].filter fun d => hasExtent full d (extents full) 1).find? (fun d => withinLimit full 0 d 1) = none ∧
    ([true].filter fun d => hasExtent full d (extents full) 1).find? (fun d => withinLimit full 0 d 1) = none := by
  unfold Granted; decide +kernel

theorem wit_FolioChanges : Tidy up ∧ Granted (ask 0 0x31 [5] up) 0 0 0x31 ∧ Granted (ask 0 0x32 [5, 0] up) 0 0 0x32 ∧
    Granted (ask 0 0x33 [5] up) 0 0 0x33 ∧ (∀ x ∈ up.run.tiles, tileNames up x 5 = false) ∧ moveOf up 5 = none ∧
    (getFolio up 5).tier = decide (0 = 1) ∧ Granted (ask 0 0x32 [5, 1] up) 0 0 0x32 ∧ (getFolio up 5).tier ≠ decide (1 = 1) ∧
    withinLimit up 0 true 1 = true ∧ hasExtent up true (extents up) 1 = true := by
  unfold Tidy Granted; decide +kernel

theorem wit_FolioTransfers : hostBlocked up 0 = false ∧ Granted (ask 0 0x35 [5, 64, 0x1000, 0, 64] up) 0 0 0x35 ∧
    Granted (ask 0 0x35 [5, 65536, 0x1000, 0, 0] up) 0 0 0x35 ∧ Granted (ask 0 0x36 [5, 64, 0x1000, 0, 64] up) 0 0 0x36 ∧
    Granted (ask 0 0x36 [5, 65536, 0x1000, 0, 0] up) 0 0 0x36 ∧ ueIn up 0x100040 64 = [] ∧ ceIn up 0x100040 64 = [] := by
  unfold Granted; decide +kernel

theorem wit_MailboxMemory : Granted (ask 0 0x45 [8, 0x400, 8] up) 0 0 0x45 ∧ Granted (ask 0 0x46 [0, 0x500, 8, 0, 1, 2] up) 0 0 0x46 ∧
    memWaits (ask 0 0x45 [8, 0x400, 8] up) 0 0 = false ∧ memWaits (ask 0 0x46 [0, 0x500, 8, 0, 1, 2] up) 0 0 = false ∧
    (∀ j, j < 8 → ueIn up (plainAddr (0x40000000008 + j)) 1 = [] ∧ ceIn up (plainAddr (0x40000000008 + j)) 1 = []) ∧
    ∀ j, j < 8 → ueIn up (plainAddr (0x50000000000 + j)) 1 = [] := by
  unfold Granted; decide +kernel

/-- A request for each check of rule R451: a wrong version, a privileged command of function 1, a wrong length, a bad parameter, a
queue of another function, a queue that is absent. -/
def badAsks : List (State × Nat × Nat × Nat) :=
  [(setMb up 0 0 { Mbox.reset with state := 1, req := [(0, 0x01)] }, 0, 0x01, 0x10),
   (ask 1 0x43 [60] up, 1, 0x43, 0x14), (ask 0 0x14 [] up, 0, 0x14, 0x12), (ask 0 0x14 [1024] up, 0, 0x14, 0x13),
   (ask 0 0x14 [32] up, 0, 0x14, 0x14), (ask 0 0x11 [1] up, 0, 0x11, 0x15)]

theorem wit_MailboxRejections : ∀ x ∈ badAsks, Tidy x.1 ∧ mbReady x.1 x.2.1 0 x.2.2.1 = true ∧
    bit x.2.1 x.1.sec.scrub.toNat = false ∧ checkStatus x.1 x.2.1 (getMb x.1 x.2.1 0) = x.2.2.2 := by
  unfold Tidy; decide +kernel


/-! ### Tile operations -/

/-- A descriptor from the words that are not 0. -/
def d16 (l : List (Nat × Nat)) : List W32 := (List.range 16).map fun i => BitVec.ofNat 32 (tabGet 0 l i)

/-- Word 0 of a descriptor of class 3: the operation and other fields. -/
def w0 (op rest : Nat) : Nat := 2 ^ 26 * op + 2 ^ 24 * 3 + rest

/-- The slots of operands A, B and C in folio 5 at an offset in units of 64 bytes, with an AUX base. -/
def slotAt (k off aux : Nat) : List (Nat × Nat) :=
  let v := 5 + 2 ^ 20 * off + 2 ^ 39 * aux
  [(9 + 2 * k, v % 2 ^ 32), (10 + 2 * k, v / 2 ^ 32)]

/-- OPEN, CLOSE and LAST of word 0. -/
def fOpen : Nat := 2 ^ 16
def fClose : Nat := 2 ^ 15
def fLast : Nat := 2 ^ 11

/-- MATMUL of 1 token by 2 columns in FP32, one pass: index operand B at 0x4000, table operand A at 0x5000, C at 0x6000. -/
def dMatmul (flags : Nat) : List W32 :=
  d16 ([(0, w0 1 flags), (1, 0x4010), (3, 0x1000), (5, 1), (6, 2 ^ 20 + 0x100 + 2), (7, 2 ^ 20)] ++ slotAt 0 0x140 0x150 ++
    slotAt 1 0x100 0x110 ++ slotAt 2 0x180 0)
/-- ACC_READ and ACC_WRITE of the same group. -/
def dAccRead : List W32 := d16 ([(0, w0 2 fLast), (1, 0x4010), (5, 1), (6, 0x102)] ++ slotAt 2 0x180 0)
def dAccWrite : List W32 := d16 ([(0, w0 3 fLast), (1, 0x10), (5, 1), (6, 0x102)] ++ slotAt 0 0x180 0)
/-- MAP (EXP), ROWSTAT and COPY of 1 row of 16 FP32 elements at 0x5000 to 0x6000. -/
def dRow (op func route : Nat) : List W32 :=
  d16 ([(0, w0 op (fLast + func)), (1, route), (5, 1), (7, 2 ^ 20)] ++ slotAt 0 0x140 0 ++ slotAt 2 0x180 0)
/-- SEND, RECV, PUT and GET with node 1, of 1 row of 16 FP32 elements. -/
def dLoan (op route : Nat) : List W32 :=
  d16 ([(0, w0 op fLast), (1, route), (3, 2 ^ 16), (4, if op ≤ 9 then 7 else 0), (5, 1), (7, 2 ^ 20)] ++
    (if op = 9 then [] else slotAt 0 0x140 0) ++ (if op = 8 then [] else slotAt 2 0x180 0))
def dSignal : List W32 := d16 ([(0, w0 0xC fLast), (1, 0x5450), (3, 2 ^ 16)] ++ slotAt 2 0x180 0)
/-- ALLREDUCE and ALLGATHER with the ring record at 0x7000. -/
def dColl (op : Nat) : List W32 :=
  d16 ([(0, w0 op fLast), (1, 0x50), (5, 1), (7, 2 ^ 20)] ++ slotAt 0 0x140 0 ++ slotAt 2 0x180 0x1C0)
def dFenceT : List W32 := d16 [(0, w0 0x3F fLast)]

/-- A round of queue 1 that runs, its descriptors at the start of folio 5. -/
def round1 (n : Nat) : Round :=
  { num := 0, cls := 3, rsignal := false, tag := 9, budget := 100, mask := 1, descFolio := 5, descBase := 0x100000, descOffset := 0,
    descCount := n, progFolio := 0, progOffset := 0, submitted := 0, fresh := true, late := false, returned := false, state := .running,
    order := 1, tick := 0, since := none, charge := 0, overrun := false, demoted := false, lostGuarantee := false,
    attrs := Attrs.reset, taken := [], done := 0, reexecuted := false, stopping := false, result := none, loanDone := [],
    sigDone := [] }

/-- Bytes of descriptors. -/
def descBytes (ds : List (List W32)) : List Byte := ds.flatMap fun d => d.flatMap fun w => bytesOf 4 w.toNat

/-- Queue 1 runs a round of these descriptors; the ring record of two members, this node the first, stands at 0x7000. -/
def busy (ds : List (List W32)) : State :=
  withQ 1 { queue1 with consumed := 1, producer := 1, rounds := [round1 ds.length] }
    { up with mem := memPut 0 (memPut 0 [] 0x100000 (descBytes ds)) 0x107000 [2, 0, 0, 0, 0, 0, 1, 0] }

/-- The same with group 0 of logical array 0 open for the round. -/
def busyOpen (ds : List (List W32)) : State :=
  let s := busy ds
  let h := shapeOf (dMatmul 0)
  let g : Group := { Group.reset with owner := some 1, issuedOpen := true, shape := h, live := true, liveShape := h }
  let z : Slot := { Slot.reset with held := true, cols := 2, acc := [0, 0], shape := h }
  { s with arrs := { s.arrs with groups := [(0, g)], slots := [(0, z)] } }

/-- The candidate that a state of one descriptor gives. -/
def cand (d : List W32) : Cand := { q := 1, rnd := round1 1, idx := 0, d := d }

/-- Each operation and a state in which a tile of it is next. -/
def ops : List (Nat × List W32 × State) :=
  [(0x01, dMatmul (fOpen + fClose + fLast)), (0x04, dRow 4 0x10 0x4020), (0x05, dRow 5 0x02 0x4030), (0x06, dRow 6 0 0x40),
   (0x08, dLoan 8 0x5450), (0x09, dLoan 9 0x50), (0x0A, dLoan 0xA 0x5450), (0x0B, dLoan 0xB 0x5450), (0x0C, dSignal),
   (0x0D, dColl 0xD), (0x0E, dColl 0xE), (0x3F, dFenceT)].map (fun x => (x.1, x.2, busy [x.2])) ++
  [(0x02, dAccRead), (0x03, dAccWrite)].map fun x => (x.1, x.2, busyOpen [x.2])

/-- The state after commands. -/
def go (s : State) (cs : List Instr) : State :=
  cs.foldl (fun s c => match exec c s with
    | .next t => t
    | _ => s) s

/-- The tile 0 of round 0 of queue 1, and its stations. -/
def tid : TileId := { q := 1, rnd := 0, idx := 0 }
def arr0 : StRef := { kind := .array, wing := 0, unit := 0 }
def gls0 : StRef := { kind := .glossary, wing := 0, unit := 0 }
def led0 : StRef := { kind := .ledger, wing := 0, unit := 0 }
def ret0 : StRef := { kind := .returns, wing := 0, unit := 0 }
def loan0 : StRef := { kind := .loan, wing := 0, unit := 0 }

/-- The life of a MATMUL tile, command by command. -/
def life : List Instr :=
  [.matmul 0 0, .slabArrive tid .wt true [], .slabArrive tid .act true [], .stationTakeUp arr0 [], .passStart 0 0 none [],
   .stationTileFinish arr0 [], .drainStart 0 0 [], .stationTakeUp ret0 [], .stationTileFinish ret0 [], .drainEnd 0 0, .tileComplete 1]
/-- The state before step n of that life. -/
def at_ (n : Nat) : State := go (busy [dMatmul (fOpen + fClose + fLast)]) (life.take n)
/-- A tile of a state. -/
def tile (s : State) : Tile := s.run.tiles.headD (newTile s 0 0 (cand []) 0 .ahead)

theorem wit_TilesTakenUp : ∀ x ∈ ops, Tidy x.2.2 ∧ nextTile x.2.2 0 0 = some (cand x.2.1) ∧ dOp (cand x.2.1).d = x.1 ∧
    unitReset x.2.2 0 0x22 = false ∧ fetchFull x.2.2 0 0 (ranClass (round1 1)) = false ∧
    takeUpStatus (closeKept x.2.2 1) (cand x.2.1) = 0 ∧
    placeFor x.2.2 0 0 (cand x.2.1) = true ∧ waitOver x.2.2 0 0x22 (getRun x.2.2 0 0).readyFrom = true ∧
    creditHeld x.2.2 0 0x22 = false ∧ 0 ∉ (round1 1).loanDone := by
  unfold Tidy; decide +kernel

/-- The round in class 2, which the descriptors of class 3 do not fit. -/
def wrongClass (s : State) : State := modQ s 1 fun x => { x with rounds := x.rounds.map fun r => { r with cls := 2 } }

theorem wit_TilesRejected : ∀ x ∈ ops, Tidy (wrongClass x.2.2) ∧
    nextTile (wrongClass x.2.2) 0 0 = some { cand x.2.1 with rnd := { round1 1 with cls := 2 } } ∧
    unitReset (wrongClass x.2.2) 0 0x22 = false ∧ fetchFull (wrongClass x.2.2) 0 0 2 = false ∧
    takeUpStatus (closeKept (wrongClass x.2.2) 1) { cand x.2.1 with rnd := { round1 1 with cls := 2 } } = 1 ∧
    placeFor (wrongClass x.2.2) 0 0 { cand x.2.1 with rnd := { round1 1 with cls := 2 } } = true ∧
    waitOver (wrongClass x.2.2) 0 0x22 (getRun (wrongClass x.2.2) 0 0).readyFrom = true ∧ creditHeld (wrongClass x.2.2) 0 0x22 = false := by
  unfold Tidy; decide +kernel

/-- A reserved operation code; an accumulator read of a group that is neither open nor draining. -/
def reserved : List W32 := d16 [(0, w0 7 fLast), (1, 0x4010)]

theorem wit_TilesRejected_kinds : (∀ d ∈ [reserved, dAccRead], Tidy (busy [d]) ∧ nextTile (busy [d]) 0 0 = some (cand d) ∧
      placeFor (busy [d]) 0 0 (cand d) = true ∧ takeUpStatus (closeKept (busy [d]) 1) (cand d) ≠ 0) ∧
    opKnown (dOp reserved) = false ∧ takeUpStatus (closeKept (busy [dAccRead]) 1) (cand dAccRead) = 7 ∧
    groupDrains (busy [dAccRead]) (dLarray dAccRead) (dGroup dAccRead) = false := by
  unfold Tidy; decide +kernel

/-- A MATMUL with PSPLIT 1 that has been taken up, its array's bank being empty with the split 0. -/
def otherSplit : State := go (busy [dMatmul (2 ^ 22 + fOpen + fClose + fLast)]) [.matmul 0 0]

theorem wit_BanksAndDrains : Tidy otherSplit ∧ Tidy (at_ 6) ∧ Tidy (at_ 9) ∧
    (otherSplit.run.tiles.find? fun x =>
      x.w == 0 && x.r == 0 && x.phase == .ahead && dSplit x.d != (getArr otherSplit 0 x.a).split.toNat &&
        (getArr otherSplit 0 x.a).bufs.isEmpty &&
        !((otherSplit.run.tiles.takeWhile fun z => z.id != x.id).any fun z =>
            z.w == 0 && z.a == x.a && (z.phase == .ahead || z.phase == .held || z.phase == .aside) && z.hop == 0 &&
              dSplit z.d == (getArr otherSplit 0 x.a).split.toNat)) = some (tile otherSplit) ∧
    unitReset (at_ 6) 0 1 = false ∧ slotsWith (at_ 6) 0 0 (fun z => z.draining && z.started) = [] ∧
    drainNext (at_ 6) 0 0 = some (0, getSlot (at_ 6) 0 0 0) ∧
    (getSlot (at_ 6) 0 0 0).tile.bind (findTile (at_ 6)) = some (tile (at_ 6)) ∧ (tile (at_ 6)).phase = .drainWait ∧
    (slotsWith (at_ 9) 0 0 fun z => z.draining && z.started).head? = some (0, getSlot (at_ 9) 0 0 0) ∧
    (∀ x, (getSlot (at_ 9) 0 0 0).tile.bind (findTile (at_ 9)) = some x → ¬ (x.phase = .between ∧ x.hop = 1)) := by
  unfold Tidy; decide +kernel

/-- The drain has ended while its tile has not yet been passed on. -/
theorem wit_BanksAndDrains_passOn : Tidy (at_ 7) ∧
    (slotsWith (at_ 7) 0 0 fun z => z.draining && z.started).head? = some (0, getSlot (at_ 7) 0 0 0) ∧
    (getSlot (at_ 7) 0 0 0).tile.bind (findTile (at_ 7)) = some (tile (at_ 7)) ∧ (tile (at_ 7)).phase = .between ∧ (tile (at_ 7)).hop = 1 ∧
    (goOn (at_ 7) 0 (tile (at_ 7))).isSome = true := by
  unfold Tidy; decide +kernel

/-- The same, with 64 rows of another tile in the input of the next station. -/
def inputFull : State :=
  let y := { tile (at_ 7) with id := { q := 2, rnd := 0, idx := 0 }, fifo := true, rows := List.replicate 64 [] }
  { at_ 7 with run := { (at_ 7).run with tiles := (at_ 7).run.tiles ++ [y] } }

theorem wit_BanksAndDrains_full : Tidy inputFull ∧
    (slotsWith inputFull 0 0 fun z => z.draining && z.started).head? = some (0, getSlot inputFull 0 0 0) ∧
    (getSlot inputFull 0 0 0).tile.bind (findTile inputFull) = some (tile inputFull) ∧ (goOn inputFull 0 (tile inputFull)).isNone = true := by
  unfold Tidy; decide +kernel

/-- What the Runner fetches next for the MATMUL tile, and the bank with it. -/
def pieces (s : State) (part : Part) : List Piece := (nextFetch s (tile s) part).getD []
def room (s : State) (part : Part) : Option Arr := roomFor s (tile s) (getArr s 0 0) (pieces s part)

/-- A MATMUL in BF16 with REPLAY whose last pass is ahead, with a saturated sum. -/
def atReplay : State :=
  let d := d16 ([(0, w0 1 (fOpen + fClose + fLast + 2 ^ 13 + 2 ^ 20)), (1, 0x4010), (3, 0x1000), (5, 1), (6, 2 ^ 20 + 0x200 + 2),
    (7, 2 ^ 20)] ++ slotAt 0 0x140 0x150 ++ slotAt 1 0x100 0x110 ++ slotAt 2 0x180 0)
  let s := go (busy [d]) (life.take 4)
  setTile s { tile s with sat := true }

theorem wit_SlabsAndPasses : Tidy (at_ 1) ∧ Undamaged (at_ 1) ∧ findTile (at_ 1) tid = some (tile (at_ 1)) ∧
    mayFetch (at_ 1) (tile (at_ 1)) .wt = true ∧ unitReset (at_ 1) 0 0x22 = false ∧
    nextFetch (at_ 1) (tile (at_ 1)) .wt = some (pieces (at_ 1) .wt) ∧ (room (at_ 1) .wt).isSome = true ∧
    nextFetch (at_ 1) (tile (at_ 1)) .act = some (pieces (at_ 1) .act) ∧ (room (at_ 1) .act).isSome = true := by
  unfold Tidy Undamaged; decide +kernel

theorem wit_SlabsAndPasses_pass : ∀ s ∈ [at_ 4, atReplay], Tidy s ∧ Undamaged s ∧
    (getArr s 0 0).tile.bind (findTile s) = some (tile s) ∧ (tile s).w = 0 ∧ (tile s).a = 0 ∧ (getArr s 0 0).fault = none ∧
    unitReset s 0 1 = false ∧ creditHeld s 0 1 = false ∧ passReady s (tile s) = true := by
  unfold Tidy Undamaged; decide +kernel

theorem wit_SlabsAndPasses_replay : replayable (tile (at_ 4)).d = false ∧ replayable (tile atReplay).d = true ∧
    (tile atReplay).sat = true ∧ (tile atReplay).passDone + 1 = (seqOf (tile atReplay)).length := by
  decide +kernel

/-- A MATMUL with a preload, which is in operand C. -/
def preloaded : State :=
  go (busy [d16 ([(0, w0 1 (fOpen + fClose + fLast + 2 ^ 8)), (1, 0x4010), (3, 0x1000), (5, 1), (6, 2 ^ 20 + 0x100 + 2), (7, 2 ^ 20),
    (15, 2 ^ 20 + 0x180)] ++ slotAt 0 0x140 0x150 ++ slotAt 1 0x100 0x110 ++ slotAt 2 0x180 0)]) [.matmul 0 0]

/-- The same tile with its rows in the bank, held by its array. -/
def preloadHeld : State :=
  go preloaded [.slabArrive tid .wt true [], .slabArrive tid .act true [], .stationTakeUp arr0 []]

theorem wit_SlabsAndPasses_aux : (∀ s ∈ [preloaded, preloadHeld], Tidy s ∧ Undamaged s ∧ findTile s tid = some (tile s) ∧
      mayFetch s (tile s) .aux = true ∧ nextFetch s (tile s) .aux = some (pieces s .aux) ∧ (room s .aux).isSome = true) ∧
    tileHeld (tile preloadHeld) = true ∧ (pieces preloadHeld .aux).length = 1 ∧
    passBuf (getArr preloadHeld 0 0) tid .aux 0 0 = none ∧ (getGroup preloadHeld 0 0).live = true := by
  unfold Tidy Undamaged; decide +kernel

/-- A state whose tile is taken up and has its first slab. -/
def slabbed (s : State) (c : Instr) : State := go s [c, .slabArrive tid .act true []]

/-- Row tiles that their first station takes up next: MAP, ROWSTAT, COPY; the drained MATMUL tile at Returns. -/
def taking : List (StRef × State) :=
  [(arr0, at_ 3), (gls0, slabbed (busy [dRow 4 0x10 0x4020]) (.map 0 0)), (led0, slabbed (busy [dRow 5 0x02 0x4030]) (.rowstat 0 0)),
   (ret0, slabbed (busy [dRow 6 0 0x40]) (.copy 0 0)), (ret0, at_ 7)]

theorem wit_StationsTakeUp : ∀ x ∈ taking, Tidy x.2 ∧ Undamaged x.2 ∧ x.1.kind ≠ .loan ∧
    unitReset x.2 x.1.wing (stationCode x.1) = false ∧ bestAt x.2 x.1 = some (tile x.2) ∧
    delayOver x.2 x.1 (tile x.2) = true := by
  unfold Tidy Undamaged; decide +kernel

/-- Loan tiles at their station: each operation of the family, node 1 behind port 0. -/
def peer (s : State) : State :=
  { s with fab := { s.fab with routes := [(0, 0x8000FFFF), (1, 0x8000FFF0)], ports := [(0, { Port.reset with state := 2, width := 3 })] } }
def loans : List State :=
  [slabbed (peer (busy [dLoan 8 0x5450])) (.send 0 0), slabbed (peer (busy [dLoan 9 0x50])) (.recv 0 0),
   slabbed (peer (busy [dLoan 0xA 0x5450])) (.put 0 0), slabbed (peer (busy [dLoan 0xB 0x5450])) (.get 0 0),
   slabbed (peer (busy [dSignal])) (.signal 0 0), slabbed (peer (busy [dColl 0xD])) (.allreduce 0 0),
   slabbed (peer (busy [dColl 0xE])) (.allgather 0 0)]

theorem wit_StationsTakeUp_loan : ∀ s ∈ loans, Tidy s ∧ unitReset s 0 (stationCode loan0) = false ∧ bestAt s loan0 = some (tile s) ∧
    delayOver s loan0 (tile s) = true := by
  unfold Tidy; decide +kernel

/-- A MAP tile held at the Glossary, with a user table of zeros at 0x8000 that is not in the cache. -/
def userTable : State :=
  let s := busy [dRow 4 0xC0 0x4020]
  let s := modQ s 1 fun x => { x with rounds := x.rounds.map fun r =>
    { r with attrs := { Attrs.reset with tables := [(5, 0x200), (0, 0), (0, 0), (0, 0)] } } }
  go s [.map 0 0, .slabArrive tid .act true [], .stationTakeUp gls0 []]

theorem wit_StationsTakeUp_table : Tidy userTable ∧ Undamaged userTable ∧
    (getGlo userTable 0 0).tile.bind (findTile userTable) = some (tile userTable) ∧
    tileTable userTable (tile userTable) = some (5, 0x8000) ∧ (tile userTable).tableReady = false ∧
    (getGlo userTable 0 0).heldBySoftmax = false ∧ tblOk (wordsOf ((tableMem userTable (5, 0x8000)).take 64)) = true := by
  unfold Tidy Undamaged; decide +kernel

/-- Row tiles held at their first station with their slab in the bank. -/
def rowHeld : List (StRef × State) :=
  [(gls0, go (busy [dRow 4 0x10 0x4020]) [.map 0 0, .slabArrive tid .act true [], .stationTakeUp gls0 []]),
   (led0, go (busy [dRow 5 0x02 0x4030]) [.rowstat 0 0, .slabArrive tid .act true [], .stationTakeUp led0 []]),
   (ret0, go (busy [dRow 6 0 0x40]) [.copy 0 0, .slabArrive tid .act true [], .stationTakeUp ret0 []])]

theorem wit_StationsFinish_credit : ∀ x ∈ rowHeld, Tidy x.2 ∧ Undamaged x.2 ∧ x.1.kind ≠ .loan ∧ x.1.kind ≠ .array ∧
    (unitTile x.2 x.1).bind (findTile x.2) = some (tile x.2) ∧ slabWaits (tile x.2) = true ∧ opRow (dOp (tile x.2).d) = true ∧
    stOf (tile x.2) = some x.1 ∧
    (x.1.kind = .glossary → (tile x.2).tableReady = true) ∧ creditHeld x.2 x.1.wing (stationCode x.1) = false ∧
    (slabAt x.2 (tile x.2) x.1.wing []).isSome = true := by
  unfold Tidy Undamaged; decide +kernel

/-- The MATMUL without CLOSE, its pass run. -/
def openEnd : State := go (busy [dMatmul (fOpen + fLast)]) (life.take 5)

theorem wit_StationsFinish : (∀ s ∈ [at_ 5, openEnd], Tidy s ∧ finishing s arr0 = some (tile s) ∧ dOp (tile s).d = 1 ∧
      (tile s).w = 0 ∧ (tile s).a = 0) ∧ dClose (tile (at_ 5)).d = true ∧ dClose (tile openEnd).d = false ∧
    (∀ x ∈ rowHeld.take 2, Tidy (go x.2 [.creditReturn x.1 []]) ∧
      finishing (go x.2 [.creditReturn x.1 []]) x.1 = some (tile (go x.2 [.creditReturn x.1 []])) ∧
      (tile (go x.2 [.creditReturn x.1 []])).hop + 1 < (dLocal (tile (go x.2 [.creditReturn x.1 []])).d).length) ∧
    (∀ x ∈ rowHeld.take 2, let s := go x.2 [.creditReturn x.1 []]
      (goOn s 0 { tile s with phase := .between, hop := (tile s).hop + 1 }).isSome = true) ∧
    finishing (at_ 8) ret0 = some (tile (at_ 8)) ∧ moveOf (at_ 8) (dFolio (tile (at_ 8)).d 2) = none ∧ (tile (at_ 8)).hop + 1 = (dLocal (tile (at_ 8)).d).length := by
  unfold Tidy; decide +kernel

/-- The ACC_READ tile held by its array. -/
def accHeld : State := go (busyOpen [dAccRead]) [.accRead 0 0, .stationTakeUp arr0 []]

theorem wit_StationsFinish_accRead : Tidy accHeld ∧ finishing accHeld arr0 = some (tile accHeld) ∧ dOp (tile accHeld).d = 2 ∧
    (tile accHeld).w = 0 ∧ (tile accHeld).a = 0 ∧ Undamaged (at_ 8) ∧
    (goOn accHeld 0 { tile accHeld with phase := .between, hop := 1 }).isSome = true := by
  unfold Tidy Undamaged; decide +kernel

/-- A first tile that is not the last of its round, finished; a tile that its Runner rejected. -/
def firstDone : State := go (busy [dMatmul (fOpen + fClose), dMatmul (fOpen + fClose + fLast)]) (life.take 10)
def rejected : State := go (wrongClass (busy [dRow 6 0 0x40])) [.copy 0 0]

theorem wit_TilesComplete : ∀ s ∈ [firstDone, at_ 10, rejected], Tidy s ∧ (getQ s 1).state ≠ 4 ∧
    completing s 1 = some ((getQ s 1).rounds.headD (round1 0), tile s) ∧ (getQ s 1).rounds = [(getQ s 1).rounds.headD (round1 0)] := by
  unfold Tidy; decide +kernel

theorem wit_TilesComplete_kinds : ((tile firstDone).status = 0 ∧ dLast (tile firstDone).d = false ∧ (0 : Nat) + 1 ≠ 2) ∧
    ((tile (at_ 10)).status = 0 ∧ dLast (tile (at_ 10)).d = true) ∧ (tile rejected).status ≠ 0 := by
  decide +kernel

/-- Queue 1's round has used 5 cycles of a budget of 1, in class 3 or in class 0. -/
def spent (cls : BitVec 2) : State :=
  withQ 1 { queue1 with cls := cls, rounds := [{ round1 1 with cls := cls, budget := 1, charge := 5000 }] } up

theorem wit_RoundsMeetEvents_budget : Tidy (spent 3) ∧ Tidy (spent 0) ∧
    findRound (spent 3) 1 0 = some { round1 1 with budget := 1, charge := 5000 } ∧
    (1 : Nat) < wholeCycles (roundCharge (spent 3) { round1 1 with budget := 1, charge := 5000 }) ∧
    findRound (spent 0) 1 0 = some { round1 1 with cls := 0, budget := 1, charge := 5000 } ∧
    (1 : Nat) < wholeCycles (roundCharge (spent 0) { round1 1 with cls := 0, budget := 1, charge := 5000 }) := by
  unfold Tidy; decide +kernel

/-- A RECV tile held at the Loan station for 2 µs under a QTIMEOUT of 1 µs. -/
def waiting : State :=
  let s := modQ (go (peer (busy [dLoan 9 0x50])) [.recv 0 0, .stationTakeUp loan0 []]) 1 fun x => { x with qtimeoutUs := 1 }
  { s with clk := { s.clk with now := 2000 } }

theorem wit_RoundsMeetEvents_input : Tidy waiting ∧ findTile waiting tid = some (tile waiting) ∧ inWait (tile waiting) = true ∧
    (tile waiting).waitFrom = some 0 ∧ (getQ waiting 1).qtimeoutUs ≠ 0 ∧
    1000 * (getQ waiting 1).qtimeoutUs ≤ (waiting.clk.now - 0).toNat := by
  unfold Tidy; decide +kernel

/-- The array of the MATMUL tile has been found failed by its check, and the round stops. -/
def faulted : State := go (at_ 4) [.passStart 0 0 (some .residue) []]

theorem wit_RoundsMeetEvents_fault : Tidy faulted ∧ (getArr faulted 0 0).fault ≠ none ∧
    (∀ y ∈ faultStops faulted, roundHeld faulted y.1 y.2.num = false) ∧ (∃ y ∈ faultStops faulted, y.2.reexecuted = false) := by
  unfold Tidy; decide +kernel

/-- A read through a window waits for the fill of a Wing, and later accesses of BAR0 behind it. -/
def behind : State := { up with inv := { up.inv with waits := [.read 0 0 8 []] } }

/-- Function 2 decodes no BAR; the part before READY. -/
def closedBar : State := { up with pcie := { up.pcie with fns := [(0, fnOn), (1, fnOn), (2, { fnOn with memSpace := false })] } }
def early : State := { up with desk := { up.desk with ready := false } }

theorem wit_held : Tidy behind ∧ barHeld behind = true ∧ barHeld up = false ∧ barOpen behind 0 = true ∧ wingReach behind 0 = true ∧
    windowAt behind 0x2000008 = some (0, 8) ∧ windowAt behind 0x20000 = none ∧ bits 23 22 (0x5A400000#32).toNat = 1 ∧
    bits 23 22 (0x5A800000#32).toNat = 2 ∧ bits 23 22 (0x5AC00000#32).toNat = 3 := by
  unfold Tidy; decide +kernel

theorem wit_closedBar : Tidy closedBar ∧ closedBar.pcie.linkUp = true ∧ fnPresent closedBar 2 = true ∧
    (getPcie closedBar 2).memSpace = false ∧ Tidy early ∧ barOpen early 0 = true ∧ early.desk.ready = false ∧ barHeld early = false := by
  unfold Tidy; decide +kernel

/-- A transfer of the accumulator window of Wing 0 has begun for the open group 0. -/
def inTransfer (wr : Bool) : State :=
  let s := busyOpen []
  { s with wings := s.wings.map fun x => if x.1 = 0 then (0, { x.2 with accRun := some (wr, 0, 0) }) else x }

/-- Transfers for an array of another Wing, for a group that drains, for one that is closed, and for one in a saturation replay. -/
def transferOf (l : Nat) (s : State) : State :=
  { s with wings := s.wings.map fun x => if x.1 = 0 then (0, { x.2 with accRun := some (false, l, 0) }) else x }
def awayTransfer : State := transferOf 32 up
def drainTransfer : State := transferOf 0 (at_ 6)
def closedTransfer : State := transferOf 0 up
def replayTransfer : State := transferOf 0 (go atReplay [.passStart 0 0 none []])
def transfers : List (Nat × State) := [(32, awayTransfer), (0, drainTransfer), (0, closedTransfer), (0, replayTransfer)]

theorem wit_AccumulatorWindow : Tidy up ∧ bit 31 (0xC0000000#32).toNat = true ∧ bit 30 (0xC0000000#32).toNat = true ∧
    bit 31 (0x80000000#32).toNat = true ∧ bit 30 (0x80000000#32).toNat = false ∧ (getWing up 0).accRun = none ∧ barOpen up 0 = true ∧ wingReach up 0 = true ∧
    (∀ wr, Tidy (inTransfer wr) ∧ (getWing (inTransfer wr) 0).accRun = some (wr, 0, 0) ∧ physOf (inTransfer wr) 0 = some (0, 0) ∧
      Undamaged (inTransfer wr) ∧ Machine.replaying (inTransfer wr) 0 0 0 0 = false ∧ (getGroup (inTransfer wr) 0 0).live = true) ∧
    (∀ x ∈ transfers, Tidy x.2 ∧ Undamaged x.2 ∧ (getWing x.2 0).accRun = some (false, x.1, 0)) ∧
    physOf awayTransfer 32 = some (1, 0) ∧ physOf drainTransfer 0 = some (0, 0) ∧ Machine.replaying drainTransfer 0 0 0 0 = false ∧
    (getGroup drainTransfer 0 0).live = false ∧ (drainingSlot drainTransfer 0 0 0 0).isSome = true ∧
    drainingSlot closedTransfer 0 0 0 0 = none ∧ (getGroup closedTransfer 0 0).live = false ∧
    Machine.replaying replayTransfer 0 0 0 0 = true := by
  unfold Tidy Undamaged; decide +kernel

/-! ### Ticks and time -/

/-- The tick of a source, its last boundary at 0, and the time. -/
def tickAt (source : BitVec 2) (now : Nat) (subst : Bool) : State :=
  { up with clk := { up.clk with now := BitVec.ofNat 64 now }, tick := { up.tick with source := source, subst := subst } }

/-- A TICK_IN edge whose boundary perturbation delays by 1 µs. -/
def edgeWaits : State :=
  { tickAt 1 1001000 false with tick := { (tickAt 1 0 false).tick with jitter := 1000, edge := some 1000000 } }
/-- A FABRIC tick on a manager and on a node that runs alone, which have not set their clock from a parent. -/
def managerTick : State := { tickAt 2 1000000 false with fab := { up.fab with joined := false, manager := true } }
def aloneTick : State := { tickAt 2 1000000 false with fab := { up.fab with joined := false, alone := true } }

theorem wit_TickBoundaries : (∀ x ∈ [tickAt 0 1000000 false, tickAt 2 1000000 false, managerTick, aloneTick, tickAt 1 900000 false,
      tickAt 1 1250001 false, tickAt 1 1000001 true, edgeWaits], Tidy x ∧ tickRuns x = true ∧ x.tick.pend = none) ∧
    (∀ x ∈ [tickAt 1 900000 false, tickAt 1 1250001 false, tickAt 1 1000001 true], x.tick.edge = none ∧ x.tick.jitter = 0) ∧
    (tickAt 2 1000000 false).fab.joined = true ∧ tickDue managerTick 0 = true ∧ tickDue aloneTick 0 = true ∧
    edgeWaits.tick.edge = some 1000000 ∧ tickDue edgeWaits 0 = true ∧
    tickDue (tickAt 0 1000000 false) 0 = true ∧ tickDue (tickAt 2 1000000 false) 0 = true ∧
    9 * periodNs (tickAt 1 900000 false) ≤ 10 * sinceTick (tickAt 1 900000 false) ∧
    5 * periodNs (tickAt 1 1250001 false) / 4 + 0 < sinceTick (tickAt 1 1250001 false) ∧
    periodNs (tickAt 1 1000001 true) + 0 < sinceTick (tickAt 1 1000001 true) := by
  unfold Tidy; decide +kernel

theorem wit_TickPinsAndTime : (∀ x ∈ [tickAt 1 899999 false, tickAt 0 998000 false, tickAt 1 0 false, tickAt 0 999000 false,
      tickAt 1 900000 false], Tidy x ∧ tickRuns x = true ∧ x.tick.closed = false ∧ x.tick.tickOut = true ∧ x.pending = [] ∧ x.clk.slew = 0 ∧
        x.rst.pinsReleased = true ∧ x.desk.lateRecs = [] ∧ x.tick.edge = none) ∧
    tickRuns edgeWaits = true ∧ edgeWaits.tick.source = 1 ∧ edgeWaits.tick.edge ≠ none ∧
    10 * sinceTick (tickAt 1 899999 false) < 9 * periodNs (tickAt 1 899999 false) ∧ tickDue (tickAt 0 998000 false) 2000 = true ∧
    tickDue (tickAt 0 999000 false) 1000 = true ∧ 9 * periodNs (tickAt 1 900000 false) ≤ 10 * ((tickAt 1 900000 false).clk.now - (tickAt 1 900000 false).tick.made).toNat := by
  unfold Tidy; decide +kernel

/-! ### Rings and host memory -/

/-- Queue 1 is ACTIVE with a poll in progress, and a host read of tag 7 is out. -/
def reading (len : Nat) (why : RdWhy) : State :=
  let s := withQ 1 { queue1 with polling := true } up
  { s with desk := { s.desk with rdTag := 8, reads := [{ tag := 7, f := 0, addr := 0x100, len := len, why := why, sent := true }] } }

/-- A ring entry of class 3 with one descriptor in folio 5. -/
def entryBytes : List Byte :=
  (d16 [(0, 2 ^ 24 + 3 * 2 ^ 22), (1, 9), (2, 100), (3, 1), (4, 5), (6, 1)]).flatMap fun w => bytesOf 4 w.toNat

theorem wit_RingPolls : Tidy (withQ 1 queue1 up) ∧ (getQ (withQ 1 queue1 up) 1).polling = false ∧ up.desk.ready = true ∧
    up.pwr.state ≠ .off ∧ hostBlocked up 0 = false ∧
    (reading 8 (.producer 1)).desk.reads.find? (fun r => r.tag == 7 && r.sent) = some { tag := 7, f := 0, addr := 0x100, len := 8, why := .producer 1, sent := true } ∧
    (bytesOf 8 17).length = 8 ∧ (getQ (reading 8 (.producer 1)) 1).state = 1 ∧
    2 ^ (getQ (reading 8 (.producer 1)) 1).ringLog2.toNat < ((17 : W32) - (getQ (reading 8 (.producer 1)) 1).consumed).toNat ∧
    ((16 : W32) - (getQ (reading 8 (.producer 1)) 1).consumed).toNat ≤ 2 ^ (getQ (reading 8 (.producer 1)) 1).ringLog2.toNat ∧
    (getQ (reading 8 (.producer 1)) 1).consumed ≠ 16 ∧ (getQ (reading 8 (.producer 1)) 1).rounds.length < 64 := by
  unfold Tidy; decide +kernel

theorem wit_RingPolls_entry : Tidy (reading 64 (.entry 1 0)) ∧
    (reading 64 (.entry 1 0)).desk.reads.find? (fun r => r.tag == 7 && r.sent) = some { tag := 7, f := 0, addr := 0x100, len := 64, why := .entry 1 0, sent := true } ∧
    entryBytes.length = 64 ∧ (getQ (reading 64 (.entry 1 0)) 1).state = 1 ∧ (getQ (reading 64 (.entry 1 0)) 1).consumed = 0 ∧
    (entryStatus (reading 64 (.entry 1 0)) 1 (wordsOf (padTo 0 64 entryBytes))).1 = 0 := by
  unfold Tidy; decide +kernel

/-- A mailbox command of function 0 that waits for its host read of tag 7. -/
def cmdReading (op : Nat) (ps : List Nat) (len : Nat) (why : RdWhy) (s : State) : State :=
  let s := ask 0 op ps s
  let s := setMb s 0 0 { getMb s 0 0 with taken := true }
  { s with desk := { s.desk with cmds := [{ f := 0, k := 0, why := .hostRead }], rdTag := 8,
                                 reads := [{ tag := 7, f := 0, addr := 0x100, len := len, why := why, sent := true }] } }
def creating : State := cmdReading 0x10 create 4 (.createFlush 0 0) up
def filling : State := cmdReading 0x35 [5, 64, 0x100, 0, 64] 64 (.folioWrite 0 0 0) up

/-- A destroyed queue 1 whose QUEUE_DESTROY waits in mailbox 0 of function 0; its QTIMEOUT of 0 gives 100 ms. -/
def destroying (now : Nat) : State :=
  let s := ask 0 0x11 [1] (withQ 1 { queue1 with state := 4, destroyAt := 0 } up)
  let s := setMb s 0 0 { getMb s 0 0 with taken := true }
  { s with clk := { s.clk with now := BitVec.ofNat 64 now }, desk := { s.desk with cmds := [{ f := 0, k := 0, why := .destroy 1 }] } }

theorem wit_HostReadsAndDestroys : (∀ s ∈ [up, creating, filling, reading 4 (.flush 1 CRec.reset), destroying 100000000], Tidy s) ∧
    up.desk.reads.find? (fun r => r.tag == 7 && r.sent) = none ∧
    creating.desk.reads.find? (fun r => r.tag == 7 && r.sent) = some { tag := 7, f := 0, addr := 0x100, len := 4, why := .createFlush 0 0, sent := true } ∧
    filling.desk.reads.find? (fun r => r.tag == 7 && r.sent) = some { tag := 7, f := 0, addr := 0x100, len := 64, why := .folioWrite 0 0 0, sent := true } ∧
    Undamaged filling ∧ moveOf filling (reqWord filling 0 0 0) = none ∧
    (reading 4 (.flush 1 CRec.reset)).desk.reads.find? (fun r => r.tag == 7 && r.sent) =
      some { tag := 7, f := 0, addr := 0x100, len := 4, why := .flush 1 CRec.reset, sent := true } ∧
    (getQ (reading 4 (.flush 1 CRec.reset)) 1).state = 1 ∧ (getQ (destroying 0) 1).state = 4 ∧ queueHeld (destroying 0) 1 = false ∧
    100000000 ≤ ((destroying 100000000).clk.now - (getQ (destroying 100000000) 1).destroyAt).toNat := by
  unfold Tidy Undamaged; decide +kernel

/-! ### Windows, moves, Inventory, scrub and log -/

/-- A word of Wing 0's first bank is damaged beyond correction. -/
def hurt (a : Nat) : State := { up with ecc := { ue := [a], ce := [] } }

theorem wit_WindowAccesses : Tidy up ∧ Undamaged up ∧ barOpen up 0 = true ∧ windowAt up 0x2000008 = some (0, 8) ∧
    windowAt up 0x2800008 = some (1, 8) ∧ windowAt up 0x3000008 = some (2, 8) ∧ wordsTouched 8 8 = [8] ∧
    (∀ v, v < 3 → windowLive up v 8 = true) ∧ portAValue [] 8 = none ∧ (hurt 0x40000000008).ecc.ue = [sramAddr 8] ∧
    windowAt (hurt 0x40000000008) 0x2000008 = some (0, 8) ∧
    (∀ v, v < 3 → windowLive up v 0x1000000 = true) ∧ portAValue [(0x1000000, 9)] 0x1000000 = some 9 ∧ up.inv.waits = [] ∧
    viewWaits up 8 8 = false ∧ viewWaits up 0x1000000 8 = false := by
  unfold Tidy Undamaged; decide +kernel

/-- The window shows the Wing store of Wing 0, whose port A writes in the same cycle. -/
def storeWin : State := { up with inv := { up.inv with winBase := 16 } }

theorem wit_WindowAccesses_portA : Tidy storeWin ∧ Undamaged storeWin ∧ barOpen storeWin 0 = true ∧
    windowAt storeWin 0x2800000 = some (1, 0x1000000) ∧ wordsTouched 0x1000000 8 = [0x1000000] ∧
    windowLive storeWin 1 0x1000000 = true := by
  unfold Tidy Undamaged; decide +kernel

/-- Wing 0 is not yet powered in a bring-up: its fill is still to come. -/
def filling0 : State := { up with wings := [] }

theorem wit_WindowAccesses_wait : Tidy filling0 ∧ barOpen filling0 0 = true ∧ windowAt filling0 0x2000008 = some (0, 8) ∧
    viewWaits filling0 8 8 = true := by
  unfold Tidy; decide +kernel

/-- Folio 5 moves to the Depository, n chunks of 16 done, for a pin of mailbox 0 of function 0. -/
def moving (n : Nat) : State :=
  let m : Move := { folio := 5, toTier := true, next := n, pin := true }
  let s := ask 0 0x32 [5, 1] up
  { s with tier := { s.tier with folios := [(5, { folio0 with state := 1, dest := 0x1000000 })], cur := { s.tier.cur with moves := [m] } }
           desk := { s.desk with cmds := [{ f := 0, k := 0, why := .folioPin 5 }] } }
def movingHurt : State := { moving 15 with ecc := { ue := [0x10FFE0], ce := [] } }

theorem wit_FolioMoves : Tidy (moving 15) ∧ Tidy (moving 16) ∧ Tidy movingHurt ∧ Undamaged (moving 15) ∧
    moveOf (moving 15) 5 = some { folio := 5, toTier := true, next := 15, pin := true } ∧
    moveOf movingHurt 5 = some { folio := 5, toTier := true, next := 15, pin := true } ∧
    moveOf (moving 16) 5 = some { folio := 5, toTier := true, next := 16, pin := true } ∧
    4096 * 15 < folioSize (getFolio (moving 15) 5) ∧ folioSize (getFolio (moving 16) 5) ≤ 4096 * 16 ∧
    ueIn movingHurt (folioBase (getFolio movingHurt 5) + 4096 * 15) 4096 ≠ [] ∧
    pinWaits (moving 16) 5 = [{ f := 0, k := 0, why := .folioPin 5 }] ∧
    pinWaits movingHurt 5 = [{ f := 0, k := 0, why := .folioPin 5 }] ∧ memUp (moving 15) = true ∧ memUp movingHurt = true := by
  unfold Tidy Undamaged; decide +kernel

/-- The Inventory runs. -/
def walking : State := { up with inv := { up.inv with enabled := true } }

theorem wit_InventoryRegions : Tidy walking ∧ Undamaged walking ∧ (∀ e, e < 33 → engineRuns walking e = true) ∧
    (List.range 8).find? (fun j => !(walking.inv.repairs.any fun x => sameSpare x.toNat (repairRow 32 37 0 0 + fld 21 j))) = some 0 := by
  unfold Tidy Undamaged; decide +kernel

theorem wit_ArraysTested : Tidy walking ∧ engineRuns walking 31 = true ∧ (getArr walking 31 31).tile = none ∧
    (getArr walking 31 31).aside = none ∧ (getArr walking 31 31).fault = none ∧ (getWing walking 31).retired = false ∧
    spareTaken walking 31 31 = false ∧
    servedBy walking 31 31 = some 31 ∧ ∀ x ∈ walking.run.tiles, ¬ (x.phase = .ahead ∧ x.w = 31 ∧ x.a = 31) := by
  unfold Tidy; decide +kernel

/-- One record waits to be logged and one to be copied to flash; word 0 of the Stacks has a single-bit error. -/
def logging : State :=
  { up with
    ecc := { ue := [], ce := [0] }
    inv := { up.inv with unlogged := [5] }
    rel := { up.rel with logQ := [(3, [{ stamp := 1, cls := 0, unit := 3, event := 2, seq := 0, data := [7] }])] } }

theorem wit_ScrubsAndLogs : Tidy up ∧ up.rst.trained = true ∧ (∀ d, scrubNext up d < (tierWords up d).2) ∧
    memUp logging = true ∧ scrubNext logging false = 0 ∧ 1 ≠ scrubNext up false ∧ ceIn up 0 32 = [] ∧ ueIn up 0 32 = [] ∧
    Tidy logging ∧ logging.rst.trained = true ∧ logging.ecc.ue = [] ∧ logging.ecc.ce = [0] ∧ logging.inv.unlogged = 5 :: [] ∧
    freeRecord 0xFF (2 ^ 64 - 1) logging.flash 0xA000 1024 = some 0xA000 ∧
    tabGet [] logging.rel.logQ 3 = { stamp := 1, cls := 0, unit := 3, event := 2, seq := 0, data := [7] } :: [] ∧
    flashOpen logging = true ∧ partBad logging (logBase + 32 * (logging.rel.logHead.toNat % 2 ^ 21)) 32 = [] := by
  unfold Tidy; decide +kernel

/-- The same record waits in Drowse, and with the flash outputs disabled. -/
def logDark : State := { logging with pwr := { logging.pwr with state := .drowse } }
def flashShut : State := { logging with rst := { logging.rst with pinsReleased := false } }

theorem wit_ScrubsAndLogs_shut : Tidy logDark ∧ memUp logDark = false ∧ Tidy flashShut ∧ flashOpen flashShut = false ∧
    flashShut.inv.unlogged = [5] := by
  unfold Tidy; decide +kernel

/-! ### Registers -/

theorem wit_VirtualFunctionsSeeTheirOwn : Tidy up ∧ barOpen up 1 = true ∧ offsetFn 0x1000 = some 1 ∧ offsetFn 0x1FFF = some 1 ∧
    offsetFn 0x101FFF = some 1 ∧ offsetFn 0x0FFF ≠ some 1 ∧ offsetFn 0x20000 ≠ some 1 := by
  unfold Tidy; decide +kernel

theorem wit_RegisterReads : Tidy up ∧ barOpen up 0 = true ∧ barOpen up 1 = true ∧ (∀ w, w < 32 → wingReach up w = true) := by
  unfold Tidy; decide +kernel

/-- Mailbox 0 of function 0 is IDLE in `up`; mailbox 0 is BUSY here. -/
theorem wit_RegisterWrites : Tidy up ∧ barOpen up 2 = true ∧ (getMb up 2 7).state ≠ 1 ∧ up.desk.ready = true ∧
    (getMb (ask 2 1 [] up) 2 0).state = 1 ∧ pertPermitted up = true ∧ bits 31 24 (0xA500001E#32).toNat = 0xA5 ∧
    bits 31 24 (0xA400001E#32).toNat ≠ 0xA5 ∧ bit 31 (0x80000000#32).toNat = true ∧
    pertPermitted { up with sec := { up.sec with state := 1 } } = false := by
  unfold Tidy; decide +kernel

/-! ### Reset and bring-up -/

/-- A control core is halted, which keeps the part from powering down. -/
def coreHalted : State := { up with sec := { up.sec with halted := 1 } }

theorem wit_EpisodesBegin : Tidy up ∧ up.rst.episode = none ∧ up.rst.bringup = none ∧ up.rst.l3Wings = [] ∧ barOpen up 0 = true ∧
    (∀ v ∈ [(0x5A400000#32, 1), (0x5A80002C#32, 2)], bits 31 24 v.1.toNat = 0x5A ∧ bits 6 0 v.1.toNat ≤ 0x2C ∧ bits 23 22 v.1.toNat = v.2) ∧
    (∀ r ∈ rails, railWatched up r = true ∧ 449 < (railLevels up.pwr r).1) ∧ isOff up = false ∧
    (∀ d ∈ [ClkDom.sys, .aclk, .mem], coreWatched up d = true) ∧ dogArmed up = true ∧
    dogArmed coreHalted = false ∧ coreHalted.mgt.serving = true ∧ isOff coreHalted = false := by
  unfold Tidy; decide +kernel

theorem wit_LocalResets : Tidy (at_ 5) ∧ (at_ 5).rst.episode = none ∧ (at_ 5).rst.bringup = none ∧ barOpen (at_ 5) 0 = true ∧
    bits 31 24 (0x5AC00001#32).toNat = 0x5A ∧ bits 23 22 (0x5AC00001#32).toNat = 3 ∧ bits 6 0 (0x5AC00001#32).toNat ≤ 0x2C ∧
    bits 6 0 (0x5AC0002C#32).toNat ≤ 0x2C ∧ (getQ (at_ 5) 1).rounds.map (·.result) = [none] ∧
    ∃ x ∈ (at_ 5).run.tiles, x.id.q = 1 ∧ x.id.rnd = 0 ∧ onTarget (at_ 5) 0 1 x = true := by
  unfold Tidy; decide +kernel

/-- An episode of a level with these sources asserted, not yet in its stretch; in its stretch; after it. -/
def episode (lv : BitVec 2) (a : Sources) (stretching driving : Bool) : Episode :=
  { level := lv, joined := { Sources.none with clk := true }, asserted := a, targets := if lv = 3 then [(1, 0)] else [],
    stretching := stretching, driving := driving, clkDomain := 0, waitHigh := false }
def inEpisode (e : Episode) : State := { up with rst := { up.rst with episode := some e } }
/-- An episode whose sample found nRST low: the device drives nRST again when it goes high. -/
def waitsHigh : Episode := { episode 1 { Sources.none with pin := true } false false with waitHigh := true }

theorem wit_SourcesRelease_waits : Tidy (inEpisode waitsHigh) ∧ (inEpisode waitsHigh).rst.episode = some waitsHigh ∧
    { waitsHigh.asserted with pin := false } ≠ waitsHigh.asserted ∧ waitsHigh.waitHigh = true ∧ otherThanPin waitsHigh.joined = true := by
  unfold Tidy; decide +kernel

/-- All sources that can release are asserted. -/
def held4 : Sources := { Sources.none with por := true, bor := true, pin := true, clk := true }

theorem wit_SourcesRelease : Tidy (inEpisode (episode 1 held4 false true)) ∧
    (inEpisode (episode 1 held4 false true)).rst.episode = some (episode 1 held4 false true) ∧
    { held4 with por := false } ≠ held4 ∧ { held4 with bor := false } ≠ held4 ∧ { held4 with pin := false } ≠ held4 ∧
    { held4 with clk := false } ≠ held4 ∧
    (∀ x ∈ rails.zipIdx, railWatched (inEpisode (episode 1 held4 false true)) x.1 = true →
      (railLevels up.pwr x.1).2 ≤ [900, 900, 800, 900, 1100, 500, 1800].getD x.2 0) ∧
    (∀ s ∈ [up, inEpisode (episode 3 Sources.none true false)], Tidy s ∧ isOff s = false ∧ s.rst.pinsReleased = true ∧ linksFree s = true) ∧
    up.rst.pcieHeld = false ∧ up.rst.serdesHeld = false := by
  unfold Tidy; decide +kernel

theorem wit_EpisodesEnd : (∀ e ∈ [episode 3 Sources.none true false, episode 1 Sources.none true false, episode 0 Sources.none true true,
      episode 2 Sources.none true true, episode 0 Sources.none false false, episode 1 Sources.none false false],
    Tidy (inEpisode e) ∧ (inEpisode e).rst.episode = some e ∧ (inEpisode e).pwr.hot = false ∧ e.asserted = Sources.none) := by
  unfold Tidy; decide +kernel

/-- A bring-up of a level that has completed a number of steps. -/
def rising (lv : BitVec 2) (step : BitVec 4) : State :=
  { State.reset with
    rst := { Rst.reset with bringup := some lv, step := step, pinsReleased := decide (2 < step.toNat), qSys := true }
    sec := { Sec.reset with keys := true, rpb := some { state := 0, ownerHash := 0, fwSvn := 1, optSvn := 1 } } }
/-- Both link domains are held after a failed qualification; an L3 episode has ended and Wing 1 waits for its clock. -/
def linksHeld : State := { up with rst := { up.rst with pcieHeld := true, serdesHeld := true, l3Wings := [(1, 0)] } }

/-- A wake whose first three groups of Wings are up. -/
def wakingLast : State :=
  { up with wings := (List.range 24).map fun w => (w, { Wing.reset with powered := true }), pwr := { up.pwr with state := .waking, wakeFrom := some 0 } }
/-- A bring-up into safe mode. -/
def safeRising : State := { rising 1 4 with rst := { (rising 1 4).rst with safe := true } }
def l3Links : State := inEpisode (episode 3 Sources.none true false)

theorem wit_ClocksQualify_more : Tidy wakingLast ∧ bringing wakingLast = none ∧ wakingLast.pwr.state = .waking ∧ wakingLast.inv.waits = [] ∧
    nextGroup wakingLast = some 24 ∧ Tidy safeRising ∧ (bringing safeRising).isSome = true ∧ 4 ≤ safeRising.rst.step.toNat ∧
    domHeld safeRising .aclk = false ∧ safeRising.rst.qAclk = false ∧ safeRising.rst.safe = true ∧ (rising 1 4).inv.waits = [] ∧
    Tidy l3Links ∧ linksFree l3Links = true ∧ isOff l3Links = false ∧ l3Links.rst.pinsReleased = true := by
  unfold Tidy; decide +kernel

theorem wit_ClocksQualify : Tidy State.reset ∧ atStep State.reset 0 = true ∧ Tidy up ∧ up.rst.pinsReleased = true ∧
    linksFree up = true ∧ isOff up = false ∧ Tidy linksHeld ∧ linksHeld.rst.episode = none ∧ linksHeld.rst.bringup = none ∧
    linksFree linksHeld = true ∧ linksHeld.pwr.state ≠ .waking ∧ linksHeld.inv.waits = [] ∧
    isOff linksHeld = false ∧ linksHeld.rst.pcieHeld = true ∧ linksHeld.rst.serdesHeld = true ∧ linksHeld.rst.l3Wings ≠ [] ∧
    Tidy (rising 1 4) ∧ (bringing (rising 1 4)).isSome = true ∧ 4 ≤ (rising 1 4).rst.step.toNat ∧ domHeld (rising 1 4) .mem = false ∧
    (rising 1 4).rst.qMem = false ∧ domHeld (rising 1 4) .aclk = false ∧ (rising 1 4).rst.qAclk = false ∧ (rising 1 4).rst.safe = false := by
  unfold Tidy; decide +kernel

/-- An option block that Ryvas signed. -/
def optBlock : OptBlock :=
  { signer := some 0, svn := 1, declared := 0, ownerKey := none, stretchMs := 50, wdogMs := 1000, pinCfg := 0xFFF, idMap := [], repair := [],
    foxing := List.replicate 34 1, bytes := List.replicate 16384 0 }

/-- The same after boots that have read the areas of the option block and of the primary image. -/
def known (s : State) (x : List (Nat × Option FlashObj)) : State := { s with sec := { s.sec with areas := x } }

theorem wit_OptionLoader_known : Tidy (known (rising 1 1) [(0, some (.options optBlock)), (0x4000, none)]) ∧
    (known (rising 1 1) [(0, some (.options optBlock)), (0x4000, none)]).sec.areas.lookup 0 = some (some (.options optBlock)) ∧
    ((known (rising 1 1) [(0, some (.options optBlock)), (0x4000, none)]).sec.areas.lookup 0x4000).isSome = true ∧
    (rising 1 1).sec.areas.lookup 0 = none := by
  exact ⟨by unfold Tidy; decide +kernel, rfl, rfl, rfl⟩

theorem wit_OptionLoader : Tidy (rising 1 1) ∧ barOpen up 0 = true ∧ bringing (rising 1 1) = some 1 ∧ (rising 1 1).rst.step.toNat = 1 ∧
    (rising 1 1).sec.rpb = some { state := 0, ownerHash := 0, fwSvn := 1, optSvn := 1 } ∧
    optOk { state := 0, ownerHash := 0, fwSvn := 1, optSvn := 1 } optBlock = true := by
  unfold Tidy; decide +kernel

/-- A firmware image that Ryvas signed. -/
def image : FwImage := { signedByRyvas := true, svn := 1, digest := 5, major := 1, minor := 2, build := 3 }

theorem wit_FirmwareStarts : Tidy (rising 1 3) ∧ atStep (rising 1 3) 3 = true ∧ (rising 1 3).rst.code.toNat < 9 ∧
    fwOk (rising 1 3) (some image) = true ∧ (rising 1 3).rst.safe = false ∧
    (rising 1 3).sec.rpb = some { state := 0, ownerHash := 0, fwSvn := 1, optSvn := 1 } ∧ fwOk (rising 1 3) none = false ∧
    fwOk (rising 1 3) (some { image with svn := 0 }) = false ∧ Undamaged (rising 1 1) ∧
    (rising 1 3).sec.areas.lookup 0x20000 = none ∧ (rising 1 3).sec.areas.lookup 0x820000 = none := by
  unfold Tidy Undamaged; decide +kernel

/-- Host boot (code 9) with HOST_GO. -/
def hostBoot : State := { rising 1 3 with rst := { (rising 1 3).rst with code := 9, hostGo := true } }

theorem wit_FirmwareStarts_host : Tidy hostBoot ∧ atStep hostBoot 3 = true ∧ fwOk hostBoot (some image) = true ∧
    hostBoot.rst.hostGo = true ∧ hostBoot.sec.hostbootDenied = false ∧ 9 ≤ hostBoot.rst.code.toNat ∧ hostBoot.rst.code.toNat ≤ 12 := by
  unfold Tidy; decide +kernel

/-- A bring-up that has completed step 5, with a folio whose move a reset cut off; one whose memories wait for training. -/
def nearReady : State := { rising 2 5 with tier := { Tiers.reset with folios := [(5, { folio0 with state := 1 })] } }
def untrained : State := { rising 1 4 with rst := { (rising 1 4).rst with qMem := true } }

theorem wit_BringupCompletes : Tidy untrained ∧ bringing untrained = some 1 ∧ untrained.rst.qMem = true ∧ untrained.rst.trained = false ∧
    populationOf [some 64, none] = none ∧ populationOf (List.replicate 8 (some 256)) = some 2048 ∧ Tidy nearReady ∧
    atStep nearReady 5 = true ∧ nearReady.rst.safe = false ∧ (bringing nearReady).isSome = true ∧ nearReady.rst.slow = false ∧
    Tidy linksHeld ∧ linksHeld.rst.episode = none ∧ isOff linksHeld = false ∧ linksHeld.rst.l3Wings ≠ [] ∧ linksHeld.rst.slow = false := by
  unfold Tidy; decide +kernel

/-! ### Tenants and the host link -/

/-- Function 1 under scrub since time 0, its queue 32 destroyed, its folio 6 invalid, and a bank range that its tiles used. -/
def scrubbed (now : Nat) : State :=
  let s := withQ 32 { queue1 with state := 4 } up
  { s with
    clk := { s.clk with now := BitVec.ofNat 64 now }
    sec := { s.sec with scrub := 2 }
    tier := { s.tier with folios := [(5, folio0), (6, { folio0 with valid := false, base := 17, tenant := 1 })] }
    arrs := { s.arrs with arr := [(0, { Arr.reset with used := [(64, 128, 1)] })] } }

theorem wit_FunctionsReset : Tidy up ∧ (∀ f, f < 32 → ∀ g ∈ flrSet f, scrubbing up g = false) ∧ up.pcie.linkUp = true ∧ up.sec.scrub = 0 ∧
    fnPresent up 2 = true := by
  unfold Tidy; decide +kernel

theorem wit_ScrubsEnd : Tidy (scrubbed 10000000) ∧ scrubbing (scrubbed 10000000) 1 = true ∧ queueHeld (scrubbed 10000000) 32 = false ∧
    10000000 ≤ (scrubbed 10000000).clk.now.toNat - tabGet 0 (scrubbed 10000000).sec.scrubAt 1 := by
  unfold Tidy; decide +kernel

/-- The link down with its clock; function 0 with a message pending. -/
def linkAway : State := { up with pcie := { up.pcie with linkUp := false } }
def msgWaits : State := { up with pcie := { up.pcie with fns := [(0, { fnOn with pending := true })] } }

theorem wit_LinkEvents : Tidy linkAway ∧ linkAway.pcie.perst = false ∧ linkAway.rst.qPcie = true ∧ linkAway.rst.episode = none ∧
    linkAway.pwr.state ≠ .off ∧ Tidy up ∧ up.pcie.linkUp = true ∧ fnPresent up 2 = true ∧ Tidy msgWaits ∧ (getPcie msgWaits 0).pending = true ∧
    (getPcie msgWaits 0).masked = false ∧ hostBlocked msgWaits 0 = false := by
  unfold Tidy; decide +kernel

/-! ### Power, heat and wear -/

/-- The power state. -/
def powered (p : PState) : State := { up with pwr := { up.pwr with state := p } }
/-- An entry to Off; a wake that began at 0. -/
def offing : State := { up with pwr := { up.pwr with state := .entering, offing := true } }
def waking (now : Nat) : State :=
  { up with clk := { up.clk with now := BitVec.ofNat 64 now }, pwr := { up.pwr with state := .waking, wakeFrom := some 0 } }

theorem wit_PowerStates : (∀ p ∈ [PState.active, .idle, .drowse, .entering, .waking], Tidy (powered p) ∧ barOpen (powered p) 0 = true ∧
      (powered p).pwr.state = p ∧ (powered p).pwr.held = [] ∧ (powered p).pwr.offing = false) ∧
    mayPowerDown up = true ∧ mayPowerDown coreHalted = false ∧ Tidy coreHalted ∧ Tidy offing ∧ offing.pwr.state = .entering ∧
    offing.pwr.offing = true ∧ Tidy (waking 160000) ∧ (waking 160000).pwr.wakeFrom = some 0 ∧
    160000 ≤ ((waking 160000).clk.now - 0).toNat ∧ (waking 160000).pwr.held = [] ∧ nextGroup (waking 160000) = none := by
  unfold Tidy; decide +kernel

/-- Measurements: over the cap, hot, too much current, and calm. -/
def sample (p100 temp amps predicted : Nat) (calm : Bool) : PowerSample :=
  { p100 := p100, p1ms := p100, temps := List.replicate 69 temp, hbm := 50, amps := amps, calm := calm, predicted := predicted }
/-- ACLK at 0.60 GHz after one evaluation over the cap; a change of VCORE with a step left, and with its last step left. -/
def slowest : State := { up with pwr := { up.pwr with aclkMhz := 600, overs := 1 } }
def stepping (mv : BitVec 10) (tries : Nat) : State :=
  { up with pwr := { up.pwr with vcoreMv := mv, boot := false, avs := some { start := 700, target := 800, aclk := 1300, up := true, tries := tries, cause := 0 } } }

theorem wit_OperatingPoints : Tidy up ∧ up.desk.ready = true ∧ isOff up = false ∧ up.pwr.aclkMhz.toNat ≠ 600 ∧
    up.pwr.capInForce.toNat < (sample 1401 50 100 600 false).p100 ∧ 100 ≤ (hottest (sample 100 100 100 600 false).temps).2 ∧
    1300 < (sample 100 50 1301 600 false).amps ∧ slowest.pwr.aclkMhz.toNat = 600 ∧ 1 ≤ slowest.pwr.overs ∧ slowest.pwr.pace.toNat < 3 ∧
    (sample 100 50 100 600 true).p100 ≤ up.pwr.capInForce.toNat ∧ nextPoint up.pwr.aclkMhz.toNat = some 1300 ∧
    mayStepUp (sample 100 50 100 600 true) up = true ∧ up.pwr.pace = 0 ∧ up.rel.aged = false ∧ up.pwr.vcoreMv.toNat ≠ pointMv 1300 ∧
    slowest.pwr.capInForce.toNat < (sample 1401 50 100 600 false).p100 ∧ (sample 100 100 100 600 false).p100 ≤ slowest.pwr.capInForce.toNat := by
  unfold Tidy; decide +kernel

/-- A step down whose change of VCORE has been abandoned: VCORE stands above the point of ACLK; ACLK above the deepest point before
the pins are released. -/
def leftOver : State := { slowest with pwr := { slowest.pwr with vcoreMv := 700 } }
def unreleased : State := { up with rst := { up.rst with pinsReleased := false } }

theorem wit_OperatingPoints_retry : Tidy leftOver ∧ leftOver.desk.ready = true ∧ isOff leftOver = false ∧
    nextPoint leftOver.pwr.aclkMhz.toNat ≠ none ∧ mayStepUp (sample 100 50 100 600 false) leftOver = false ∧ leftOver.pwr.pace = 0 ∧
    leftOver.pwr.avs = none ∧ leftOver.pwr.vcoreMv.toNat ≠ pointMv leftOver.pwr.aclkMhz.toNat ∧ Tidy unreleased ∧
    unreleased.rst.pinsReleased = false ∧ unreleased.pwr.throttle = false := by
  unfold Tidy; decide +kernel

theorem wit_OperatingPoints_steps : (∀ s ∈ [stepping 700 0, stepping 790 0, stepping 700 1, stepping 700 2], Tidy s ∧ s.pwr.avs.isSome = true) ∧
    avsNext (stepping 700 0).pwr 800 ≠ 800 ∧ avsNext (stepping 790 0).pwr 800 = 800 ∧ (1 : Nat) + 1 < 3 ∧ 3 ≤ (2 : Nat) + 1 := by
  unfold Tidy; decide +kernel

theorem wit_HeatAndWear : Tidy up ∧ up.pwr.throttle = false ∧ isOff up = false ∧ (∀ e ∈ up.rst.episode.toList, e.level = 3) ∧
    measures up = true ∧ (∀ e ∈ l3Links.rst.episode.toList, e.level = 3) ∧
    (68 ≤ 68 ∧ 105 ≤ (105 : Nat)) ∧ (99 < 100 ∧ 89 < (90 : Nat)) ∧ 115 ≤ (115 : Nat) ∧ 94 < (95 : Nat) := by
  unfold Tidy; decide +kernel

/-! ### The fabric -/

/-- Port 0 as p in a part whose node 1 lies behind it. -/
def withPort (p : Port) : State := { peer up with fab := { (peer up).fab with ports := [(0, p)] } }
def portUp0 : Port := { Port.reset with state := 2, width := 3 }
/-- A good flit with SEQ 0 and a flit with a wrong check. -/
def flitBody : List Byte := List.replicate 252 0
def goodFlit : List Byte := flitBody ++ bytesOf 4 (crc32 flitBody).toNat
def badFlit : List Byte := flitBody ++ bytesOf 4 ((crc32 flitBody).toNat + 1)
/-- A link control flit with SEQ 0; ports that expect SEQ 1, and that discard until it comes. -/
def ctlBody : List Byte := padTo 0 252 (List.replicate 4 0 ++ ctlData ctlNak [0, 0])
def ctlGood : List Byte := ctlBody ++ bytesOf 4 (crc32 ctlBody).toNat
def expecting (discarding : Bool) : State := withPort { portUp0 with rxSeq := 1, discarding := discarding }

set_option maxRecDepth 20000 in
theorem wit_FlitsAndNaks : Tidy (withPort portUp0) ∧ (getPort (withPort portUp0) 0).state = 2 ∧ goodFlit.length = 256 ∧ badFlit.length = 256 ∧
    natOf (goodFlit.drop 252) = (crc32 (goodFlit.take 252)).toNat ∧ natOf (badFlit.drop 252) ≠ (crc32 (badFlit.take 252)).toNat ∧
    bits 31 20 (natOf (goodFlit.take 4)) = (getPort (withPort portUp0) 0).rxSeq.toNat ∧
    (∀ d, Tidy (expecting d) ∧ (getPort (expecting d) 0).state = 2 ∧ (getPort (expecting d) 0).discarding = d ∧
      bits 31 20 (natOf (goodFlit.take 4)) ≠ (getPort (expecting d) 0).rxSeq.toNat) := by
  unfold Tidy; decide +kernel

set_option maxRecDepth 20000 in
theorem wit_FlitsAndNaks_ctl : ctlGood.length = 256 ∧ natOf (ctlGood.drop 252) = (crc32 (ctlGood.take 252)).toNat ∧
    bits 31 20 (natOf (ctlGood.take 4)) = 0 ∧ ctlOf ((ctlGood.drop 4).take 248) = some (ctlNak, [0, 0]) ∧
    ctlOf ((goodFlit.drop 4).take 248) = none ∧ (getPort (withPort portUp0) 0).rx = [] ∧ (getPort (withPort portUp0) 0).txq = [] := by
  decide +kernel

/-- A port with few shared credits left, and one that is congested with many. -/
def crowded : Port := { portUp0 with usedShared := [0, 0, 0, 0, 0, 0, 0, sharedLimit false - 63] }
def eased : Port := { portUp0 with congested := true, usedShared := [0, 0, 0, 0, 0, 0, 0, sharedLimit false - 257] }

theorem wit_PortsTrain : Tidy (withPort portUp0) ∧ mayTrain (withPort Port.reset) = true ∧ (getPort (withPort Port.reset) 0).state = 0 ∧
    widthOf 15 ≠ 0 ∧ (getPort (withPort { Port.reset with state := 1, failedTrains := 2 }) 0).state = 1 ∧
    sharedFree (reservedAny (withPort crowded)) crowded < 64 ∧ 256 < sharedFree (reservedAny (withPort eased)) eased := by
  unfold Tidy; decide +kernel

/-- A candidate with port 0 UP that has heard no lower serial, and one that has. -/
def candidate (heard : List W64) : State :=
  { withPort portUp0 with fab := { (withPort portUp0).fab with candidate := true, heard := heard } }
def manager : State := { candidate [] with fab := { (candidate []).fab with manager := true } }
/-- A node that is no candidate and has no ID. -/
def nameless : State := { withPort portUp0 with fab := { (withPort portUp0).fab with assigned := false } }
def joinedUp (j : Bool) : State := { withPort portUp0 with fab := { (withPort portUp0).fab with joined := j } }

theorem wit_ManagerAndTime : Tidy (withPort portUp0) ∧ portUp (withPort portUp0) 0 = true ∧
    (∃ p ∈ List.range 9, portUp (candidate []) p = true) ∧ (candidate []).fab.candidate = true ∧ (candidate []).fab.manager = false ∧
    (∀ j, (joinedUp j).fab.manager = false ∧ (joinedUp j).fab.joined = j) ∧
    (∃ p ∈ List.range 9, portUp (joinedUp true) p = true) ∧ Tidy manager ∧ manager.fab.candidate = true ∧ manager.fab.manager = true ∧
    (∃ p ∈ List.range 9, portUp manager p = true) ∧ nameless.fab.candidate = false ∧ nameless.fab.heard = [] ∧
    nameless.fab.assigned = false ∧ (∃ p ∈ List.range 9, portUp nameless p = true) := by
  unfold Tidy; decide +kernel

/-- A node with an ID that has heard no candidate in the last 50 ms either; a candidate that has heard a lower serial number. -/
def silentNode : State := { withPort portUp0 with fab := { (withPort portUp0).fab with silent := true } }

theorem wit_ManagerAndTime_heard : Tidy silentNode ∧ silentNode.fab.candidate = false ∧ silentNode.fab.heard = [] ∧
    silentNode.fab.silent = true ∧ silentNode.fab.assigned = true ∧ Tidy (candidate [0]) ∧
    ((candidate []).fab.heard.all fun x => decide (serialNo.toNat ≤ x.toNat)) = true ∧
    (0 < serialNo.toNat → ((candidate [0]).fab.heard.all fun x => decide (serialNo.toNat ≤ x.toNat)) = false) := by
  refine ⟨by unfold Tidy; decide +kernel, rfl, rfl, rfl, rfl, by unfold Tidy; decide +kernel, rfl, fun h => ?_⟩
  simp only [candidate, List.all_cons, List.all_nil, Bool.and_true, decide_eq_false_iff_not]
  exact Nat.not_le.mpr h

/-- A slip of a kind. -/
def slip (dest src : BitVec 16) (kind : BitVec 4) (folio : BitVec 20) (count : W32) (payload : List Byte) : Slip :=
  { dest := dest, src := src, vc := 6, func := 0, kind := kind, len := BitVec.ofNat 13 payload.length, seq := 0, rank := 0, status := 0,
    tag := 7, folio := folio, offset := 64, countLen := count, stamp := 0, payload := payload }
/-- One request of class 3 to node 1 is open, for a PUT tile that its Loan station holds. -/
def openPut : State := go (peer (busy [dLoan 0xA 0x5450])) [.put 0 0, .slabArrive tid .act true [], .stationTakeUp loan0 [], .creditReturn loan0 []]
def unrouted : State := { withPort portUp0 with fab := { (withPort portUp0).fab with routes := [(0, 0x8000FFFF)] } }

theorem wit_SlipsLeave : (∀ j, Tidy (joinedUp j) ∧ (slip 1 0 0 5 0 [1]).dest ≠ (joinedUp j).fab.nodeId ∧ (joinedUp j).fab.routed = true ∧
      (joinedUp j).fab.joined = j) ∧ (withPort portUp0).fab.joined = true ∧ unrouted.fab.joined = true ∧
    tabGet none (withPort portUp0).fab.fwd ((65536 * 0 + 1) * 8 + 6) = none ∧ pickAlt (withPort portUp0) (slipClass (slip 1 0 0 5 0 [1])) 1 0 false = some 0 ∧
    pickAlt unrouted (slipClass (slip 1 0 0 5 0 [1])) 1 0 false = none := by
  unfold Tidy; decide +kernel

theorem wit_SlipsLeave_tiles : Tidy openPut ∧ (getTx openPut 1 3).open_ ≠ [] ∧ findTile openPut tid = some (tile openPut) ∧
    (tile openPut).phase ≠ .finished := by
  unfold Tidy; decide +kernel

theorem wit_SlipsApplied : Tidy up ∧ Undamaged up ∧ fabricLive up = true ∧ up.fab.nodeId = 0 ∧ moveOf up 5 = none ∧
    (∀ k ∈ [kWrite, kRead, kAdd], (slip 0 1 (BitVec.ofNat 4 k) 5 8 (List.replicate 8 1)).kind.toNat = k) ∧
    (slip 0 1 0 5 8 [1]).seq = (getRx up 1 (slipClass (slip 0 1 0 5 8 [1]))).seq ∧ (slip 0 1 0 5 8 [1]).folio ≠ 0 ∧
    (slipCheck up (slip 0 1 0 5 8 (List.replicate 8 1)) 8).1 = 0 ∧
    (slipCheck up (slip 0 1 0 6 8 (List.replicate 8 1)) 8).1 = 3 := by
  unfold Tidy Undamaged; decide +kernel

/-- The SEND tile waits for its CTS, the GET tile for its data. -/
def openSend : State := go (peer (busy [dLoan 8 0x5450])) [.send 0 0, .slabArrive tid .act true [], .stationTakeUp loan0 []]
def openGet : State := go (peer (busy [dLoan 0xB 0x5450])) [.get 0 0, .stationTakeUp loan0 []]
/-- The request that a state keeps open to node 1. -/
def request (s : State) : SentSlip := (getTx s 1 3).open_.headD { slip := slip 0 0 0 0 0 [], tile := none, wing := 0, q := 0, ended := false, late := false }

theorem wit_ResponsesAndRendezvous : ∀ x ∈ [(openPut, kAck), (openSend, kCts), (openGet, kReadData)],
    Tidy x.1 ∧ (slip 0 1 (BitVec.ofNat 4 x.2) 0 0 []).dest = x.1.fab.nodeId ∧ (slip 0 1 (BitVec.ofNat 4 x.2) 0 0 []).kind.toNat = x.2 ∧
    (getTx x.1 1 (slipClass (slip 0 1 (BitVec.ofNat 4 x.2) 0 0 []))).open_.find? (fun y => y.slip.seq == 0) = some (request x.1) ∧
    (request x.1).tile.bind (findTile x.1) = some (tile x.1) ∧ (tile x.1).phase = .held ∧ Undamaged x.1 ∧
    (request x.1).ended = false ∧ isFar (request x.1).slip = false ∧ moveOf x.1 (dFolio (tile x.1).d 2) = none := by
  unfold Tidy Undamaged; decide +kernel

/-- The GET tile's IN unit, which gathers 64 bytes: a READ_DATA slip that brings all of them, and one that brings a part. -/
theorem wit_ResponsesAndRendezvous_unit : (unitHeld openGet (tile openGet)).isSome = true ∧ (tile openGet).loan.got = 0 ∧
    slabNow (tile openGet) = (0, 64) ∧ (tile openGet).loan.asked = 64 := by
  decide +kernel

/-- The RECV tile at its Loan station; the RTS that meets it, and that meets none in `up`. -/
def openRecv : State := go (peer (busy [dLoan 9 0x50])) [.recv 0 0, .stationTakeUp loan0 []]

theorem wit_ResponsesAndRendezvous_rts : Tidy openRecv ∧ fabricLive openRecv = true ∧ (slip 0 1 4 0 64 []).kind.toNat = kRts ∧
    (slip 0 1 4 0 64 []).seq = (getRx openRecv 1 (slipClass (slip 0 1 4 0 64 []))).seq ∧
    openRecv.run.tiles.find? (fun x => dOp x.d == 9 && x.phase == .held && !x.loan.granted && dDest x.d == 1 && dSeed x.d == 7 &&
      x.cls.toNat == slipClass (slip 0 1 4 0 64 [])) = some (tile openRecv) ∧ findTile openRecv (tile openRecv).id = some (tile openRecv) ∧
    (slip 0 1 4 0 64 []).countLen.toNat = loanBytes (tile openRecv).d ∧ up.run.tiles = [] := by
  unfold Tidy; decide +kernel

/-! ### Debug authorisation and the management bus -/

/-- The part in the Locked state at level 1; a token in verification. -/
def locked : State := { up with sec := { up.sec with state := 2, level := 1 } }
def verifying : State := { up with sec := { up.sec with submit := true, busToken := List.replicate 256 0 } }

theorem wit_DebugLevels : Tidy up ∧ Tidy locked ∧ barOpen up 0 = true ∧ up.sec.state = 0 ∧ locked.sec.state ≠ 0 ∧
    locked.sec.level.toNat < bits 1 0 (0x6#32).toNat ∧ bits 1 0 (0x4#32).toNat ≤ locked.sec.level.toNat ∧
    (∀ v ∈ [4, 5, 6, 7], bit 2 (BitVec.ofNat 32 v).toNat = true ∧ bit 31 (BitVec.ofNat 32 v).toNat = false) ∧ up.sec.submit = false ∧ Tidy verifying ∧
    verifying.sec.submit = true ∧ verifying.rst.episode = none := by
  unfold Tidy; decide +kernel

/-- The part without a bus address; with an event to report; with four messages in reassembly. -/
def unassigned : State := { up with mgt := { up.mgt with assigned := false } }
def alerting : State := { up with mgt := { up.mgt with events := [{ code := 5, data := 0, stamp := 0 }] } }
def assembling : State :=
  { up with mgt := { up.mgt with reasm := [1, 2, 3, 4].map fun t => { src := 9, msgTag := BitVec.ofNat 3 t, msgType := 1, body := [] } } }
def packet (tag : BitVec 3) (eom pecOk : Bool) : MctpPkt :=
  { src := 9, msgTag := tag, som := true, eom := eom, msgType := 1, body := [0], pecOk := pecOk }

theorem wit_BusProtocol : Tidy up ∧ busUp up = true ∧ unassigned.mgt.assigned = false ∧ unassigned.mgt.dflt = 0x5C ∧
    (0x60 : Byte).toNat % 2 = 0 ∧ addrReserved ((0x60 : Byte).toNat / 2) = false ∧ alerting.mgt.events ≠ [] ∧ up.mgt.serving = true ∧
    up.mgt.assigned = true ∧ (packet 0 false true).msgType.toNat ∈ [0x00, 0x01, 0x05, 0x7E] ∧ (packet 0 false true).body.length ≤ 1088 ∧
    (up.mgt.reasm.filter fun x => !(x.src == 9 && x.msgTag == 0)).length < 4 ∧
    4 ≤ (assembling.mgt.reasm.filter fun x => !(x.src == 9 && x.msgTag == 0)).length := by
  unfold Tidy; decide +kernel

/-- A reply of the device is on the bus, whose arbitration it has lost as often as given. -/
def replying (n : Nat) : State :=
  { up with out := [.reply "GET_TID" 0 [1]], mgt := { up.mgt with retries := n, retryOf := 0 } }

theorem wit_BusProtocol_arbitration : (∀ n ∈ [0, 2, 3], Tidy (replying n) ∧ busUp (replying n) = true ∧ sendingAt (replying n) = some 0) ∧
    sendingAt up = none := by
  unfold Tidy; decide +kernel

/-- The part has no identity. -/
def noPuf : State := { up with sec := { up.sec with pufFail := true } }

theorem wit_ManagementQueries : Tidy up ∧ Served up ∧ ¬ Served unassigned ∧ up.sec.pufFail = false ∧ Tidy unassigned ∧ Tidy noPuf ∧
    Served noPuf ∧ noPuf.sec.pufFail = true := by
  unfold Tidy Served; decide +kernel

/-- A firmware update of one component: before its component is chosen, with 1 KiB of 2 KiB to come, and verified. -/
def updating (c : Option (BitVec 16)) (got : Nat) (verified : List (BitVec 16)) : State :=
  { up with mgt := { up.mgt with update := some { component := c, size := if c.isSome then 2048 else 0, got := got, table := [1], verified := verified } } }

theorem wit_FirmwareUpdate : Served up ∧ up.mgt.update = none ∧ (∀ s ∈ [updating none 0 [], updating (some 1) 0 [], updating (some 1) 1024 [],
      updating none 0 [1]], Tidy s ∧ Served s ∧ s.mgt.update.isSome = true) ∧
    (flashArea 1).isSome = true ∧ (flashArea 2).isSome = true ∧ (2 : BitVec 16) ∉ ([1] : List (BitVec 16)) ∧
    (List.replicate 1024 (0 : Byte)).length = min 1024 (2048 - 1024) := by
  unfold Tidy Served; decide +kernel

/-- Copy B is whole, and verification finds the image in it. -/
def lastBlock : State := { updating (some 1) 1024 [] with sec := { up.sec with rpb := (rising 1 3).sec.rpb } }

theorem wit_FirmwareUpdate_good : Tidy lastBlock ∧ Served lastBlock ∧
    copyGood { flashDrain lastBlock with flash := memPut 0xFF (flashDrain lastBlock).flash (0x420000 + 1024) (List.replicate 1024 0) }
      1 0x420000 0x400000 true (some (.image image)) = true := by
  unfold Tidy Served; decide +kernel

/-- The debug level of the part. -/
def atLevel (n : BitVec 2) : State := { up with sec := { up.sec with level := n }, rel := { up.rel with logHead := 1 } }

theorem wit_VendorCommands : (∀ n, Tidy (atLevel n) ∧ Served (atLevel n) ∧ Undamaged (atLevel n) ∧ (atLevel n).sec.level = n ∧
      (atLevel n).sec.submit = false ∧ dark (atLevel n) = false ∧ (atLevel n).rst.episode = none ∧ (atLevel n).rst.bringup = none ∧
      (atLevel n).rst.l3Wings = []) ∧
    (List.replicate 256 (0 : Byte)).length = 256 ∧ 0 < (atLevel 1).rel.logHead.toNat ∧ (atLevel 1).rel.logHead.toNat ≤ 0 + 2 ^ 21 ∧
    (∀ i, i < 32 → (atLevel 1).rel.logHead.toNat ≤ 1 + i) ∧ (0x07FEFFFFFF8#44).toNat + 8 ≤ 0x07FF0000000 := by
  unfold Tidy Served Undamaged; decide +kernel

/-! ### The whole block -/

theorem wit_StepTakesFront : { up with pending := [.helloSend, .hostGo] }.pending = .helloSend :: [.hostGo] := by decide +kernel

theorem wit_StepKeepsTidy : Tidy up ∧ ∃ t, step { up with pending := [.hostGo] } = .next t := by
  unfold Tidy; exact ⟨by decide +kernel, _, rfl⟩

theorem wit_StepKeepsTidy_reachable : Reachable State.reset := Run.here _

/-- Data with tag 7 of node 1 is still to come for a RECV of Wing 3 that has ended; the PUT tile has ended before its answer. -/
def lateRecv (counted : Bool) : State :=
  { peer up with fab := { (peer up).fab with late := [{ ring := false, src := 1, cls := 3, func := 0, tag := 7, rts := 0, wing := 3, counted := counted }] } }
def latePut : State := { openPut with run := { openPut.run with tiles := [] } }

theorem wit_LateBurstCounts : (∀ c, Tidy (lateRecv c) ∧ fabricLive (lateRecv c) = true ∧
      (getRx (lateRecv c) 1 (slipClass (slip 0 1 0 0 8 [1]))).seq = 0 ∧ isFar (slip 0 1 0 0 8 [1]) = false ∧
      dataTile (lateRecv c) (slip 0 1 0 0 8 [1]) = none ∧
      lateFor (lateRecv c) (slip 0 1 0 0 8 [1]) = some { ring := false, src := 1, cls := 3, func := 0, tag := 7, rts := 0, wing := 3, counted := c }) ∧
    Tidy latePut ∧ (takeAnswer latePut (slip 0 1 6 0 0 [])).1 = some (request latePut) ∧ (request latePut).tile = some tid ∧
    findTile latePut tid = none ∧ (request latePut).late = false := by
  unfold Tidy; decide +kernel

/-! ### Well-formed commands: one term for each check, and a term beside it that passes -/

def okHit : EccHit := ⟨0x100000, true⟩
def badHit : EccHit := ⟨2 ^ 46, false⟩
def okTile : TileId := ⟨1023, 0#32, 0⟩
def okSlip : Slip := ⟨1#16, 0#16, 0#3, 0#5, 4#4, 2#13, 0#16, 0#8, 0#8, 0#32, 5#20, 0#25, 0#32, 0#32, [1#8, 2#8]⟩
def okSample : PowerSample := ⟨100, 100, List.replicate 69 40, 40, 100, true, 2000⟩
def okBlock : OptBlock :=
  ⟨some 0, 0#16, 3#2, none, 20, 100, 0#32, [], [], List.replicate 34 1, []⟩

/-- Commands that the checks refuse, one or more for each check. -/
def illFormed : List Instr :=
  [.folioRead 0 0 [badHit], .memRead 0 0 [okHit, badHit], .memWrite 0 0 [(4, 0#64)], .memWrite 0 0 [(2 ^ 40, 0#64)],
   .slabArrive ⟨1024, 0#32, 0⟩ .wt true [], .slabArrive ⟨0, 0#32, 2 ^ 20⟩ .wt true [], .slabArrive okTile .act true [badHit],
   .passStart 0 0 none [badHit], .creditReturn ⟨.array, 0, 33⟩ [], .creditReturn ⟨.loan, 0, 1⟩ [],
   .creditReturn ⟨.ledger, 0, 2⟩ [], .stationTakeUp ⟨.returns, 0, 2⟩ [], .stationTakeUp ⟨.returns, 0, 1⟩ [badHit],
   .userTableFill 0 0 [badHit], .stationTileFinish ⟨.glossary, 0, 2⟩ [], .stationTileFinish gls0 [badHit],
   .drainStart 0 0 [badHit], .accWindowTransferEnd 0 [badHit],
   .lateBurst { okSlip with len := 1#13 }, .inputWaitTimeout ⟨1024, 0#32, 0⟩,
   .flushReadDone 1024 .timeout, .hostCompletion 1024 (.data []), .moveChunkCopied 0 [badHit],
   .inventoryRegionTest 0 false [] [badHit], .patrolScrub true 0 false [badHit], .borAssert .vsram 4096,
   .borRelease [], .borRelease (List.replicate 7 4096),
   .regRead 0 [badHit], .regWrite 0 0 [(4, 0#64)], .rcFieldRead 0 0 [badHit], .logRead 0 1 [badHit],
   .logRecordWrite 65536, .sramWindowRead 0 0 [], .sramWindowRead 0 4097 [], .sramWindowRead 0 8 [badHit],
   .sramWindowWrite 0 [] [], .sramWindowWrite 0 [1#8] [(1, 0#64)], .setViewWrite 0 [] [], .clearViewWrite 0 [] [],
   .setViewWrite 0 [1#8] [(12, 0#64)], .clearViewWrite 0 [1#8] [(12, 0#64)], .registerWrite 0 0 3 0, .registerWrite 0 0 0 0,
   .stretchEnd 256, .clockQualified .aclk [1056], .optionBlockLoaded true .good (some okBlock) none true true,
   .optionBlockLoaded true .good none (some { okBlock with bytes := List.replicate 64 0#8, foxing := [] }) true true,
   .memoryTrainingDone [some 1], .dvfsEvaluation { okSample with temps := [40] }, .dvfsEvaluation { okSample with hbm := 256 },
   .dvfsEvaluation { okSample with temps := List.replicate 69 256 }, .thermalThrottle 69 100 40, .thermalThrottle 0 256 40,
   .thermalThrottle 0 100 256, .throttleRelease 256 40, .throttleRelease 40 256, .thermalTrip 69 120, .thermalTrip 0 256,
   .tripSensorCooled 256, .foxingMeasure [(34, 1, 1)] [] false, .foxingMeasure [] [(36, 1)] false, .stackMarginMeasure [(256, 1)],
   .flitReceive 0 [0#8] 0, .slipForward { okSlip with len := 1#13 }, .writeSlip { okSlip with len := 3#13 } [],
   .writeSlip okSlip [badHit], .readSlip okSlip [badHit], .readSlip { okSlip with len := 9#13 } [], .readData { okSlip with len := 9#13 },
   .addSlip { okSlip with len := 9#13 } [], .addSlip okSlip [badHit], .rts { okSlip with len := 9#13 }, .cts { okSlip with len := 9#13 },
   .ack { okSlip with len := 9#13 }, .mctpPacket ⟨8#8, 0#3, true, true, 0#8, List.replicate 65 0#8, true⟩,
   .spdmChallenge 0 [], .spdmGetMeasurements 0 true [], .requestFirmwareData (List.replicate 1025 0#8) true,
   .requestFirmwareData [] true (some (.options okBlock)), .submitToken (List.replicate 1089 0#8), .vdmMemRead 0 8 [badHit], .vdmMemWrite 0 (List.replicate 1089 0#8) [],
   .vdmMemWrite 0 [1#8] [(2 ^ 40, 0#64)], .aislesUnitCrcFail ⟨1024, 0#32, 0⟩ 3]

theorem wellFormed_refuses : illFormed.all (fun i => !wellFormed i) = true := by decide +kernel

/-- Their neighbours in range. -/
def inRange : List Instr :=
  [.folioRead 0 0 [okHit], .memWrite 0 0 [(8, 0#64)], .slabArrive okTile .wt true [okHit], .passStart 0 0 none [okHit],
   .creditReturn ⟨.array, 0, 32⟩ [], .creditReturn ⟨.loan, 0, 0⟩ [], .stationTakeUp ⟨.returns, 0, 1⟩ [okHit],
   .flushReadDone 1023 .timeout, .patrolScrub true 0 false [okHit], .borAssert .vsram 4095, .borRelease (List.replicate 7 4095), .lateBurst okSlip,
   .stationTileFinish gls0 [okHit], .drainStart 0 0 [okHit], .accWindowTransferEnd 0 [okHit],
   .regRead 0 [okHit], .regWrite 0 0 [(8, 0#64)], .logRecordWrite 65535, .sramWindowRead 0 4096 [],
   .sramWindowWrite 0 [1#8] [(8, 0#64)], .registerWrite 0 0 4 0, .stretchEnd 255, .clockQualified .aclk [1055],
   .memoryTrainingDone (List.replicate 8 (some 1)), .dvfsEvaluation okSample, .thermalThrottle 68 255 255,
   .foxingMeasure [(33, 1, 1)] [(35, 1)] true, .stackMarginMeasure [(255, 1)], .flitReceive 0 (List.replicate 256 0#8) 0,
   .writeSlip okSlip [okHit], .mctpPacket ⟨8#8, 0#3, true, true, 0#8, List.replicate 64 0#8, true⟩,
   .spdmChallenge 0 (List.replicate 32 0#8), .submitToken (List.replicate 1088 0#8), .vdmMemWrite 0 [1#8] [(8, 0#64)],
   .optionBlockLoaded true .good none none true true]

theorem wellFormed_accepts : inRange.all wellFormed = true := by decide +kernel

/-! ### Worked values of the manual -/

/-- Number Formats and Scales: the scale byte 0x30 in E4M3 is 0.5. -/
theorem test_e4m3_half : decodeE4M3 0x30 = .fin (1 / 2) false := by decide +kernel

/-- Lookup Arithmetic, the example of rule R66: a seed that meets its own constant starts the generator from 1, whose first draws follow. -/
theorem test_seedGen : seedGen 0x9E3779B8#32 0 = 1#32 := by decide +kernel
theorem test_draws : drawNext 1#32 = 0x00042021#32 ∧ drawNext 0x00042021#32 = 0x04080601#32 := by decide +kernel

/-- Table 3.2: the Concordance of 20, −7, 3, 11. -/
theorem test_concordance :
    concTable [20, -7, 3, 11] = [0, 20, -7, 13, 3, 23, -4, 16, 11, 31, 4, 24, 14, 34, 7, 27] := by decide +kernel

/-- Rule R41's examples: 3.1 as S8 and as S4. -/
theorem test_quantExp : quantExp (31 / 10) 127 = 122 ∧ quantExp (31 / 10) 7 = 126 := by decide +kernel

/-- Table 5.8's example descriptor. -/
def dExample : List W32 :=
  [0x050B8000, 0x00004010, 0x4B000000, 0x00004000, 0x5A170C03, 0x00019030, 0x00408010, 0x02000800, 0x00000250, 0x000041A0,
   0x00030000, 0x00000212, 0x00400000, 0x000041A1, 0, 0].map (BitVec.ofNat 32)

theorem test_descriptor : dOp dExample = 1 ∧ dClass dExample = 1 ∧ dMode dExample = 1 ∧ dGroup dExample = 1 ∧
    dOpen dExample = true ∧ dClose dExample = true ∧ dM dExample = 48 ∧ dP dExample = 4 ∧ dNtot dExample = 128 ∧
    dN dExample = 16 ∧ dKtot dExample = 32 ∧ dK0 dExample = 8 ∧ dC0 dExample = 37 ∧ dBudget dExample = 200 ∧
    idxOff 4 32 37 8 = 0x95000 := by decide +kernel

/-- The example above Table 3.2: the W4 column 3, −8, 5, −1 adds 120 for that token. -/
theorem test_groupTerm : groupTerm 4 (concTable [20, -7, 3, 11]) [0xD, 0x9, 0xC, 0xA] = 120 := by decide +kernel

/-- Lookup Arithmetic: an A16 lane that clamps at row 7 ends at 255, and the exact sum is 256. -/
theorem test_a16_clamps :
    ((List.replicate 8 4096 ++ List.replicate 8 (-4064)).foldl (sumStep true) (0, false, 0)).1 = 255 ∧
      ((List.replicate 8 4096 ++ List.replicate 8 (-4064)).foldl (sumStep true) (0, false, 0)).2.1 = true ∧
      ((List.replicate 8 4096 ++ List.replicate 8 (-4064)).foldl (sumStep false) (0, false, 0)).1 = 256 := by decide +kernel

/-- Compression: the header 0x0A00_0000_0000_0042 of a W4 DICT16 block needs 160 bytes of payload. -/
theorem test_dict16 : mpfCode 0x0A00000000000042 = 2 ∧ mpfB 0x0A00000000000042 = 4 ∧ mpfPaylen 0x0A00000000000042 = 160 ∧
    mpfNeed 4 0x0A00000000000042 [] = 160 := by decide +kernel

/-- Compression: three ZRUN records fill a W2 block's 32 units within the third record's zeros. -/
theorem test_zrun : zrunUnits [(4, 3), (16, 2), (8, 1)] 0 32 =
    List.replicate 4 none ++ [some 0, some 1, some 2] ++ List.replicate 16 none ++ [some 3, some 4] ++ List.replicate 7 none := by
  decide +kernel

/-- Compression: the sparse segment with 16 bits set is 24 bytes long. -/
theorem test_spx : setBits 0x9090830448302061 = [0, 5, 6, 13, 20, 21, 27, 30, 34, 40, 41, 47, 52, 55, 60, 63] ∧
    spxExtent false false 0x9090830448302061 = 24 := by decide +kernel

/-- Table 7.5: RECIP at 2¹²⁷, RSQRT at −4, LOG at 1, EXP at 0. -/
theorem test_edges : (glossaryFn 4 (.fin (2 ^ 127) false)).1 = .fin 0 false ∧ (glossaryFn 5 (.fin (-4) false)).1 = .nan ∧
    (glossaryFn 3 (.fin 1 false)).1 = .fin 0 false ∧ (glossaryFn 1 (.fin 0 false)).1 = .fin 1 false := by decide +kernel

end Sys2Proof.Tests
end

section
/-! SUPPORT. Laws of the register paths (chapter 19; rules R6 to R12): what a host read and a host write through the BAR0 of a
function come to, for every path and every offset; each word's own law follows where an obligation needs it. -/

namespace Sys2Proof.Machine

/-! ### How an access ends -/

/-- A command that left the queue and the memory as they were, and made no store, ends in the state that it made. -/
theorem finish_of_clean {s t : State} (hp : t.pending = s.pending) (hm : t.mem = s.mem) (hw : t.wr = []) : finish s t = t := by
  cases t
  simp only at hp hm hw
  subst hp hm hw
  rfl

/-- An output puts nothing in the way of a clean end. -/
theorem finish_emit_of_clean {s t : State} (o : Out) (hp : t.pending = s.pending) (hm : t.mem = s.mem) (hw : t.wr = []) :
    finish s (emit t o) = emit t o := finish_of_clean hp hm hw

/-- A read of a register ends in the state that hostReadReg makes, where that is clean. -/
theorem rcFieldRead_yields {f : Fin 32} {off : BitVec 26} {ecc : List EccHit} {s t : State} {P : State → Prop}
    (ht : hostReadReg f off.toNat ecc s = t) (hp : t.pending = s.pending) (hm : t.mem = s.mem) (hw : t.wr = []) (hP : P t) :
    Yields (.rcFieldRead f off ecc) s P := by
  subst ht
  exact ⟨_, rfl, (finish_of_clean hp hm hw).symm ▸ hP⟩

/-- A write of a register is followed by what then happens at the stations. -/
theorem registerWrite_settles {f : Fin 32} {off : BitVec 26} {size : Nat} {v : W32} {s u : State} {P : State → Prop}
    (hu : registerWrite f off.toNat size v s = u) (hm : u.mem = s.mem) (hP : P u) :
    Yields (.registerWrite f off size v) s (Settles s P) := by
  subst hu
  exact ⟨_, rfl, _, rfl, hm, hP⟩

/-! ### Whether a BAR decodes the access -/

theorem barOpen_of_memSpace_off {s : State} {f : Nat} (h : (getPcie s f).memSpace = false) : barOpen s f = false := by
  simp [barOpen, h]

theorem closedBar_present {s : State} {f : Nat} (hl : s.pcie.linkUp = true) (hf : fnPresent s f = true) :
    closedBar f s = emit (s.setPcie { s.pcie with unsupported := s.pcie.unsupported + 1 }) (.aer .unsupported f) := by
  simp [closedBar, hl, hf]

theorem closedRead_present {s : State} {f : Nat} (hl : s.pcie.linkUp = true) (hf : fnPresent s f = true) :
    closedRead f s = emit (closedBar f s) (.unsupported f) := by
  simp [closedRead, hl, hf]

theorem hostReadReg_closed {s : State} {f : Nat} (off : Nat) (ecc : List EccHit) (h : barOpen s f = false) :
    hostReadReg f off ecc s = closedRead f s := by
  simp [hostReadReg, h]

theorem registerWrite_closed {s : State} {f : Nat} (off size : Nat) (v : W32) (h : barOpen s f = false) :
    registerWrite f off size v s = closedBar f s := by
  simp [registerWrite, h]

/-! ### Whether it waits -/

theorem hostReadReg_held {s : State} {off : Nat} (ecc : List EccHit) (ho : barOpen s 0 = true) (hw : windowAt s off = none)
    (hh : barHeld s = true) : hostReadReg 0 off ecc s = holdAcc s (.regRead (off / 4 * 4) ecc) := by
  simp [hostReadReg, ho, hw, hh]

theorem registerWrite_held {s : State} (off size : Nat) (v : W32) (ho : barOpen s 0 = true) (hh : barHeld s = true) :
    registerWrite 0 off size v s = holdAcc s (.regWrite off size v) := by
  simp [registerWrite, ho, hh]

theorem barWrite_held {s : State} (off : Nat) (v : W32) (g : State → State) (ho : barOpen s 0 = true) (hh : barHeld s = true) :
    barWrite off v g s = holdAcc s (.regWrite off 4 v) := by
  simp [barWrite, ho, hh]

theorem hostReadReg_open {s : State} {f off : Nat} (ecc : List EccHit) (ho : barOpen s f = true)
    (hw : f = 0 → windowAt s off = none) (hh : f = 0 → barHeld s = false) : hostReadReg f off ecc s = barRead f off ecc s := by
  by_cases hf : f = 0
  · subst hf
    simp [hostReadReg, ho, hw, hh]
  · simp [hostReadReg, ho, hf]

theorem registerWrite_open {s : State} {f : Nat} (off size : Nat) (v : W32) (ho : barOpen s f = true)
    (hh : f = 0 → barHeld s = false) : registerWrite f off size v s = writeReg (.bar f) off size v s := by
  by_cases hf : f = 0
  · subst hf
    simp [registerWrite, ho, hh]
  · simp [registerWrite, ho, hf]

/-! ### Which words a path reaches (rule R12) -/

/-- The SRAM windows begin and end at whole words. -/
theorem windowAt_word (s : State) (off : Nat) : (windowAt s (off / 4 * 4)).isSome = (windowAt s off).isSome := by
  unfold windowAt
  have hi : (0x2000000 ≤ off / 4 * 4 ∧ off / 4 * 4 < 0x3800000) = (0x2000000 ≤ off ∧ off < 0x3800000) := by
    simp only [eq_iff_iff]; omega
  simp only [hi]
  split <;> rfl

theorem windowAt_below (s : State) {off : Nat} (h : off < 0x2000000) : windowAt s off = none :=
  if_neg (by omega)

/-- Mailbox pages and queue mirrors begin and end at whole words. -/
theorem offsetFn_word (off : Nat) : offsetFn (off / 4 * 4) = offsetFn off := by
  have h1 : (off / 4 * 4 < 0x20000) = (off < 0x20000) := by simp only [eq_iff_iff]; omega
  have h2 : (0x100000 ≤ off / 4 * 4 ∧ off / 4 * 4 < 0x120000) = (0x100000 ≤ off ∧ off < 0x120000) := by
    simp only [eq_iff_iff]; omega
  have h3 : off / 4 * 4 / 0x1000 = off / 0x1000 := by omega
  have h4 : 0x100000 ≤ off → (off / 4 * 4 - 0x100000) / 0x1000 = (off - 0x100000) / 0x1000 := by omega
  simp only [offsetFn, h1, h2, h3]
  split
  · rfl
  · split
    · next h => rw [h4 h.1]
    · rfl

theorem reaches_vf {f : Nat} (hf : f ≠ 0) (off : Nat) : reaches (.bar f) off = (offsetFn off == some f) := by
  cases f with
  | zero => exact absurd rfl hf
  | succ f => rfl

theorem reaches_pf {off : Nat} (h : off < 0x1000 ∨ 0x20000 ≤ off) : reaches (.bar 0) off = true := by
  simp only [reaches, Bool.not_eq_true', decide_eq_false_iff_not]
  omega

/-- Every function reaches its own mailbox page and queue mirror. -/
theorem reaches_own {f off : Nat} (h : offsetFn off = some f) : reaches (.bar f) off = true := by
  by_cases hf : f = 0
  · subst hf
    refine reaches_pf ?_
    unfold offsetFn at h
    split at h
    · simp only [Option.some.injEq] at h; omega
    · omega
  · simp [reaches_vf hf, h]

theorem offsetFn_page {f o : Nat} (hf : f < 32) (ho : o < 0x1000) : offsetFn (0x1000 * f + o) = some f := by
  rw [offsetFn, if_pos (by omega)]; congr 1; omega

theorem offsetFn_mirror {f o : Nat} (hf : f < 32) (ho : o < 0x1000) : offsetFn (0x100000 + 0x1000 * f + o) = some f := by
  rw [offsetFn, if_neg (by omega), if_pos (by omega)]; congr 1; omega

/-! ### Reads and writes by a path -/

theorem readReg_reached {via : Via} {off : Nat} (s : State) (h : reaches via (off / 4 * 4) = true) :
    readReg via off s = (regValue s (off / 4 * 4), regRead via (off / 4 * 4) s) := by
  simp [readReg, h]

theorem readReg_unreached {via : Via} {off : Nat} (s : State) (h : reaches via (off / 4 * 4) = false) :
    readReg via off s = (0, s) := by
  simp [readReg, h]

/-- A read of any alignment is the read of its word (rule R9). -/
theorem readReg_word (via : Via) (off : Nat) (s : State) : readReg via (off / 4 * 4) s = readReg via off s := by
  have h : off / 4 * 4 / 4 * 4 = off / 4 * 4 := by omega
  simp only [readReg, h]

theorem writeReg_reached {via : Via} {off : Nat} (v : W32) (s : State) (ha : off % 4 = 0) (h : reaches via off = true) :
    writeReg via off 4 v s = regStore via off v s := if_pos ⟨rfl, ha, h⟩

theorem writeReg_unreached {via : Via} {off : Nat} (size : Nat) (v : W32) (s : State) (h : reaches via off = false) :
    writeReg via off size v s = s := if_neg (by simp [h])

/-- A write of another size or alignment is discarded (rule R9). -/
theorem writeReg_misaligned (via : Via) {off size : Nat} (v : W32) (s : State) (h : size ≠ 4 ∨ off % 4 ≠ 0) :
    writeReg via off size v s = s := if_neg fun ⟨h4, ha, _⟩ => h.elim (· h4) (· ha)

theorem barRead_ready {s : State} (f off : Nat) (h : s.desk.ready = true) :
    barRead f off [] s = emit (readReg (.bar f) off s).2 (.readData f (bytesOf 4 (readReg (.bar f) off s).1)) := by
  simp [barRead, h, addHits, forEach]

/-- Before READY a register reads as its reset value, and the read has no other effect (rule R409). -/
theorem barRead_notReady {s : State} (f off : Nat) (h : s.desk.ready = false) :
    barRead f off [] s = emit s (.readData f (bytesOf 4 (readReg (.bar f) off State.reset).1)) := by
  simp [barRead, h, addHits, forEach]

/-- A read of a mailbox page or a queue mirror changes the Desk at most (rule R438). -/
theorem regRead_own {via : Via} {off f : Nat} (s : State) (h : offsetFn off = some f) :
    ∃ d, regRead via off s = s.setDesk d := by
  unfold offsetFn at h
  unfold regRead
  split at h
  · next h1 => exact ⟨s.desk, if_pos h1⟩
  · next h1 =>
    split at h
    · next h2 =>
      rw [if_neg h1, if_neg (by omega), if_pos h2]
      unfold queClear
      simp only
      split
      · exact ⟨_, rfl⟩
      · exact ⟨s.desk, rfl⟩
    · exact absurd h (by simp)

end Sys2Proof.Machine
end

section
/-! Virtual functions (rule R12). -/

namespace Sys2Proof.Machine

/-- Settles O30: a virtual function's path reaches its own page and mirror alone (reaches_vf), and a read of these changes nothing
but the Desk (regRead_own). -/
theorem virtualFunctionsSeeTheirOwn : Obligations.VirtualFunctionsSeeTheirOwn := by
  intro f off s ⟨_, hwr⟩ hf ho
  have hf : f.val ≠ 0 := fun h => hf (Fin.ext h)
  have hread : hostReadReg f off.toNat [] s = barRead f off.toNat [] s :=
    hostReadReg_open [] ho (fun h => absurd h hf) (fun h => absurd h hf)
  constructor
  · intro hown
    have hword : offsetFn (off.toNat / 4 * 4) = some f.val := (offsetFn_word _).trans hown
    have hv := fun u => readReg_reached u (reaches_own hword)
    cases hr : s.desk.ready with
    | true =>
      obtain ⟨d, hd⟩ := regRead_own (via := .bar f) s hword
      rw [barRead_ready _ _ hr, hv, hd] at hread
      exact rcFieldRead_yields hread rfl rfl hwr rfl
    | false =>
      rw [barRead_notReady _ _ hr, hv] at hread
      exact rcFieldRead_yields hread rfl rfl hwr rfl
  · intro hother
    have hr : ∀ o, offsetFn o ≠ some f.val → reaches (.bar f) o = false := fun o h => by simpa [reaches_vf hf] using h
    constructor
    · have hv := fun u => readReg_unreached u (hr _ ((offsetFn_word _).symm ▸ hother))
      have hb : barRead f off.toNat [] s = emit s (.readData f (bytesOf 4 0)) := by
        cases hr : s.desk.ready with
        | true => rw [barRead_ready _ _ hr, hv]
        | false => rw [barRead_notReady _ _ hr, hv]
      exact rcFieldRead_yields (hread.trans hb) rfl rfl hwr rfl
    · intro size v
      refine registerWrite_settles ?_ rfl rfl
      rw [registerWrite_open _ _ _ ho fun h => absurd h hf, writeReg_unreached _ _ _ (hr _ hother)]

end Sys2Proof.Machine
end

section
/-! SUPPORT. Reads of the physical function that clear a counter or latch the high half of a pair (rules R6, R11), in the order of
the register map: the device blocks, the Wing windows, the queue mirrors. -/

namespace Sys2Proof.Machine

/-- A read of a word that the path reaches, with the Desk ready: its value goes out, and what the read does besides is done. -/
theorem hostReadReg_word {s : State} {f off : Nat} (ho : barOpen s f = true) (hr : s.desk.ready = true)
    (hh : f = 0 → barHeld s = false) (hw : off < 0x2000000) (ha : off % 4 = 0) (hf : reaches (.bar f) off = true) :
    hostReadReg f off [] s = emit (regRead (.bar f) off s) (.readData f (bytesOf 4 (regValue s off))) := by
  have hword : off / 4 * 4 = off := by omega
  rw [hostReadReg_open [] ho (fun _ => windowAt_below s hw) hh, barRead_ready _ _ hr, readReg_reached _ (hword.symm ▸ hf), hword]

/-- The same, as the command RC_FIELD_READ of the physical function; hc: what the read does is clean. -/
theorem exec_pfRead {s : State} {off : BitVec 26} (ho : barOpen s 0 = true) (hr : s.desk.ready = true) (hh : barHeld s = false)
    (hoff : off.toNat % 4 = 0 ∧ 0x20000 ≤ off.toNat ∧ off.toNat < 0x2000000)
    (hc : (regRead (.bar 0) off.toNat s).pending = s.pending ∧ (regRead (.bar 0) off.toNat s).mem = s.mem ∧
      (regRead (.bar 0) off.toNat s).wr = []) :
    exec (.rcFieldRead 0 off []) s =
      .next (emit (regRead (.bar 0) off.toNat s) (.readData 0 (bytesOf 4 (regValue s off.toNat)))) := by
  obtain ⟨ha, hlo, hhi⟩ := hoff
  obtain ⟨hp, hm, hw⟩ := hc
  show Host.Outcome.next (finish s (hostReadReg 0 off.toNat [] s)) = _
  rw [hostReadReg_word ho hr (fun _ => hh) hhi ha (reaches_pf (.inr hlo)), finish_emit_of_clean _ hp hm hw]

/-! ### The two pairs (rule R11): DSK_ACLOCK and RST_TICK_NUM -/

theorem regValue_clockLo (s : State) : regValue s 0x20210 = s.clk.now.toNat % 2 ^ 32 := rfl
theorem regValue_clockHi (s : State) : regValue s 0x20214 = s.clk.hi.toNat := rfl
theorem regValue_tickNumLo (s : State) : regValue s 0x202008 = s.tick.num.toNat % 2 ^ 32 := rfl
theorem regValue_tickNumHi (s : State) : regValue s 0x20200C = s.tick.numHi.toNat := rfl

theorem regRead_clockLo (via : Via) (s : State) :
    regRead via 0x20210 s = s.setClk { s.clk with hi := BitVec.ofNat 32 (s.clk.now.toNat / 2 ^ 32) } := rfl
theorem regRead_clockHi (via : Via) (s : State) : regRead via 0x20214 s = s := rfl
theorem regRead_tickNumLo (via : Via) (s : State) :
    regRead via 0x202008 s = s.setTick { s.tick with numHi := BitVec.ofNat 16 (s.tick.num.toNat / 2 ^ 32) } := rfl
theorem regRead_tickNumHi (via : Via) (s : State) : regRead via 0x20200C s = s := rfl

/-! ### Counters of the device blocks -/

/-- The offsets of the device's counters with access code RC that stand outside ports and Wings. -/
def counterOffsets : List (BitVec 26) :=
  [0x20000, 0x20004, 0x20008, 0x2000C, 0x202010, 0x202014, 0x300018, 0x30100C, 0x400008, 0x40000C, 0x400010, 0x403008, 0x403010,
    0x600010, 0x600014, 0x600018]

theorem counterOffsets_inMap : ∀ off ∈ counterOffsets, off.toNat % 4 = 0 ∧ 0x20000 ≤ off.toNat ∧ off.toNat < 0x2000000 := by
  simp [counterOffsets]

/-- t is s after a read has put out o and cleared the counter at off; only the counter's own block may differ otherwise. -/
structure CounterCleared (s t : State) (off : Nat) (o : Out) : Prop where
  value : regValue t off = 0
  out : t.out = s.out ++ [o]
  pending : t.pending = s.pending
  wr : t.wr = s.wr
  mem : t.mem = s.mem
  run : t.run = s.run
  units : t.units = s.units
  arrs : t.arrs = s.arrs
  tier : t.tier = s.tier
  desk : t.desk = s.desk
  rst : t.rst = s.rst
  clk : t.clk = s.clk

/-- A read of one of these counters clears it: each by its row in the register map. -/
theorem regRead_clears_counter (s : State) (o : Out) :
    ∀ off ∈ counterOffsets, CounterCleared s (emit (regRead (.bar 0) off.toNat s) o) off.toNat o := by
  simp only [counterOffsets, List.forall_mem_cons, BitVec.reduceToNat]
  refine ⟨?_, ?_, ?_, ?_, ?_, ?_, ?_, ?_, ?_, ?_, ?_, ?_, ?_, ?_, ?_, ?_, List.forall_mem_nil _⟩ <;>
    refine ⟨?_, rfl, rfl, rfl, rfl, rfl, rfl, rfl, rfl, rfl, rfl, rfl⟩ <;>
    simp [emit, regValue, regRead, deskWord, deskClear, rstWord, rstClear, pwrWord, pwrClear, relWord, relClear, fabWord, fabClear,
      fld]

/-! ### Counters of the arrays of a Wing -/

theorem regValue_wing (s : State) {w o : Nat} (hw : w < 32) (ho : o < 0x40000) :
    regValue s (0x800000 + 0x40000 * w + o) = wingWord s w o := by
  have hq : (0x800000 + 0x40000 * w + o - 0x800000) / 0x40000 = w := by omega
  have hm : (0x800000 + 0x40000 * w + o) % 0x40000 = o := by omega
  simp (disch := omega) only [regValue, hq, hm, if_neg, if_pos]

theorem regRead_wing (via : Via) (s : State) {w o : Nat} (hw : w < 32) (ho : o < 0x40000) :
    regRead via (0x800000 + 0x40000 * w + o) s = wingClear s w o := by
  have hq : (0x800000 + 0x40000 * w + o - 0x800000) / 0x40000 = w := by omega
  have hm : (0x800000 + 0x40000 * w + o) % 0x40000 = o := by omega
  simp (disch := omega) only [regRead, hq, hm, if_neg, if_pos]

/-- The word at offset o of the window of Wing w shows a counter of its array a, which value reads and clear clears. -/
structure ArrayCounter (w a o : Nat) (value : Arr → Nat) (clear : Arr → Arr) : Prop where
  word : ∀ s, wingReach s w = true → wingWord s w o = value (getArr s w a)
  read : ∀ s, wingReach s w = true → wingClear s w o = modArr s w a clear
  zero : ∀ y, value (clear y) = 0

/-- Tables 3.9 to 3.13. -/
theorem arrayCounter_stat {w a r o : Nat} (ha : a < 33) (hr : r < 0x20) (ho : o = 0x30000 + 0x20 * a + r)
    (hz : ∀ y, arrStatWord (arrStatClear y r) r = 0) : ArrayCounter w a o (arrStatWord · r) (arrStatClear · r) := by
  have hq : (o - 0x30000) / 0x20 = a := by omega
  have hm : o % 0x20 = r := by omega
  refine ⟨fun s h => ?_, fun s h => ?_, hz⟩
  · simp (disch := omega) only [wingWord, h, Bool.not_true, Bool.false_eq_true, if_false, hq, hm, if_neg, if_pos]
  · simp (disch := omega) only [wingClear, h, Bool.not_true, Bool.false_eq_true, if_false, hq, hm, if_neg, if_pos]

/-- Tables 4.13 and 4.14, where value is the counter that the word shows. -/
theorem arrayCounter_group {w a r o : Nat} {value : Arr → Nat} (ha : a < 33) (hr : r < 0x20) (ho : o = 0x32000 + 0x20 * a + r)
    (hv : ∀ s, arrGroupWord s w a r = value (getArr s w a)) (hz : ∀ y, value (arrGroupClear y r) = 0) :
    ArrayCounter w a o value (arrGroupClear · r) := by
  have hq : (o - 0x32000) / 0x20 = a := by omega
  have hm : o % 0x20 = r := by omega
  refine ⟨fun s h => ?_, fun s h => ?_, hz⟩
  · simp (disch := omega) only [wingWord, h, Bool.not_true, Bool.false_eq_true, if_false, hq, hm, hv, if_neg, if_pos]
  · simp (disch := omega) only [wingClear, h, Bool.not_true, Bool.false_eq_true, if_false, hq, hm, if_neg, if_pos]

/-- Tables 6.10 and 6.11. -/
theorem arrayCounter_slip {w a r o : Nat} (ha : a < 33) (hr : r < 0x10) (ho : o = 0x34000 + 0x10 * a + r)
    (hz : ∀ y, arrSlipWord (arrSlipClear y r) r = 0) : ArrayCounter w a o (arrSlipWord · r) (arrSlipClear · r) := by
  have hq : (o - 0x34000) / 0x10 = a := by omega
  have hm : o % 0x10 = r := by omega
  refine ⟨fun s h => ?_, fun s h => ?_, hz⟩
  · simp (disch := omega) only [wingWord, h, Bool.not_true, Bool.false_eq_true, if_false, hq, hm, if_neg, if_pos]
  · simp (disch := omega) only [wingClear, h, Bool.not_true, Bool.false_eq_true, if_false, hq, hm, if_neg, if_pos]

/-- Every counter of array a of Wing w. -/
theorem arrayCounter_of_mem (w a : Nat) (ha : a < 33) :
    ∀ o ∈ [0x30000 + 0x20 * a, 0x30004 + 0x20 * a, 0x30008 + 0x20 * a, 0x3000C + 0x20 * a, 0x30010 + 0x20 * a,
      0x32004 + 0x20 * a, 0x32008 + 0x20 * a, 0x34004 + 0x10 * a, 0x34008 + 0x10 * a],
      (o % 4 = 0 ∧ o < 0x40000) ∧ ∃ value clear, ArrayCounter w a o value clear := by
  simp only [List.forall_mem_cons]
  refine ⟨⟨by omega, ?_⟩, ⟨by omega, ?_⟩, ⟨by omega, ?_⟩, ⟨by omega, ?_⟩, ⟨by omega, ?_⟩, ⟨by omega, ?_⟩, ⟨by omega, ?_⟩,
    ⟨by omega, ?_⟩, ⟨by omega, ?_⟩, List.forall_mem_nil _⟩
  · exact ⟨_, _, arrayCounter_stat (r := 0x00) ha (by omega) (by omega) fun _ => rfl⟩
  · exact ⟨_, _, arrayCounter_stat (r := 0x04) ha (by omega) (by omega) fun _ => rfl⟩
  · exact ⟨_, _, arrayCounter_stat (r := 0x08) ha (by omega) (by omega) fun _ => rfl⟩
  · exact ⟨_, _, arrayCounter_stat (r := 0x0C) ha (by omega) (by omega) fun _ => rfl⟩
  · exact ⟨_, _, arrayCounter_stat (r := 0x10) ha (by omega) (by omega) fun _ => rfl⟩
  · exact ⟨_, _, arrayCounter_group (r := 0x04) (value := (·.ownFaults.toNat)) ha (by omega) (by omega) (fun _ => rfl)
      fun _ => rfl⟩
  · exact ⟨_, _, arrayCounter_group (r := 0x08) (value := (·.checkErrs.toNat)) ha (by omega) (by omega) (fun _ => rfl)
      fun _ => rfl⟩
  · exact ⟨_, _, arrayCounter_slip (r := 0x4) ha (by omega) (by omega) fun _ => rfl⟩
  · exact ⟨_, _, arrayCounter_slip (r := 0x8) ha (by omega) (by omega) fun _ => rfl⟩

/-- A read of an array's counter returns it, leaves it 0, and changes that array alone. -/
theorem pfRead_arrayCounter {s : State} {w a o : Nat} {value : Arr → Nat} {clear : Arr → Arr}
    (hc : ArrayCounter w a o value clear) (hs : Tidy s) (hb : barOpen s 0 = true) (hr : s.desk.ready = true)
    (hh : barHeld s = false) (hw : w < 32) (hreach : wingReach s w = true) (ho : o % 4 = 0 ∧ o < 0x40000) :
    Yields (.rcFieldRead 0 (BitVec.ofNat 26 (0x800000 + 0x40000 * w + o)) []) s fun t =>
      t.out = s.out ++ [.readData 0 (bytesOf 4 (wingWord s w o))] ∧ wingWord t w o = 0 ∧
        t = { s with out := t.out, arrs := { s.arrs with arr := t.arrs.arr } } := by
  obtain ⟨ha, hlt⟩ := ho
  have hoff : (BitVec.ofNat 26 (0x800000 + 0x40000 * w + o)).toNat = 0x800000 + 0x40000 * w + o := by
    rw [BitVec.toNat_ofNat]; omega
  have hread := (regRead_wing (.bar 0) s hw hlt).trans (hc.read s hreach)
  refine ⟨_, exec_pfRead hb hr hh (by omega) ?_, ?_⟩
  · rw [hoff, hread]
    exact ⟨rfl, rfl, hs.2⟩
  · rw [hoff, hread, regValue_wing s hw hlt]
    refine ⟨rfl, ?_, rfl⟩
    have hget : ∀ d, getArr (emit (modArr s w a clear) d) w a = clear (getArr s w a) := fun d => getArr_setArr ..
    have hkeeps : ∀ d, wingReach (emit (modArr s w a clear) d) w = true := fun _ => hreach
    rw [hc.word _ (hkeeps _), hget, hc.zero]

/-! ### Queue mirrors -/

theorem regValue_mirror (s : State) {f j i : Nat} (hf : f < 32) (hj : j < 32) (hi : i < 32) :
    regValue s (0x100000 + 0x1000 * f + 0x80 * j + 4 * i) = (mirrorWords s (32 * f + j)).getD i 0 := by
  have h1 : (0x100000 + 0x1000 * f + 0x80 * j + 4 * i - 0x100000) / 0x1000 = f := by omega
  have h2 : (0x100000 + 0x1000 * f + 0x80 * j + 4 * i) % 0x1000 / 0x80 = j := by omega
  have h3 : (0x100000 + 0x1000 * f + 0x80 * j + 4 * i) % 0x80 / 4 = i := by omega
  simp (disch := omega) only [regValue, h1, h2, h3, if_neg, if_pos]

/-- QUE_LOST_EVENTS of queue j of function f is cleared only through that function's own BAR0 (rule R438). -/
theorem regRead_lostEvents (via : Via) (s : State) {f j : Nat} (hf : f < 32) (hj : j < 32) :
    regRead via (0x100000 + 0x1000 * f + 0x80 * j + 0x14) s =
      if via = .bar f then modQ s (32 * f + j) fun x => { x with lostEvents := 0 } else s := by
  have h1 : (0x100000 + 0x1000 * f + 0x80 * j + 0x14 - 0x100000) / 0x1000 = f := by omega
  have h2 : (0x100000 + 0x1000 * f + 0x80 * j + 0x14) % 0x1000 / 0x80 = j := by omega
  have h3 : (0x100000 + 0x1000 * f + 0x80 * j + 0x14) % 0x80 = 0x14 := by omega
  simp (disch := omega) only [regRead, queClear, h1, h2, h3, true_and, if_neg, if_pos]

end Sys2Proof.Machine
end

section
/-! Reads (rules R6, R9, R11). -/

namespace Sys2Proof.Machine

/-- A read that decodes nothing, waits, or comes before READY. -/
theorem rcFieldRead_unserved (f : Fin 32) (off : BitVec 26) (s : State) (hs : Tidy s) :
    (s.pcie.linkUp = true → fnPresent s f = true → (getPcie s f).memSpace = false → Yields (.rcFieldRead f off []) s fun t =>
      t = { s with pcie := { s.pcie with unsupported := s.pcie.unsupported + 1 },
                   out := s.out ++ [.aer .unsupported f, .unsupported f] }) ∧
    (barOpen s f = true → (f.val = 0 → windowAt s off.toNat = none) →
      (f.val = 0 → barHeld s = true → Yields (.rcFieldRead f off []) s fun t => t = holdAcc s (.regRead (off.toNat / 4 * 4) [])) ∧
      ((f.val = 0 → barHeld s = false) → s.desk.ready = false → Yields (.rcFieldRead f off []) s fun t =>
        ∃ v, v = (readReg (.bar f) off.toNat State.reset).1 ∧ t = { s with out := s.out ++ [.readData f (bytesOf 4 v)] })) := by
  refine ⟨fun hl hp hm => ?_, fun ho hw => ⟨fun hf hh => ?_, fun hh hr => ?_⟩⟩
  · refine rcFieldRead_yields (hostReadReg_closed _ _ (barOpen_of_memSpace_off hm)) ?_ ?_ ?_ ?_ <;>
      rw [closedRead_present hl hp, closedBar_present hl hp]
    · rfl
    · rfl
    · exact hs.2
    · simp [emit, State.setOut, State.setPcie]
  · have hread : hostReadReg f off.toNat [] s = holdAcc s (.regRead (off.toNat / 4 * 4) []) := by
      rw [hf] at ho ⊢
      exact hostReadReg_held [] ho (hw hf) hh
    exact rcFieldRead_yields hread rfl rfl hs.2 rfl
  · have hread := hostReadReg_open (s := s) [] ho hw hh
    rw [barRead_notReady _ _ hr] at hread
    exact rcFieldRead_yields hread rfl rfl hs.2 ⟨_, rfl, rfl⟩

/-- A read of QUE_LOST_EVENTS through the physical function or the owner. -/
theorem queLostEventsRead_yields (f : Fin 32) (q : Fin 1024) (s : State) (hs : Tidy s) (ho : barOpen s f = true)
    (hr : s.desk.ready = true) (hh : f.val = 0 → barHeld s = false) (hf : f.val = 0 ∨ f.val = q.val / 32) :
    Yields (.queLostEventsRead f q) s fun t =>
      t = { s with
        out := s.out ++ [.readData f (bytesOf 4 (getQ s q).lostEvents.toNat)]
        desk := { s.desk with queues :=
          if f.val = q.val / 32 then tabSet Queue.reset s.desk.queues q { getQ s q with lostEvents := 0 } else s.desk.queues } } := by
  have hg : q.val / 32 < 32 := by omega
  have hj : q.val % 32 < 32 := by omega
  have hq : 32 * (q.val / 32) + q.val % 32 = q.val := by omega
  have hreach : reaches (.bar f) (0x100000 + 0x1000 * (q.val / 32) + 0x80 * (q.val % 32) + 0x14) = true := by
    rcases hf with hf | hf
    · rw [hf]; exact reaches_pf (by omega)
    · rw [hf, Nat.add_assoc]; exact reaches_own (offsetFn_mirror hg (by omega))
  have hv : regValue s (0x100000 + 0x1000 * (q.val / 32) + 0x80 * (q.val % 32) + 0x14) = (getQ s q).lostEvents.toNat := by
    rw [regValue_mirror s (i := 5) hg hj (by omega), hq]; rfl
  have hread := hostReadReg_word ho hr hh (by omega) (by omega) hreach
  rw [hv, regRead_lostEvents _ _ hg hj, hq] at hread
  refine ⟨_, rfl, ?_⟩
  rw [hread]
  by_cases hown : f.val = q.val / 32
  · rw [if_pos (congrArg Via.bar hown), if_pos hown]
    exact finish_emit_of_clean _ rfl rfl hs.2
  · rw [if_neg fun h => hown (Via.bar.inj h), if_neg hown]
    exact finish_emit_of_clean _ rfl rfl hs.2

/-- Settles O31: a read of a word is regValue and regRead of it (hostReadReg_word), and each register's row of the map says what
these are. -/
theorem registerReads : Obligations.RegisterReads := by
  refine ⟨fun f off ecc s => ?_, rcFieldRead_unserved, fun s hs ho hr hh => ?_, queLostEventsRead_yields⟩
  · have hoff : (BitVec.ofNat 26 (off.toNat / 4 * 4)).toNat = off.toNat / 4 * 4 := by
      rw [BitVec.toNat_ofNat]; omega
    have hword : off.toNat / 4 * 4 / 4 * 4 = off.toNat / 4 * 4 := by omega
    have hread : hostReadReg f off.toNat ecc s = hostReadReg f (off.toNat / 4 * 4) ecc s := by
      simp only [hostReadReg, barRead, readReg_word, windowAt_word, hword]
    show Host.Outcome.next (finish s (hostReadReg f off.toNat ecc s)) = .next (finish s (hostReadReg f (BitVec.toNat _) ecc s))
    rw [hoff, hread]
  · refine ⟨fun off hoff => ?_, fun w a hw o ho' => ?_, ?_, ?_, ?_⟩
    · have hc := regRead_clears_counter s (.readData 0 (bytesOf 4 (regValue s off.toNat))) off hoff
      exact ⟨_, exec_pfRead ho hr hh (counterOffsets_inMap off hoff) ⟨hc.pending, hc.mem, hc.wr.trans hs.2⟩,
        hc.out, hc.value, hc.mem, hc.run, hc.units, hc.arrs, hc.tier, hc.desk, hc.rst, hc.clk⟩
    · obtain ⟨hin, value, clear, hc⟩ := arrayCounter_of_mem w a a.isLt o ho'
      exact pfRead_arrayCounter hc hs ho hr hh w.isLt hw hin
    · have hlo := exec_pfRead (off := 0x20210) ho hr hh (by simp) ⟨rfl, rfl, hs.2⟩
      simp only [BitVec.reduceToNat, regRead_clockLo, regValue_clockLo] at hlo
      exact List.forall_mem_cons.2 ⟨⟨_, hlo, rfl⟩, List.forall_mem_singleton.2 ⟨_, hlo, rfl⟩⟩
    · have hlo := exec_pfRead (off := 0x202008) ho hr hh (by simp) ⟨rfl, rfl, hs.2⟩
      simp only [BitVec.reduceToNat, regRead_tickNumLo, regValue_tickNumLo] at hlo
      exact List.forall_mem_cons.2 ⟨⟨_, hlo, rfl⟩, List.forall_mem_singleton.2 ⟨_, hlo, rfl⟩⟩
    · have hnow := exec_pfRead (off := 0x20214) ho hr hh (by simp) ⟨rfl, rfl, hs.2⟩
      have hnum := exec_pfRead (off := 0x20200C) ho hr hh (by simp) ⟨rfl, rfl, hs.2⟩
      simp only [BitVec.reduceToNat, regRead_clockHi, regValue_clockHi, regRead_tickNumHi, regValue_tickNumHi] at hnow hnum
      exact List.forall_mem_cons.2 ⟨⟨_, hnow, rfl⟩, List.forall_mem_singleton.2 ⟨_, hnum, rfl⟩⟩

end Sys2Proof.Machine
end

section
/-! SUPPORT. Writes by way of the register map: mailbox pages, backup registers, and the two writes that have more than their own
register as effect, DSK_FN_EVENT_EN (rule R287) and REL_PERT_CTL (rules R381, R382). -/

namespace Sys2Proof.Machine

/-- A write of a whole word that the path reaches. -/
theorem registerWrite_word {s : State} {f off : Nat} (v : W32) (ho : barOpen s f = true) (hh : f = 0 → barHeld s = false)
    (ha : off % 4 = 0) (hf : reaches (.bar f) off = true) : registerWrite f off 4 v s = regStore (.bar f) off v s := by
  rw [registerWrite_open _ _ _ ho hh, writeReg_reached _ _ ha hf]

/-! ### Mailbox pages -/

theorem regStore_page (via : Via) (v : W32) (s : State) {f k o : Nat} (hf : f < 32) (hk : k < 8) (ho : o < 0x200) :
    regStore via (0x1000 * f + 0x200 * k + o) v s = pageStore s f k o v := by
  have h1 : (0x1000 * f + 0x200 * k + o) / 0x1000 = f := by omega
  have h2 : (0x1000 * f + 0x200 * k + o) % 0x1000 / 0x200 = k := by omega
  have h3 : (0x1000 * f + 0x200 * k + o) % 0x200 = o := by omega
  simp (disch := omega) only [regStore, h1, h2, h3, if_pos]

/-- A write in a function's own mailbox page. -/
theorem registerWrite_page {s : State} {f k o : Nat} (v : W32) (ho : barOpen s f = true) (hh : f = 0 → barHeld s = false)
    (hf : f < 32) (hk : k < 8) (hlt : o < 0x200) (ha : o % 4 = 0) :
    registerWrite f (0x1000 * f + 0x200 * k + o) 4 v s = pageStore s f k o v := by
  rw [registerWrite_word v ho hh (by omega) (reaches_own (by rw [Nat.add_assoc]; exact offsetFn_page hf (by omega))),
    regStore_page _ v s hf hk hlt]

theorem page_toNat {f k o : Nat} (hf : f < 32) (hk : k < 8) (ho : o < 0x200) :
    (BitVec.ofNat 26 (0x1000 * f + 0x200 * k + o)).toNat = 0x1000 * f + 0x200 * k + o := by
  rw [BitVec.toNat_ofNat]; omega

/-- The same, as the command REGISTER_WRITE. -/
theorem pageWrite_settles {s : State} {f : Fin 32} {k : Fin 8} {o : Nat} {v : W32} {P : State → Prop} (ho : barOpen s f = true)
    (hh : f.val = 0 → barHeld s = false) (hlt : o < 0x200) (ha : o % 4 = 0) (hm : (pageStore s f k o v).mem = s.mem)
    (hP : P (pageStore s f k o v)) :
    Yields (.registerWrite f (BitVec.ofNat 26 (0x1000 * f + 0x200 * k + o)) 4 v) s (Settles s P) := by
  refine registerWrite_settles ?_ hm hP
  rw [page_toNat f.isLt k.isLt hlt, registerWrite_page v ho hh f.isLt k.isLt hlt ha]

/-- The request area is closed while the mailbox is BUSY (rule R262). -/
theorem pageStore_request (s : State) (f k : Nat) {i : Nat} (v : W32) (hi : i < 64) :
    pageStore s f k (4 * i) v =
      if (getMb s f k).state = 1 then s else setMb s f k { getMb s f k with req := tabSet 0 (getMb s f k).req i v } := by
  have hq : 4 * i / 4 = i := by omega
  simp (disch := omega) only [pageStore, modMb, hq, if_pos]

/-- A mailbox whose request GO submits. -/
def submitted (s : State) (f k : Nat) : Mbox := { getMb s f k with state := 1, taken := false, order := s.desk.goOrder }

/-- GO, of a mailbox that may take it (rule R264). -/
theorem pageStore_go {s : State} {f k : Nat} {v : W32} (hv : bit 31 v.toNat = true) (hb : (getMb s f k).state ≠ 1)
    (hr : s.desk.ready = true) :
    pageStore s f k 0x1E0 v =
      s.setDesk { (setMb s f k (submitted s f k)).desk with goOrder := s.desk.goOrder + 1 } := by
  have hgo : (decide ((getMb s f k).state = 1) || !s.desk.ready) = false := by rw [decide_eq_false hb, hr]; rfl
  show (if bit 31 v.toNat then mbGo s f k else s) = _
  rw [if_pos hv, mbGo, hgo]
  rfl

/-! ### Backup registers -/

theorem regStore_backup (via : Via) (v : W32) (s : State) {i : Nat} (hi : i < 16) :
    regStore via (0x200100 + 4 * i) v s = s.setRst { s.rst with backup := tabSet 0 s.rst.backup i v } := by
  have h1 : 0x200100 + 4 * i - 0x200000 = 0x100 + 4 * i := by omega
  have h2 : (0x100 + 4 * i - 0x100) / 4 = i := by omega
  simp (disch := omega) only [regStore, rstStore, h1, h2, if_neg, if_pos]

/-! ### DSK_FN_EVENT_EN -/

/-- The vector of a function goes out, or waits as its pending bit; neither touches the Desk (rules R287, R407). -/
theorem fireMsix_sent {s : State} {f : Nat} (h : (hostBlocked s f || (getPcie s f).masked) = false) :
    fireMsix s f = emit s (.msix f (getPcie s f).msixAddr (getPcie s f).msixData) := by
  rw [fireMsix, h]; rfl

theorem fireMsix_pending {s : State} {f : Nat} (h : (hostBlocked s f || (getPcie s f).masked) = true) :
    fireMsix s f = modPcie s f fun p => { p with pending := true } := by
  rw [fireMsix, h]; rfl

/-- Whether an enabled bit of DSK_FN_EVENT is 1. -/
def eventShows (x : FnReg) : Bool := (x.cblockedEn && x.cblocked) || (x.haltedEn && x.halted) || (x.mgmtEn && x.mgmt)

/-- The registers of function f with DSK_FN_EVENT_EN written: MGMT_EN is the physical function's alone. -/
def enabledFn (s : State) (f n : Nat) : FnReg :=
  { getFn s f with cblockedEn := bit 31 n, haltedEn := bit 30 n, mgmtEn := bit 29 n && decide (f = 0) }

theorem fnEnableWrite_eq (s : State) (f n : Nat) :
    fnEnableWrite s f n =
      if eventShows (enabledFn s f n) then fireMsix (setFn s f (enabledFn s f n)) f else setFn s f (enabledFn s f n) := rfl

/-- What a write of DSK_FN_EVENT_EN does: the vector fires when an enabled bit is 1 (rule R287). -/
theorem fnEnableWrite_effect (s : State) (f n : Nat) :
    let x := enabledFn s f n
    let t := fnEnableWrite s f n
    let sent := eventShows x && !(hostBlocked s f || (getPcie s f).masked)
    getFn t f = x ∧ (∀ g, g ≠ f → getFn t g = getFn s g) ∧
      t = { s with desk := { s.desk with fnReg := t.desk.fnReg }, out := t.out, pcie := t.pcie } ∧
      t.out = (if sent = true then s.out ++ [.msix f (getPcie s f).msixAddr (getPcie s f).msixData] else s.out) ∧
      (getPcie t f).pending = ((getPcie s f).pending || (eventShows x && !sent)) := by
  intro x t sent
  have hx : getFn (setFn s f x) f = x := getFn_setFn ..
  have hne : ∀ g, g ≠ f → getFn (setFn s f x) g = getFn s g := fun g hg => getFn_setFn_ne s x (Ne.symm hg)
  have ht : t = if eventShows x then fireMsix (setFn s f x) f else setFn s f x := fnEnableWrite_eq s f n
  clear_value x t
  cases hshow : eventShows x with
  | false =>
    rw [hshow, if_neg Bool.false_ne_true] at ht
    subst ht
    exact ⟨hx, hne, rfl, by simp [sent, hshow, setFn], by simp [getPcie, setFn]⟩
  | true =>
    rw [hshow, if_pos rfl] at ht
    cases hblock : hostBlocked s f || (getPcie s f).masked with
    | false =>
      rw [fireMsix_sent (s := setFn s f x) hblock] at ht
      subst ht
      refine ⟨hx, hne, rfl, ?_, ?_⟩
      · simp [sent, hshow, hblock]; rfl
      · simp [sent, hshow, hblock]; rfl
    | true =>
      rw [fireMsix_pending (s := setFn s f x) hblock] at ht
      subst ht
      refine ⟨hx, hne, rfl, ?_, ?_⟩
      · simp [sent, hshow, hblock]; rfl
      · simp [sent, hshow, hblock, modPcie]

/-! ### REL_PERT_CTL -/

/-- A record in the log changes the registers of the log alone. -/
theorem logPush_eq (s : State) (src event : Nat) (data : List Nat) :
    ∃ r : Rel, logPush s src event data = s.setRel r ∧ r.pert = s.rel.pert := by
  unfold logPush
  simp only
  split
  · split
    · exact ⟨_, rfl, rfl⟩
    · exact ⟨_, rfl, rfl⟩
  · split
    · exact ⟨_, rfl, rfl⟩
    · exact ⟨_, rfl, rfl⟩

/-- A table whose values are mapped, by a map that keeps the default. -/
theorem tabGet_map {α : Type} (d : α) (g : α → α) (hg : g d = d) (t : Tab α) (i : Nat) :
    tabGet d (t.map fun x => (x.1, g x.2)) i = g (tabGet d t i) := by
  induction t with
  | nil => exact hg.symm
  | cons c t ih =>
    obtain ⟨k, v⟩ := c
    simp only [List.map_cons, tabGet, ih]
    split <;> rfl

/-- A round once the guarantee is off for every C0 round that runs or is suspended. -/
def markLost (r : Round) : Round :=
  if r.cls = 0 && (r.state == .running || r.state == .suspended) then { r with lostGuarantee := true } else r

theorem markLost_lost {r : Round} (hc : (markLost r).cls = 0)
    (hs : (markLost r).state = .running ∨ (markLost r).state = .suspended) : (markLost r).lostGuarantee = true := by
  by_cases h : (decide (r.cls = 0) && (r.state == .running || r.state == .suspended)) = true
  · rw [markLost, if_pos h]
  · rw [markLost, if_neg h] at hc hs
    exact absurd (by rcases hs with hs | hs <;> rw [decide_eq_true hc, hs] <;> rfl) h

theorem getQ_loseC0 (s : State) (q : Nat) :
    getQ (loseC0 s) q = { getQ s q with rounds := (getQ s q).rounds.map markLost } :=
  tabGet_map Queue.reset (fun x => { x with rounds := x.rounds.map markLost }) rfl s.desk.queues q

/-- Every C0 round that runs or is suspended has lost the guarantee. -/
def C0Lost (s : State) : Prop :=
  ∀ q, ∀ r ∈ (getQ s q).rounds, r.cls = 0 → r.state = .running ∨ r.state = .suspended → r.lostGuarantee = true

theorem loseC0_lost (s : State) : C0Lost (loseC0 s) := by
  intro q r hr
  rw [getQ_loseC0] at hr
  obtain ⟨r', _, rfl⟩ := List.mem_map.1 hr
  exact markLost_lost

/-- While a perturbation is on, C0 rounds have no guarantee. -/
def lostWhilePerturbed (s : State) : State := if pertActive s then loseC0 s else s

theorem lostWhilePerturbed_eq (s : State) : ∃ d, lostWhilePerturbed s = s.setDesk d := by
  unfold lostWhilePerturbed
  split
  · exact ⟨_, rfl⟩
  · exact ⟨s.desk, rfl⟩

theorem lostWhilePerturbed_lost {s : State} (h : pertActive s = true) : C0Lost (lostWhilePerturbed s) := by
  rw [lostWhilePerturbed, if_pos h]
  exact loseC0_lost s

/-- The perturbation registers after a keyed write of n, and the generator before a delay is drawn. -/
def pertWritten (n : Nat) (p : Pert) : Pert :=
  { p with cred := bit 4 n, compl := bit 3 n, tick := bit 2 n, station := bit 1 n,
           gen := if bit 2 n && !p.tick then (if p.seed = 0 then 0x6D2B79F5 else p.seed) else p.gen }

/-- A keyed write, and the delay that it draws, before it shows at the rounds and in the log. -/
def pertDrawn (n : Nat) (s : State) : State :=
  let t := s.setRel { s.rel with pert := pertWritten n s.rel.pert }
  if bit 2 n = s.rel.pert.tick then t else drawJitter t

/-- Whether a write sets TICK_EN, which was 0. -/
def tickFresh (n : Nat) (p : Pert) : Bool := decide (bit 2 n = true ∧ p.tick = false)

/-- The generator after a write: a fresh TICK_EN loads it and draws once (rule R382). -/
def pertGen (n : Nat) (p : Pert) : W32 :=
  if tickFresh n p = true then drawNext (if p.seed = 0 then 0x6D2B79F5 else p.seed) else p.gen

/-- The delay of the next boundary after a write (rule R382). -/
def pertJitter (n : Nat) (s : State) : Nat :=
  if tickFresh n s.rel.pert = true then
    1000 * ((pertGen n s.rel.pert).toNat % (min s.rel.pert.jitter.toNat (min (s.tick.period.toNat / 4) 1000) + 1))
  else if bit 2 n = s.rel.pert.tick then s.tick.jitter else 0

/-- What a keyed write loads and draws, by whether TICK_EN is set, cleared or kept. -/
theorem pertDrawn_eq (n : Nat) (s : State) :
    pertDrawn n s =
      (s.setRel { s.rel with pert := { s.rel.pert with
        cred := bit 4 n, compl := bit 3 n, tick := bit 2 n, station := bit 1 n, gen := pertGen n s.rel.pert } }).setTick
          { s.tick with jitter := pertJitter n s } := by
  unfold pertDrawn pertJitter pertGen pertWritten tickFresh
  cases hnew : bit 2 n
  case true =>
    cases hold : s.rel.pert.tick
    case true => simp [State.setRel, State.setTick]
    case false => simp [drawJitter, State.setRel, State.setTick]
  case false =>
    cases hold : s.rel.pert.tick
    case true => simp [drawJitter, State.setRel, State.setTick]
    case false => simp [State.setRel, State.setTick]

theorem pertCtlWrite_refused {n : Nat} {s : State} (h : bits 31 24 n ≠ 0xA5 ∨ pertPermitted s = false) : pertCtlWrite n s = s :=
  if_pos (by simpa using h)

/-- What a keyed write does to the guarantee and to the log, beside its registers and the delay (rules R381, R382). -/
theorem pertCtlWrite_keyed {n : Nat} {s : State} (hk : bits 31 24 n = 0xA5) (hp : pertPermitted s = true) :
    ∃ d r, pertCtlWrite n s = ((pertDrawn n s).setDesk d).setRel r ∧ r.pert = (pertDrawn n s).rel.pert ∧
      (pertActive (pertDrawn n s) = true → C0Lost (pertCtlWrite n s)) := by
  have hkeyed : (decide (bits 31 24 n ≠ 0xA5) || !pertPermitted s) = false := by simp [hk, hp]
  let u := lostWhilePerturbed (pertDrawn n s)
  have hwrite : pertCtlWrite n s =
      if pertCtlWord u = pertCtlWord s then u else logPush u (logSrc 9 0) 0x0030 [pertCtlWord u] := by
    rw [pertCtlWrite, hkeyed]; rfl
  have hlog : ∃ r, pertCtlWrite n s = u.setRel r ∧ r.pert = u.rel.pert := by
    rw [hwrite]
    split
    · exact ⟨u.rel, rfl, rfl⟩
    · exact logPush_eq ..
  obtain ⟨r, hr, hpert⟩ := hlog
  obtain ⟨d, hd⟩ := lostWhilePerturbed_eq (pertDrawn n s)
  refine ⟨d, r, ?_, ?_, fun hact => ?_⟩
  · rw [hr, ← hd]
  · rw [hpert]
    exact congrArg (·.rel.pert) hd
  · rw [hr]
    exact lostWhilePerturbed_lost hact

end Sys2Proof.Machine
end

section
/-! Writes (rules R9, R287, R381, R382, R407, R408). -/

namespace Sys2Proof.Machine

/-- A write that decodes nothing, or waits. -/
theorem registerWrite_unserved (f : Fin 32) (off : BitVec 26) (size : Nat) (v : W32) (s : State) (hs : Tidy s) :
    (s.pcie.linkUp = true → fnPresent s f = true → (getPcie s f).memSpace = false →
      Yields (.registerWrite f off size v) s (Settles s fun u =>
        u = { s with pcie := { s.pcie with unsupported := s.pcie.unsupported + 1 }, out := s.out ++ [.aer .unsupported f] })) ∧
    (barOpen s 0 = true → barHeld s = true →
      (f.val = 0 → Yields (.registerWrite f off size v) s (Settles s fun u => u = holdAcc s (.regWrite off.toNat size v))) ∧
      (∀ c ∈ [(1, Instr.swResetL1 v), (2, .swResetL2 v), (3, .swResetL3 v)], bits 23 22 v.toNat = c.1 →
        Yields c.2 s (Settles s fun u => u = holdAcc s (.regWrite 0x200004 4 v))) ∧
      (Yields .hostGo s fun t => t = holdAcc s (.regWrite 0x200014 4 0x80000000))) := by
  refine ⟨fun hl hp hm => ?_, fun ho hh => ⟨fun hf => ?_, ?_, ?_⟩⟩
  · have hw := (registerWrite_closed off.toNat size v (barOpen_of_memSpace_off hm)).trans (closedBar_present hl hp)
    exact registerWrite_settles hw rfl rfl
  · have hw : registerWrite f off.toNat size v s = holdAcc s (.regWrite off.toNat size v) := by
      rw [hf, registerWrite_held _ _ _ ho hh]
    exact registerWrite_settles hw rfl rfl
  · have hreset : ∀ lv, bits 23 22 v.toNat = lv → swReset lv v s = holdAcc s (.regWrite 0x200004 4 v) := fun lv h => by
      rw [swReset, h, beq_self_eq_true, if_pos rfl, barWrite_held _ _ _ ho hh]
    simp only [List.forall_mem_cons]
    refine ⟨fun h => ?_, fun h => ?_, fun h => ?_, List.forall_mem_nil _⟩
    · exact ⟨_, rfl, _, rfl, by rw [hreset 1 h]; rfl, hreset 1 h⟩
    · exact ⟨_, rfl, _, rfl, by rw [hreset 2 h]; rfl, hreset 2 h⟩
    · exact ⟨_, rfl, _, rfl, by rw [hreset 3 h]; rfl, hreset 3 h⟩
  · refine ⟨_, rfl, ?_⟩
    rw [hostGo, barWrite_held _ _ _ ho hh]
    exact finish_of_clean rfl rfl hs.2

/-- A write of DSK_FN_EVENT_EN. -/
theorem fnEventEnWrite_yields {f : Fin 32} {s : State} {P : State → Prop} (v : W32) (hs : Tidy s) (ho : barOpen s f = true)
    (hh : f.val = 0 → barHeld s = false) (hP : P (fnEnableWrite s f v.toNat)) : Yields (.fnEventEnWrite f v) s P := by
  have hw := registerWrite_page (k := 0) (o := 0x1F0) v ho hh f.isLt (by omega) (by omega) (by omega)
  obtain ⟨_, _, hframe, _⟩ := fnEnableWrite_effect s f v.toNat
  refine ⟨_, rfl, ?_⟩
  have hend : finish s (fnEnableWrite s f v.toNat) = fnEnableWrite s f v.toNat := by
    rw [hframe]
    exact finish_of_clean rfl rfl hs.2
  have hpage : registerWrite f (0x1000 * f.val + 0x1F0) 4 v s = fnEnableWrite s f v.toNat := hw
  rw [hpage, hend]
  exact hP

/-- A write of REL_PERT_CTL through the BAR0 of the physical function. -/
theorem exec_relPertCtlWrite {s : State} (v : W32) (ho : barOpen s 0 = true) (hh : barHeld s = false) :
    exec (.relPertCtlWrite v) s = .next (finish s (pertCtlWrite v.toNat s)) := by
  have hw := registerWrite_word (off := 0x400100) v ho (fun _ => hh) (by omega) (reaches_pf (by omega))
  show Host.Outcome.next (finish s (registerWrite 0 0x400100 4 v s)) = _
  rw [hw]
  rfl

/-- Settles O32: a write of a word is regStore of it (registerWrite_word), and the laws above say what each register makes of it. -/
theorem registerWrites : Obligations.RegisterWrites := by
  refine ⟨registerWrite_unserved, fun f s hs ho hh => ⟨?_, ?_, ?_, ?_, ?_, ?_, ?_⟩⟩
  · intro off size v hbad
    refine registerWrite_settles ?_ rfl rfl
    rw [registerWrite_open _ _ _ ho hh, writeReg_misaligned _ _ _ hbad]
  · intro k i v
    have hreq := pageStore_request s f k v i.isLt
    refine pageWrite_settles ho hh (by omega) (by omega) ?_ hreq
    rw [hreq]
    split <;> rfl
  · intro k v hv hb hr
    have hgo := pageStore_go hv hb hr
    refine pageWrite_settles ho hh (by omega) (by omega) ?_ ?_ <;> rw [hgo]
    · rfl
    · exact ⟨getMb_setMb s f k (submitted s f k), rfl, fun f' k' h => getMb_setMb_ne s (submitted s f k) (Ne.symm h), rfl⟩
  · intro k v
    exact pageWrite_settles ho hh (by omega) (by omega) rfl rfl
  · intro v
    obtain ⟨hself, hothers, hframe, hout, hpending⟩ := fnEnableWrite_effect s f v.toNat
    exact fnEventEnWrite_yields v hs ho hh ⟨hself, hothers, hframe, hout, hpending⟩
  · intro hf i v
    subst hf
    have hoff : (BitVec.ofNat 26 (0x200100 + 4 * i.val)).toNat = 0x200100 + 4 * i.val := by
      rw [BitVec.toNat_ofNat]; omega
    have hw := registerWrite_word v ho hh (by omega) (reaches_pf (off := 0x200100 + 4 * i.val) (by omega))
    rw [regStore_backup _ v s i.isLt] at hw
    rw [← hoff] at hw
    exact registerWrite_settles hw rfl rfl
  · intro hf v
    subst hf
    have hexec := exec_relPertCtlWrite v ho (hh rfl)
    refine ⟨fun hk hp => ⟨_, hexec, ?_⟩, fun hno => ⟨_, hexec, ?_⟩⟩
    · obtain ⟨d, r, heq, hpert, hlost⟩ := pertCtlWrite_keyed hk hp
      rw [heq] at hlost ⊢
      refine ⟨?_, ?_, fun hact => hlost ?_, ?_⟩
      · exact hpert.trans (by rw [pertDrawn_eq]; rfl)
      · show (pertDrawn v.toNat s).tick = _
        rw [pertDrawn_eq]; rfl
      · rw [← hact, pertActive, pertActive]
        simp [hpert]
      · rw [pertDrawn_eq]
        exact ⟨mem_finish_of_wr_nil _ _ (by simpa using hs.2), by simp, by simp, by simp⟩
    · rw [pertCtlWrite_refused hno]
      exact finish_of_clean rfl rfl hs.2

end Sys2Proof.Machine
end

section
/-! SUPPORT. Mailbox commands that change one queue: C0_RESERVE and C0_RELEASE (rules R17, R240). Before their effect the groups
that a failed round of the queue left open close (rule R292); of the state beside the queue that frees arrays' groups alone. -/

namespace Sys2Proof.Machine

/-- The end of a command that made no store keeps what the command kept. -/
theorem Quiet.finish {s t : State} (h : Quiet s t) (hwr : s.wr = []) : Quiet s (finish s t) :=
  { h with pending := rfl, wr := hwr.symm, mem := mem_finish_of_wr_nil s t (h.wr.trans hwr) }

/-! ### What a command leaves that changes one queue -/

/-- Of s, u has changed queue q, which is now x, and no other queue; beside the queues it has changed groups and slots alone. -/
structure OnlyQueue (s u : State) (q : Nat) (x : Queue) : Prop where
  frame : u = { s with arrs := u.arrs, desk := { s.desk with queues := u.desk.queues } }
  self : getQ u q = x
  others : ∀ p, p ≠ q → getQ u p = getQ s p

theorem OnlyQueue.quiet {s u : State} {q : Nat} {x : Queue} (h : OnlyQueue s u q x) : Quiet s u := by
  rw [h.frame]
  constructor <;> rfl

theorem OnlyQueue.modQ {s u : State} {q : Nat} {x : Queue} (h : OnlyQueue s u q x) (g : Queue → Queue) :
    OnlyQueue s (modQ u q g) q (g x) := by
  refine ⟨?_, ?_, fun p hp => ?_⟩
  · rw [h.frame]; rfl
  · rw [Machine.modQ, getQ_setQ, h.self]
  · rw [Machine.modQ, getQ_setQ_ne _ _ (Ne.symm hp), h.others p hp]

/-- A loop changes of the state only the arrays when each of its steps does. -/
theorem forEach_arrs {α : Type} (l : List α) (s : State) (f : State → α → State) (h : ∀ s x, f s x = s.setArrs (f s x).arrs) :
    forEach l s f = s.setArrs (forEach l s f).arrs := by
  unfold forEach
  induction l generalizing s with
  | nil => rfl
  | cons x l ih =>
    rw [List.foldl_cons, ih (f s x), h s x]
    rfl

theorem freeGroup_arrs (s : State) (l g : Nat) : freeGroup s l g = s.setArrs (freeGroup s l g).arrs := by
  simp only [freeGroup]
  split
  · split <;> rfl
  · rfl

theorem freeGroups_arrs (s : State) (q : Nat) (p : Group → Bool) : freeGroups s q p = s.setArrs (freeGroups s q p).arrs := by
  refine forEach_arrs _ _ _ fun s x => ?_
  split
  · exact freeGroup_arrs s _ _
  · rfl

theorem closeKept_none {s : State} {q : Nat} (h : (getQ s q).keptGroups = []) : closeKept s q = s := by
  simp [closeKept, h]

theorem closeKept_some {s : State} {q : Nat} (h : (getQ s q).keptGroups ≠ []) :
    ∃ a, closeKept s q = setQ (s.setArrs a) q { getQ s q with keptGroups := [] } := by
  simp only [closeKept, List.isEmpty_iff, if_neg h]
  rw [freeGroups_arrs]
  exact ⟨_, rfl⟩

theorem closeKept_onlyQueue (s : State) (q : Nat) : OnlyQueue s (closeKept s q) q { getQ s q with keptGroups := [] } := by
  by_cases h : (getQ s q).keptGroups = []
  · rw [closeKept_none h, ← h]
    exact ⟨rfl, rfl, fun _ _ => rfl⟩
  · obtain ⟨a, ha⟩ := closeKept_some h
    rw [ha]
    exact ⟨rfl, getQ_setQ _ _ _, fun p hp => getQ_setQ_ne _ _ (Ne.symm hp)⟩

/-- The queues that a close leaves are those of the queues it finds. -/
theorem closeKept_queues_congr {s t : State} (q : Nat) (h : t.desk.queues = s.desk.queues) :
    (closeKept t q).desk.queues = (closeKept s q).desk.queues := by
  have hq : getQ t q = getQ s q := by rw [getQ, h]; rfl
  by_cases hk : (getQ s q).keptGroups = []
  · rw [closeKept_none hk, closeKept_none (hq ▸ hk), h]
  · obtain ⟨a, ha⟩ := closeKept_some hk
    obtain ⟨b, hb⟩ := closeKept_some (s := t) (q := q) (hq ▸ hk)
    rw [ha, hb, hq]
    simp [setQ, h]

/-! ### Whether a reservation fits -/

theorem maskWings_congr {s t : State} (h : t.wings = s.wings) (m : W32) : maskWings t m = maskWings s m := by
  simp [maskWings, hostWing, getWing, h]

/-- Whether a reservation fits rests on the queues and on the Wings alone. -/
theorem resvFits_congr {s t : State} (hq : t.desk.queues = s.desk.queues) (hw : t.wings = s.wings) (r : Resv) :
    resvFits t r = resvFits s r := by
  have hall : allResv t = allResv s := by simp only [allResv, hq]
  simp [resvFits, hall, maskWings_congr hw]

theorem resvFits_closeKept_taken (s : State) (f k q : Nat) (r : Resv) :
    resvFits (closeKept (takenMb s f k) q) r = resvFits (closeKept s q) r :=
  have hw : (closeKept (takenMb s f k) q).wings = s.wings := (quiet_closeKept (takenMb s f k) q).wings
  resvFits_congr (closeKept_queues_congr (s := s) (t := takenMb s f k) q rfl) (hw.trans (quiet_closeKept s q).wings.symm) r

/-! ### The answer -/

/-- A request about a queue that passes its checks: the groups kept for the queue close, and its effect follows. -/
theorem takeUpCmd_onQueue {s : State} {f k op : Nat} (eff : Mbox → State → State) (h : Granted s f k op)
    (hq : (opNamesQueue op && op != 0x14) = true) :
    takeUpCmd f k op eff s = eff (getMb s f k) (closeKept (takenMb s f k) (reqWord s f k 0)) := by
  rw [takeUpCmd_granted s f k op eff h, hq]; rfl

/-- The reservation that a C0_RESERVE asks for (Table 11.4). -/
def askedResv (s : State) (f k : Nat) : Resv :=
  { mask := BitVec.ofNat 32 (reqWord s f k 1), ra := bits 7 0 (reqWord s f k 2), rf := bits 15 8 (reqWord s f k 2),
    releasing := false }

/-- What a C0_RELEASE makes of its queue. -/
def withoutResv (x : Queue) : Queue :=
  if x.resvNext.isSome then { x with resvNext := none } else { x with resv := x.resv.map fun r => { r with releasing := true } }

theorem withoutResv_noKept (x : Queue) : withoutResv { x with keptGroups := [] } =
    if x.resvNext.isSome then { x with resvNext := none, keptGroups := [] }
    else { x with resv := x.resv.map fun r => { r with releasing := true }, keptGroups := [] } := by
  by_cases h : x.resvNext.isSome = true
  · simp only [withoutResv, if_pos h]
  · simp only [withoutResv, if_neg h]

theorem c0ReserveCmd_taken (s : State) (f k : Nat) :
    c0ReserveCmd f k (getMb s f k) (closeKept (takenMb s f k) (reqWord s f k 0)) =
      if resvFits (closeKept s (reqWord s f k 0)) (askedResv s f k) then
        respond (modQ (closeKept (takenMb s f k) (reqWord s f k 0)) (reqWord s f k 0) fun x =>
          { x with resvNext := some (askedResv s f k) }) f k stOk []
      else respond (closeKept (takenMb s f k) (reqWord s f k 0)) f k stOverLimit [] := by
  rw [← resvFits_closeKept_taken s f k]; rfl

/-- A taken request that has changed its queue alone is answered without a payload. -/
theorem OnlyQueue.respond {s u : State} {f k q : Nat} {x : Queue} (h : OnlyQueue (takenMb s f k) u q x) (hwr : s.wr = []) (st : Nat)
    (hst : st < 65536) :
    let t := finish s (Machine.respond u f k st [])
    Answered s t f k st [] ∧ getQ t q = x ∧ (∀ p, p ≠ q → getQ t p = getQ s p) ∧ Quiet s t ∧ t.tier = s.tier ∧ t.fab = s.fab ∧
      t.out = s.out := by
  have hmb : ∀ f' k', getMb u f' k' = getMb (takenMb s f k) f' k' := fun f' k' => by rw [h.frame]; rfl
  have hw : u.wr = [] := by rw [h.frame]; exact hwr
  have hquiet : Quiet s (finish s (Machine.respond u f k st [])) :=
    (((quiet_setMb s f k _).trans h.quiet).trans (quiet_respond u f k st [])).finish hwr
  refine ⟨?_, h.self, h.others, hquiet, ?_, ?_, ?_⟩
  · exact (respond_replies s u f k st [] hst (by decide) (by rw [hmb, takenMb_req]) (by rw [hmb, takenMb_seq])
      (fun f' k' hne => by rw [hmb, takenMb_ne s f k f' k' hne]) { u with pending := s.pending, mem := s.mem } hw rfl).1
  all_goals rw [h.frame]; rfl

end Sys2Proof.Machine
end

section
/-! C0_RESERVE and C0_RELEASE (rules R17, R240). -/

namespace Sys2Proof.Machine

/-- Settles O5: both commands change their queue alone (OnlyQueue), and that is answered. -/
theorem mailboxReservations : Obligations.MailboxReservations := by
  intro f k s hs
  have hclose := closeKept_onlyQueue (takenMb s f k) (reqWord s f k 0)
  refine ⟨fun hg => ⟨_, rfl, ?_⟩, fun hg => ⟨_, rfl, ?_⟩⟩
  · rw [takeUpCmd_onQueue _ hg rfl, c0ReserveCmd_taken]
    by_cases hfit : resvFits (closeKept s (reqWord s f k 0)) (askedResv s f k) = true
    · rw [if_pos hfit]
      obtain ⟨hans, hself, hrest⟩ :=
        (hclose.modQ fun x => { x with resvNext := some (askedResv s f k) }).respond hs.2 stOk (by decide)
      exact ⟨(if_pos hfit).symm ▸ ⟨hans, hself⟩, hrest⟩
    · rw [if_neg hfit]
      obtain ⟨hans, hself, hrest⟩ := hclose.respond hs.2 stOverLimit (by decide)
      exact ⟨(if_neg hfit).symm ▸ ⟨hans, hself⟩, hrest⟩
  · rw [takeUpCmd_onQueue _ hg rfl]
    obtain ⟨hans, hself, hrest⟩ := (hclose.modQ withoutResv).respond hs.2 stOk (by decide)
    exact ⟨hans, hself.trans (withoutResv_noKept (getQ s (reqWord s f k 0))), hrest⟩

end Sys2Proof.Machine
end

section
/-! SUPPORT. What a node's sending of slips changes (chapter 12; rules R307, R309, R323): a port that sends leaves every other port,
the flows and the route tables as they are, and whatever it puts out follows what was put out before. -/

namespace Sys2Proof.Machine

/-! ### Sending on one port -/

/-- Of s, t has changed only port p, whose count of adaptive choices stands, and has put out more. -/
structure SentOn (p : Nat) (s t : State) : Prop where
  frame : t = { s with fab := { s.fab with ports := t.fab.ports }, out := t.out }
  others : ∀ o, o ≠ p → getPort t o = getPort s o
  choices : (getPort t p).choices = (getPort s p).choices
  out : ∃ l, t.out = s.out ++ l

theorem SentOn.refl (p : Nat) (s : State) : SentOn p s s := ⟨rfl, fun _ _ => rfl, rfl, [], (List.append_nil _).symm⟩

theorem SentOn.trans {p : Nat} {s t u : State} (h : SentOn p s t) (k : SentOn p t u) : SentOn p s u where
  frame := by rw [k.frame, h.frame]
  others o ho := (k.others o ho).trans (h.others o ho)
  choices := k.choices.trans h.choices
  out := by
    obtain ⟨l, hl⟩ := h.out
    obtain ⟨m, hm⟩ := k.out
    exact ⟨l ++ m, by rw [hm, hl, List.append_assoc]⟩

theorem SentOn.forEach {α : Type} {p : Nat} (l : List α) (s : State) (f : State → α → State) (h : ∀ s x, SentOn p s (f s x)) :
    SentOn p s (Machine.forEach l s f) := by
  unfold Machine.forEach
  induction l generalizing s with
  | nil => exact .refl p s
  | cons x l ih => exact (h s x).trans (ih _)

theorem sentOn_emit (p : Nat) (s : State) (o : Out) : SentOn p s (emit s o) :=
  ⟨rfl, fun _ _ => rfl, rfl, [o], rfl⟩

theorem sentOn_setPort {p : Nat} {s : State} {x : Port} (h : x.choices = (getPort s p).choices) : SentOn p s (setPort s p x) :=
  ⟨rfl, fun _ ho => getPort_setPort_ne s x (Ne.symm ho), by rw [getPort_setPort, h], [], (List.append_nil _).symm⟩

theorem sentOn_sendFlit (s : State) (p : Nat) (d : List Byte) : SentOn p s (sendFlit s p d) := by
  refine .trans (sentOn_setPort ?_) (sentOn_emit p _ _)
  rfl

theorem useCredits_choices (s : State) (x : Port) (e : TxSlip) : (useCredits s x e).choices = x.choices := by
  simp only [useCredits]
  split
  · rfl
  · split <;> rfl

theorem sentOn_pumpSlips (s : State) (p n : Nat) : SentOn p s (pumpSlips s p n) := by
  induction n generalizing s with
  | zero => exact .refl p s
  | succ n ih =>
    simp only [pumpSlips]
    split
    · exact .refl p s
    · split
      · exact .refl p s
      · refine .trans (.trans (sentOn_setPort ?_) (.forEach _ _ _ fun s f => sentOn_sendFlit s p f)) (ih _)
        exact useCredits_choices s (getPort s p) _

/-- A slip that is handed to a port is put out first, and then what the port sends. -/
theorem sentOn_handSlip (s : State) (p : Nat) (sl : Slip) (q : Option Nat) :
    SentOn p (emit s (.slip (some p) sl)) (handSlip s (some p) sl q) := by
  refine .trans (sentOn_setPort ?_) (sentOn_pumpSlips _ _ _)
  rfl

/-! ### The choice that counts (rule R18) -/

/-- The count of adaptive choices of a port after a slip of class cls to a node took it. -/
def choicesAfter (s : State) (cls node cur : Nat) (busy : Bool) (p : Nat) : W32 :=
  if cls = 0 ∨ keepsAlt s node cur busy = true then (getPort s p).choices else satAdd (getPort s p).choices 1

theorem countChoice_choices (s : State) (cls node cur : Nat) (busy : Bool) (p : Nat) :
    (getPort (countChoice s cls node cur busy p) p).choices = choicesAfter s cls node cur busy p := by
  unfold countChoice choicesAfter
  by_cases h : cls = 0 ∨ keepsAlt s node cur busy = true
  · rw [if_pos h, if_pos (by simpa using h)]
  · rw [if_neg h, if_neg (by simpa using h), modPort, getPort_setPort]

theorem countChoice_others (s : State) (cls node cur : Nat) (busy : Bool) {o p : Nat} (h : o ≠ p) :
    getPort (countChoice s cls node cur busy p) o = getPort s o := by
  unfold countChoice
  split
  · rfl
  · exact getPort_setPort_ne s _ (Ne.symm h)

theorem countChoice_frame (s : State) (cls node cur : Nat) (busy : Bool) (p : Nat) :
    countChoice s cls node cur busy p =
      { s with fab := { s.fab with ports := (countChoice s cls node cur busy p).fab.ports } } := by
  unfold countChoice
  split <;> rfl

/-! ### Routing a slip of this node -/

section
variable {s : State} {sl : Slip} {alt : Nat} {busy : Bool} {q : Option Nat}

theorem routeOut_self (h : sl.dest = s.fab.nodeId) : routeOut s sl alt busy q = (emit s (.slip none sl), alt) := by
  rw [routeOut, if_pos h]; rfl

theorem routeOut_unrouted (h : sl.dest ≠ s.fab.nodeId) (hp : pickAlt s (slipClass sl) sl.dest.toNat alt busy = none) :
    routeOut s sl alt busy q = (s.setFab { s.fab with noRoute := satAdd s.fab.noRoute 1 }, alt) := by
  simp [routeOut, h, hp]

theorem routeOut_unjoined {i : Nat} (h : sl.dest ≠ s.fab.nodeId) (hp : pickAlt s (slipClass sl) sl.dest.toNat alt busy = some i)
    (hj : s.fab.joined = false) : routeOut s sl alt busy q = (s, alt) := by
  simp [routeOut, h, hp, hj]

/-- The port that alternative i of a node's route names. -/
def altPort (s : State) (node i : Nat) : Nat := (routeAlts (routeEnt s node)).getD i 9

theorem routeOut_leaves {i : Nat} (h : sl.dest ≠ s.fab.nodeId) (hp : pickAlt s (slipClass sl) sl.dest.toNat alt busy = some i)
    (hj : s.fab.joined = true) : routeOut s sl alt busy q =
      (handSlip (countChoice s (slipClass sl) sl.dest.toNat alt busy (altPort s sl.dest.toNat i)) (some (altPort s sl.dest.toNat i))
        sl q, i) := by
  simp [routeOut, h, hp, hj, altPort]

end

/-- What routing a slip may change: ports, the count of slips without a route, and outputs. -/
theorem routeOut_frame (s : State) (sl : Slip) (alt : Nat) (busy : Bool) (q : Option Nat) :
    ∃ ports noRoute out,
      (routeOut s sl alt busy q).1 = { s with fab := { s.fab with ports := ports, noRoute := noRoute }, out := out } := by
  by_cases hd : sl.dest = s.fab.nodeId
  · rw [routeOut_self hd]
    exact ⟨_, _, _, rfl⟩
  · cases hp : pickAlt s (slipClass sl) sl.dest.toNat alt busy with
    | none =>
      rw [routeOut_unrouted hd hp]
      exact ⟨_, _, _, rfl⟩
    | some i =>
      cases hj : s.fab.joined with
      | false =>
        rw [routeOut_unjoined hd hp hj]
        exact ⟨_, _, _, rfl⟩
      | true =>
        rw [routeOut_leaves hd hp hj, (sentOn_handSlip _ _ sl q).frame, countChoice_frame]
        exact ⟨_, _, _, rfl⟩

end Sys2Proof.Machine
end

section
/-! SUPPORT. A slip for another node at a forwarder (rules R18, R306, R307, R309, R323; notes/assumptions/61). -/

namespace Sys2Proof.Machine

/-- The key of a forwarded flow's alternative. -/
def fwdKey (sl : Slip) : Nat := (65536 * sl.src.toNat + sl.dest.toNat) * 8 + sl.vc.toNat

/-- The alternative that a forwarder keeps for a slip's flow. -/
def keptAlt (s : State) (sl : Slip) : Option Nat := tabGet none s.fab.fwd (fwdKey sl)

/-- The alternative by which a slip leaves a forwarder. -/
def fwdPick (s : State) (sl : Slip) : Option Nat :=
  pickAlt s (slipClass sl) sl.dest.toNat ((keptAlt s sl).getD 0) (keptAlt s sl).isSome

section
variable {s : State} {sl : Slip}

/-- A slip for another node is routed, and where it leaves in C1 to C3 the flow keeps its alternative. -/
theorem slipForward_eq (h : sl.dest ≠ s.fab.nodeId) : slipForward sl s =
    let r := routeOut s sl ((keptAlt s sl).getD 0) (keptAlt s sl).isSome none
    if slipClass sl = 0 || !(s.fab.joined && (fwdPick s sl).isSome) then r.1
    else r.1.setFab { r.1.fab with fwd := tabSet none r.1.fab.fwd (fwdKey sl) (some r.2) } := by
  rw [slipForward, if_neg h]; rfl

theorem slipForward_unjoined {i : Nat} (h : sl.dest ≠ s.fab.nodeId) (hp : fwdPick s sl = some i) (hj : s.fab.joined = false) :
    slipForward sl s = s := by
  rw [slipForward_eq h, routeOut_unjoined h hp hj]
  simp [hj]

theorem slipForward_unrouted (h : sl.dest ≠ s.fab.nodeId) (hp : fwdPick s sl = none) :
    slipForward sl s = s.setFab { s.fab with noRoute := satAdd s.fab.noRoute 1 } := by
  rw [slipForward_eq h, routeOut_unrouted h hp]
  simp [hp]

/-- A slip that leaves: it is handed to the port of its alternative, which its flow keeps in C1 to C3. -/
theorem slipForward_leaves {i : Nat} (h : sl.dest ≠ s.fab.nodeId) (hp : fwdPick s sl = some i) (hj : s.fab.joined = true) :
    slipForward sl s =
      let p := altPort s sl.dest.toNat i
      let u := handSlip (countChoice s (slipClass sl) sl.dest.toNat ((keptAlt s sl).getD 0) (keptAlt s sl).isSome p) (some p) sl none
      if slipClass sl = 0 then u else u.setFab { u.fab with fwd := tabSet none u.fab.fwd (fwdKey sl) (some i) } := by
  rw [slipForward_eq h, routeOut_leaves h hp hj]
  simp [hj, hp]

/-- A slip that leaves by alternative i: it is put out first, its port counts it, no other port changes, and its flow keeps the
alternative in C1 to C3. -/
structure Forwarded (s : State) (sl : Slip) (i : Nat) (t : State) : Prop where
  out : ∃ l, t.out = s.out ++ .slip (some (altPort s sl.dest.toNat i)) sl :: l
  choices : (getPort t (altPort s sl.dest.toNat i)).choices =
    choicesAfter s (slipClass sl) sl.dest.toNat ((keptAlt s sl).getD 0) (keptAlt s sl).isSome (altPort s sl.dest.toNat i)
  others : ∀ o, o ≠ altPort s sl.dest.toNat i → getPort t o = getPort s o
  fwd : t.fab.fwd = if slipClass sl = 0 then s.fab.fwd else tabSet none s.fab.fwd (fwdKey sl) (some i)
  frame : t = { s with fab := { s.fab with ports := t.fab.ports, fwd := t.fab.fwd }, out := t.out }

/-- The choice is counted, then the slip is put out and its port sends; the flow's alternative is kept last. -/
theorem Forwarded.of_sentOn {i : Nat} {u : State} (h : SentOn (altPort s sl.dest.toNat i)
      (emit (countChoice s (slipClass sl) sl.dest.toNat ((keptAlt s sl).getD 0) (keptAlt s sl).isSome (altPort s sl.dest.toNat i))
        (.slip (some (altPort s sl.dest.toNat i)) sl)) u) :
    Forwarded s sl i
      (if slipClass sl = 0 then u else u.setFab { u.fab with fwd := tabSet none u.fab.fwd (fwdKey sl) (some i) }) := by
  obtain ⟨hframe, hothers, hchoices, l, hl⟩ := h
  have hu : u = { s with fab := { s.fab with ports := u.fab.ports }, out := u.out } := by
    rw [hframe, countChoice_frame]; rfl
  have hself := hchoices.trans (countChoice_choices s _ _ _ _ _)
  have hrest (o) (ho : o ≠ altPort s sl.dest.toNat i) := (hothers o ho).trans (countChoice_others s _ _ _ _ ho)
  have hout : u.out = s.out ++ .slip (some (altPort s sl.dest.toNat i)) sl :: l := by
    rw [hl, countChoice_frame]
    exact List.append_assoc _ _ _
  have hfwd : u.fab.fwd = s.fab.fwd := by rw [hu]
  split
  · next hc => exact ⟨⟨l, hout⟩, hself, hrest, by rw [if_pos hc, hfwd], by rw [hu]⟩
  · next hc => exact ⟨⟨l, hout⟩, hself, hrest, by rw [if_neg hc, ← hfwd]; rfl, by rw [hu]; rfl⟩

theorem slipForward_forwarded {i : Nat} (h : sl.dest ≠ s.fab.nodeId) (hp : fwdPick s sl = some i) (hj : s.fab.joined = true) :
    Forwarded s sl i (slipForward sl s) := by
  rw [slipForward_leaves h hp hj]
  exact .of_sentOn (sentOn_handSlip _ _ _ _)

end

end Sys2Proof.Machine
end

section
/-! SUPPORT. The slips of a flow that are not answered in time (rule R311). -/

namespace Sys2Proof.Machine

/-- What a resend of the flow of class cls to a node leaves: the flow's unanswered slips and its next SEQ, the count of resends, and
everything beside the fabric and the outputs. -/
structure Resent (node cls : Nat) (s t : State) : Prop where
  frame : t = { s with fab := t.fab, out := t.out }
  resends : t.fab.resends = s.fab.resends
  open_ : (getTx t node cls).open_ = (getTx s node cls).open_
  seq : (getTx t node cls).seq = (getTx s node cls).seq

theorem Resent.trans {node cls : Nat} {s t u : State} (h : Resent node cls s t) (k : Resent node cls t u) : Resent node cls s u where
  frame := by rw [k.frame, h.frame]
  resends := k.resends.trans h.resends
  open_ := k.open_.trans h.open_
  seq := k.seq.trans h.seq

theorem Resent.forEach {α : Type} {node cls : Nat} (l : List α) (s : State) (f : State → α → State)
    (h : ∀ s x, Resent node cls s (f s x)) : Resent node cls s (Machine.forEach l s f) := by
  unfold Machine.forEach
  induction l generalizing s with
  | nil => exact ⟨rfl, rfl, rfl, rfl⟩
  | cons x l ih => exact (h s x).trans (ih _)

theorem getTx_setTx (s : State) (node cls : Nat) (x : TxFlow) : getTx (setTx s node cls x) node cls = x := by
  simp [getTx, setTx]

theorem resent_routeOut (node cls : Nat) (s : State) (sl : Slip) (alt : Nat) (busy : Bool) (q : Option Nat) :
    Resent node cls s (routeOut s sl alt busy q).1 := by
  obtain ⟨ports, noRoute, out, h⟩ := routeOut_frame s sl alt busy q
  rw [h]
  exact ⟨rfl, rfl, rfl, rfl⟩

theorem resent_setAlt (node cls : Nat) (s : State) (alt : Nat) :
    Resent node cls s (setTx s node cls { getTx s node cls with alt := alt }) :=
  ⟨rfl, rfl, by rw [getTx_setTx], by rw [getTx_setTx]⟩

theorem slipResend_resent {s : State} {node cls : Nat} (h : (getTx s node cls).open_ ≠ []) :
    Resent node cls (s.setFab { s.fab with resends := satAdd s.fab.resends 1 }) (slipResend node cls s) := by
  simp only [slipResend, List.isEmpty_iff, if_neg h]
  exact .forEach _ _ _ fun s x => (resent_routeOut node cls s _ _ _ _).trans (resent_setAlt node cls _ _)

end Sys2Proof.Machine
end

section
/-! SUPPORT. A tile that ends at once with a status (rule R139, Tables 10.3, 15.1). -/

namespace Sys2Proof.Machine

theorem findTile_id {s : State} {i : TileId} {x : Tile} (h : findTile s i = some x) : x.id = i := by
  simpa using List.find?_some h

/-- A tile in hand that is stored again is found as it was stored. -/
theorem findTile_setTile {s : State} {i : TileId} {x y : Tile} (h : findTile s i = some x) (hy : y.id = i) :
    findTile (setTile s y) i = some y := by
  have hid := findTile_id h
  have hmatch : ((fun z : Tile => z.id == i) ∘ fun z => if z.id = y.id then y else z) = fun z => z.id == i := by
    funext z
    by_cases hz : z.id = i <;> simp [hy, hz]
  show List.find? _ (List.map _ s.run.tiles) = _
  rw [List.find?_map, hmatch]
  have hx : s.run.tiles.find? (fun z => z.id == i) = some x := h
  simp [hx, hid, hy]

theorem getQ_modQ (s : State) (q : Nat) (g : Queue → Queue) : getQ (modQ s q g) q = g (getQ s q) := getQ_setQ _ _ _

theorem getQ_modQ_ne (s : State) {q p : Nat} (g : Queue → Queue) (h : p ≠ q) : getQ (modQ s q g) p = getQ s p :=
  getQ_setQ_ne s _ (Ne.symm h)

theorem getQ_congr {s t : State} (h : t.desk = s.desk) (q : Nat) : getQ t q = getQ s q := by rw [getQ, h]; rfl

/-- A round of a list that a loss has spread over stems from one of the list, whose own loss stands. -/
theorem mem_spreadLoss {lost : Bool} {rs : List Round} {r : Round} (h : r ∈ spreadLoss lost rs) :
    ∃ r' ∈ rs, r.num = r'.num ∧ (r'.lostGuarantee = true → r.lostGuarantee = true) := by
  induction rs generalizing lost with
  | nil => simp [spreadLoss] at h
  | cons a rs ih =>
    rcases List.mem_cons.1 h with rfl | h
    · refine ⟨a, List.mem_cons_self, ?_⟩
      split
      · exact ⟨rfl, fun _ => rfl⟩
      · exact ⟨rfl, id⟩
    · obtain ⟨r', hr', hnum, hlost⟩ := ih h
      exact ⟨r', List.mem_cons_of_mem _ hr', hnum, hlost⟩

/-- A round that loses the guarantee has lost it. -/
theorem loseRound_lost (s : State) (q : Nat) (n : W32) :
    ∀ r ∈ (getQ (loseRound s q n) q).rounds, r.num = n → r.lostGuarantee = true := by
  intro r hr hn
  rw [loseRound, settleLoss, getQ_modQ, modRound, getQ_modQ] at hr
  obtain ⟨r', hr', hnum, hlost⟩ := mem_spreadLoss hr
  obtain ⟨r0, -, rfl⟩ := List.mem_map.1 hr'
  refine hlost ?_
  split at hnum
  · next h0 => rw [if_pos h0]
  · next h0 => exact absurd (hnum.symm.trans hn) h0

theorem loseRound_others (s : State) {q p : Nat} (n : W32) (h : p ≠ q) : getQ (loseRound s q n) p = getQ s p :=
  (getQ_modQ_ne _ _ h).trans (getQ_modQ_ne _ _ h)

/-- The tile as its end with a status leaves it. -/
def failedTile (s : State) (x : Tile) (status : Nat) : Tile :=
  let run := match x.startCyc with
    | some c => s.clk.acyc - c
    | none => 0
  { x with phase := .finished, status := BitVec.ofNat 8 status, stamp := s.clk.now, charged := x.charged + run, startCyc := none,
           waitFrom := none, fifo := false }

theorem failTile_eq {s : State} {i : TileId} {x : Tile} (status : Nat) (h : findTile s i = some x) : failTile s i status =
    loseRound (settleGroups (setTile (releaseTiles (noteLate s [x]) fun y => y == i) (failedTile s x status))) i.q i.rnd := by
  rw [failTile, h]; rfl

theorem settleGroups_frame (s : State) : ∃ a, settleGroups s = s.setArrs a := ⟨_, rfl⟩
theorem releaseTiles_frame (s : State) (p : TileId → Bool) : ∃ a u, releaseTiles s p = (s.setArrs a).setUnits u := ⟨_, _, rfl⟩

theorem findTile_congr {s t : State} (h : t.run = s.run) (i : TileId) : findTile t i = findTile s i := by rw [findTile, h]; rfl

theorem setTile_frame (s : State) (x : Tile) : setTile s x = s.setRun (setTile s x).run := rfl

/-- The end of a tile: the tile is as failedTile says, data and responses that come late are noted, and then its round loses the
guarantee. -/
theorem failTile_loses {s : State} {i : TileId} {x : Tile} (status : Nat) (h : findTile s i = some x) :
    ∃ v, failTile s i status = loseRound v i.q i.rnd ∧ findTile v i = some (failedTile s x status) ∧ v.desk = s.desk ∧
      v.fab = (noteLate s [x]).fab ∧ v.tier = s.tier := by
  obtain ⟨a, u, hreleased⟩ := releaseTiles_frame (noteLate s [x]) fun y => y == i
  obtain ⟨b, hgroups⟩ := settleGroups_frame (setTile (((noteLate s [x]).setArrs a).setUnits u) (failedTile s x status))
  have hnow : findTile (((noteLate s [x]).setArrs a).setUnits u) i = some x := h
  have hid : x.id = i := findTile_id h
  have hfound := findTile_setTile (y := failedTile s x status) hnow hid
  refine ⟨_, failTile_eq status h, ?_⟩
  rw [hreleased, hgroups]
  refine ⟨(findTile_congr rfl i).trans hfound, ?_⟩
  rw [setTile_frame]
  simp [noteLate]

theorem loseRound_desk (s : State) (q : Nat) (n : W32) :
    (loseRound s q n).desk = { s.desk with queues := (loseRound s q n).desk.queues } := rfl
theorem loseRound_run (s : State) (q : Nat) (n : W32) : (loseRound s q n).run = s.run := rfl
theorem loseRound_fab (s : State) (q : Nat) (n : W32) : (loseRound s q n).fab = s.fab := rfl
theorem loseRound_tier (s : State) (q : Nat) (n : W32) : (loseRound s q n).tier = s.tier := rfl

theorem aislesFail_few {s : State} {i : TileId} {n : Nat} (h : n < 8) : aislesFail i n s = s := by
  unfold aislesFail
  split
  · rfl
  · rw [if_pos (by simp [h])]

theorem aislesFail_many {s : State} {i : TileId} {x : Tile} {n : Nat} (hx : findTile s i = some x) (hn : 8 ≤ n)
    (hp : x.phase ≠ .finished) : aislesFail i n s = failTile s i 0x0B := by
  simp [aislesFail, hx, hp, Nat.not_lt.2 hn]

end Sys2Proof.Machine
end

section
/-! Slips that leave, are sent again or fail (rules R18, R306, R307, R309, R311, R323). -/

namespace Sys2Proof.Machine

/-- SLIP_FORWARD ends in what slipForward makes, where that made no store. -/
theorem slipForward_yields {sl : Slip} {s t : State} {P : State → Prop} (ht : slipForward sl s = t) (hp : t.pending = s.pending)
    (hm : t.mem = s.mem) (hw : t.wr = []) (hP : P t) : Yields (.slipForward sl) s P := by
  subst ht
  exact ⟨_, rfl, (finish_of_clean hp hm hw).symm ▸ hP⟩

/-- The alternative that a forwarder reads for a flow after a slip left by alternative i. -/
theorem tabGet_fwdKept (s : State) (sl : Slip) (i k : Nat) :
    tabGet none (if slipClass sl = 0 then s.fab.fwd else tabSet none s.fab.fwd (fwdKey sl) (some i)) k =
      if k = fwdKey sl ∧ slipClass sl ≠ 0 then some i else tabGet none s.fab.fwd k := by
  by_cases hc : slipClass sl = 0
  · simp [hc]
  · simp [hc, tabGet_tabSet, eq_comm]

/-- Settles O50: routeOut has three ends for a slip of another node, a resend keeps its flow (Resent), and a tile that fails ends and
loses its round's guarantee (failTile_eq). -/
theorem slipsLeave : Obligations.SlipsLeave := by
  refine ⟨fun sl s hs hd => ⟨fun hj hp => ?_, fun hp => ?_, fun i hj hp => ?_⟩, fun dest cls s hs ho => ?_,
    fun i n s x hs hx => ⟨fun hn => ?_, fun hn hp => ?_⟩⟩
  · obtain ⟨i, hi⟩ := Option.ne_none_iff_exists'.1 hp
    exact slipForward_yields (slipForward_unjoined hd hi hj) rfl rfl hs.2 rfl
  · exact slipForward_yields (slipForward_unrouted hd hp) rfl rfl hs.2 rfl
  · obtain ⟨hout, hchoices, hothers, hfwd, hframe⟩ := slipForward_forwarded hd hp hj
    refine slipForward_yields rfl (by rw [hframe]) (by rw [hframe]) (by rw [hframe]; exact hs.2) ?_
    refine ⟨hout, hchoices, hothers, fun k => ?_, hframe⟩
    rw [hfwd, tabGet_fwdKept]
    rfl
  · obtain ⟨hframe, hresends, hopen, hseq⟩ := slipResend_resent ho
    have hend : finish s (slipResend dest.toNat cls.toNat s) = slipResend dest.toNat cls.toNat s :=
      finish_of_clean (by rw [hframe]; rfl) (by rw [hframe]; rfl) (by rw [hframe]; exact hs.2)
    exact ⟨_, rfl, hend.symm ▸ ⟨hresends, hopen, hseq, hframe⟩⟩
  · exact ⟨_, rfl, _, rfl, by rw [aislesFail_few hn], aislesFail_few hn⟩
  · refine ⟨_, rfl, _, rfl, ?_⟩
    rw [aislesFail_many hx hn hp]
    have hquiet := quiet_failTile s i 0x0B
    obtain ⟨v, hv, hfound, hdesk, hfab, htier⟩ := failTile_loses 0x0B hx
    refine ⟨hquiet.mem, ⟨failedTile s x 0x0B, ?_, rfl, rfl, rfl⟩, ?_, fun p hp => ?_, ?_, ?_, hquiet.wr.trans hs.2, ?_⟩
    · rw [hv, findTile_congr (loseRound_run v _ _), hfound]
    · rw [hv]
      exact loseRound_lost v i.q i.rnd
    · rw [hv, loseRound_others v _ hp, getQ_congr hdesk]
    · rw [hv, loseRound_desk, hdesk]
    · rw [hv, loseRound_fab, hfab]
    · rw [hv, loseRound_tier, htier]

end Sys2Proof.Machine
end

section
/-! SET_TICK of a manager whose ID map names a node that its exploration has not found (rules R235, R303). -/

namespace Sys2Proof.Machine

/-- A manager sends a new time along the routes of its survey: one that has found no other node sends none. -/
theorem sendTime_of_alone {s : State} (h : s.fab.survey.found.drop 1 = []) (v : TickSet) : sendTime s v = s := by
  simp [sendTime, h, forEach]

/-- A manager that has found no other node puts nothing out for a SET_TICK. -/
theorem setTickCmd_out_of_alone {s : State} (h : s.fab.survey.found.drop 1 = []) (f k : Nat) (m : Mbox) :
    (setTickCmd f k m s).out = s.out := by
  have hkept (x : Tick) (v : TickSet) : sendTime (s.setTick x) v = s.setTick x := sendTime_of_alone (s := s.setTick x) h v
  simp only [setTickCmd]
  split
  · rw [hkept]; rfl
  · rfl

/-- A request for the fabric tick of 50 µs with EPOCH 1 and N0 2, its GO accepted. -/
def fabricTickRequest : Mbox :=
  { Mbox.reset with state := 1, req := putWords [] 0 ([65536 + 0x42, 0x11, 24, 0] ++ [2, 50, 1, 0, 2, 0]) }

/-- An option block whose ID map names one device, of serial number 7, as node 1. -/
def mapOfOne : OptBlock :=
  { signer := some 0, svn := 1, declared := 0, ownerKey := none, stretchMs := 50, wdogMs := 1000, pinCfg := 0xFFF, idMap := [(7, 1)],
    repair := [], foxing := [], bytes := [] }

/-- Node 0 as a manager whose exploration has found itself alone; the request is in mailbox 0 of the physical function. -/
def loneManager : State :=
  let me : Found := { hello := helloOf State.reset 0xF, path := [], back := [], ports := [] }
  { State.reset with
    desk := { Desk.reset with ready := true, mbox := [(0, fabricTickRequest)] }
    rst := { Rst.reset with bringup := none, opt := some mapOfOne }
    fab := { Fab.reset with assigned := true, routed := true, joined := true, candidate := true, manager := true,
                            survey := { Survey.reset with found := [me] } } }

theorem loneManager_tidy : Tidy loneManager := ⟨rfl, rfl⟩

theorem loneManager_granted : Granted loneManager 0 0 0x42 := by
  unfold Granted; decide +kernel

/-- Refutes O3: for SET_TICK the statement has the manager tell every node that its ID map names, and the model tells the nodes that
its exploration has found. loneManager, which has found none, puts nothing out, where the statement has a message to node 1. -/
theorem not_mailboxLimits : ¬ Obligations.MailboxLimits := by
  unfold Obligations.MailboxLimits
  intro h
  obtain ⟨-, -, hTick, -⟩ := h 0 0 loneManager loneManager_tidy
  obtain ⟨t, hexec, -, honly, -⟩ := hTick loneManager_granted
  have hsent : t.out = [.mgmt 1 (.setTime 1 2 50)] := by
    rw [honly]; rfl
  have hnext : t = finish loneManager (takeUpCmd 0 0 0x42 (setTickCmd 0 0) loneManager) := (Host.Outcome.next.inj hexec).symm
  have hsilent : t.out = [] := by
    rw [hnext, finish_out, takeUpCmd_plain loneManager 0 0 0x42 _ loneManager_granted rfl, setTickCmd_out_of_alone rfl]
    rfl
  exact absurd (hsent.symm.trans hsilent) (List.cons_ne_nil _ _)

end Sys2Proof.Machine
end

section
/-! SUPPORT. What records, events and error counts leave as it was (rules R287, R370, R372, R417). -/

namespace Sys2Proof.Machine

/-- Of s, t has kept what no record, event or error count touches: memory and the stores in hand, folios, tiles, the state of
resets, queues, mailboxes and commands in progress, and the marks that READY sets. -/
structure Told (s t : State) : Prop where
  wr : t.wr = s.wr
  mem : t.mem = s.mem
  tier : t.tier = s.tier
  run : t.run = s.run
  rst : t.rst = s.rst
  queues : t.desk.queues = s.desk.queues
  mbox : t.desk.mbox = s.desk.mbox
  cmds : t.desk.cmds = s.desk.cmds
  ready : t.desk.ready = s.desk.ready
  power : t.pwr.state = s.pwr.state
  walking : t.inv.enabled = s.inv.enabled
  scrubFrom : t.rel.scrubFrom = s.rel.scrubFrom
  firstReady : t.rel.firstReady = s.rel.firstReady

theorem Told.refl (s : State) : Told s s := by constructor <;> rfl

theorem Told.trans {s t u : State} (h : Told s t) (k : Told t u) : Told s u :=
  ⟨k.wr.trans h.wr, k.mem.trans h.mem, k.tier.trans h.tier, k.run.trans h.run, k.rst.trans h.rst, k.queues.trans h.queues,
   k.mbox.trans h.mbox, k.cmds.trans h.cmds, k.ready.trans h.ready, k.power.trans h.power, k.walking.trans h.walking,
   k.scrubFrom.trans h.scrubFrom, k.firstReady.trans h.firstReady⟩

theorem Told.forEach {α : Type} (l : List α) (s : State) (f : State → α → State) (h : ∀ s x, Told s (f s x)) :
    Told s (Machine.forEach l s f) := by
  unfold Machine.forEach
  induction l generalizing s with
  | nil => exact .refl s
  | cons x l ih => exact (h s x).trans (ih _)

/-- A record changes the registers of the log alone, and no mark that READY sets. -/
theorem logPush_frame (s : State) (src event : Nat) (data : List Nat) :
    ∃ seq q early drops, logPush s src event data =
      s.setRel { s.rel with logSeq := seq, logQ := q, early := early, logDrops := drops } := by
  simp only [logPush]
  split
  · split <;> exact ⟨_, _, _, _, rfl⟩
  · split <;> exact ⟨_, _, _, _, rfl⟩

theorem told_logPush (s : State) (src event : Nat) (data : List Nat) : Told s (logPush s src event data) := by
  obtain ⟨seq, q, early, drops, h⟩ := logPush_frame s src event data
  rw [h]
  constructor <;> rfl

theorem fireMsix_frame (s : State) (f : Nat) : ∃ p o, fireMsix s f = (s.setPcie p).setOut o := by
  unfold fireMsix
  split
  · exact ⟨(modPcie s f fun p => { p with pending := true }).pcie, s.out, rfl⟩
  · exact ⟨s.pcie, _, rfl⟩

/-- A function event sets its bit of DSK_FN_EVENT and may send the function's message. -/
theorem raiseFn_frame (s : State) (f : Nat) (b : FnBit) :
    ∃ p o, raiseFn s f b = ((setFn s f (fnSet (getFn s f) true b)).setPcie p).setOut o := by
  simp only [raiseFn]
  split
  · exact fireMsix_frame _ _
  · exact ⟨s.pcie, s.out, rfl⟩

theorem told_raiseFn (s : State) (f : Nat) (b : FnBit) : Told s (raiseFn s f b) := by
  obtain ⟨p, o, h⟩ := raiseFn_frame s f b
  rw [h]
  constructor <;> rfl

theorem told_setMgt (s : State) (m : Mgt) : Told s (s.setMgt m) := by constructor <;> rfl

theorem told_mgmtEvent (s : State) (code data : Nat) : Told s (mgmtEvent s code data) := by
  refine .trans ?_ (told_raiseFn _ _ _)
  split <;> exact told_setMgt _ _

/-- A management event shows in DSK_FN_EVENT of the physical function. -/
theorem mgmtEvent_shown (s : State) (code data : Nat) : (getFn (mgmtEvent s code data) 0).mgmt = true := by
  simp only [mgmtEvent]
  generalize (if s.mgt.events.length < 64 then _ else _ : State) = u
  obtain ⟨p, o, h⟩ := raiseFn_frame u 0 .mgmt
  rw [h]
  exact congrArg FnReg.mgmt (getFn_setFn u 0 _)

/-! ### Uncorrectable words -/

theorem told_bankError (s : State) (a : Nat) (ue : Bool) : Told s (bankError s a ue) := by
  unfold bankError
  split
  · split
    · constructor <;> rfl
    · cases ue <;> constructor <;> rfl
    · exact .refl s
  · exact .refl s

theorem told_reportUe (s : State) (a : Nat) (rd : Reader) (t : Option TileId) : Told s (reportUe s a rd t) := by
  refine .trans (.trans (told_bankError s a true) ?_) (.trans (told_logPush _ _ _ _) (told_mgmtEvent _ _ _))
  constructor <;> rfl

theorem inOrder_ne_nil {l : List Nat} (h : l ≠ []) : inOrder l ≠ [] := by
  obtain ⟨l, a, rfl⟩ := (List.eq_nil_or_concat l).resolve_left h
  simp [inOrder]

/-- A read that meets no single-bit error, but an uncorrectable word, says so and reports it. -/
theorem readErrors_bad {s : State} {a n : Nat} (rd : Reader) (t : Option TileId) (hce : s.ecc.ce = []) (hue : ueIn s a n ≠ []) :
    ∃ u, readErrors s a n rd t = (true, u) ∧ Told s u := by
  have hce : inOrder (ceIn s a n) = [] := by simp [ceIn, hce, inOrder]
  refine ⟨_, ?_, Told.forEach (inOrder (ueIn s a n)) s _ fun s x => told_reportUe s x rd t⟩
  simp [readErrors, hce, forEach, inOrder_ne_nil hue]

theorem readErrors_undamaged {s : State} (a n : Nat) (rd : Reader) (t : Option TileId) (h : Undamaged s) :
    readErrors s a n rd t = (false, s) := by
  obtain ⟨hue, hce⟩ := h
  simp [readErrors, ceIn, ueIn, hue, hce, inOrder, forEach]

/-- A store where no word is damaged. -/
theorem storeBytes_undamaged {s : State} (a : Nat) (bs : List Byte) (h : Undamaged s) :
    storeBytes s a bs = (true, writeMem s a bs) := by
  obtain ⟨hue, hce⟩ := h
  have hecc : s.ecc = ⟨[], []⟩ := by cases he : s.ecc; simp_all
  simp only [storeBytes, partBad, ueIn, inOrder, forEach, writeMem, State.setWr, State.setEcc, hecc]
  rfl

end Sys2Proof.Machine
end

section
/-! SUPPORT. The end of a bring-up: records held until the Stacks are trained, moves that an L2 episode has left (rules R231, R304,
R344, R345, R361, R375). -/

namespace Sys2Proof.Machine

/-! ### Records of the log written in their place -/

theorem forEach_writeMem {α : Type} (l : List α) (s : State) (at_ : State → α → Nat) (bs : State → α → List Byte) :
    ∃ w, forEach l s (fun t x => writeMem t (at_ t x) (bs t x)) = s.setWr w := by
  unfold forEach
  induction l generalizing s with
  | nil => exact ⟨s.wr, rfl⟩
  | cons x l ih =>
    obtain ⟨w, h⟩ := ih (writeMem s (at_ s x) (bs s x))
    exact ⟨w, h⟩

/-- A store changes the stores in hand and the damage alone. -/
theorem storeBytes_frame (s : State) (a : Nat) (bs : List Byte) : ∃ w e, (storeBytes s a bs).2 = (s.setWr w).setEcc e := by
  obtain ⟨w, h⟩ := forEach_writeMem (partBad s a bs.length) (writeMem s a bs) (fun _ x => max a x) fun _ x =>
    readMem s (max a x) (min (a + bs.length) (x + wordSize x) - max a x)
  simp only [storeBytes, h]
  exact ⟨w, _, rfl⟩

/-- Records written in their place advance LOG_HEAD by their number. -/
theorem forEach_logWrite (l : List LogRec) (s : State) : ∃ w e, forEach l s logWrite =
    ((s.setWr w).setEcc e).setRel { s.rel with logHead := s.rel.logHead + BitVec.ofNat 32 l.length } := by
  unfold forEach
  induction l generalizing s with
  | nil => exact ⟨s.wr, s.ecc, by simp [State.setWr, State.setEcc, State.setRel]⟩
  | cons r l ih =>
    obtain ⟨w, e, hstore⟩ := storeBytes_frame s (logBase + 32 * (s.rel.logHead.toNat % 2 ^ 21)) (logBytes r)
    obtain ⟨w', e', hrest⟩ := ih (logWrite s r)
    have hlen : s.rel.logHead + 1 + BitVec.ofNat 32 l.length = s.rel.logHead + BitVec.ofNat 32 (r :: l).length := by
      rw [List.length_cons, BitVec.ofNat_add, BitVec.add_assoc, BitVec.add_comm 1]; rfl
    refine ⟨w', e', ?_⟩
    rw [List.foldl_cons, hrest, logWrite, hstore, ← hlen]
    rfl

/-! ### Training -/

/-- What training makes of the Depository: D of a legal population, and otherwise none, with event 0x0B. -/
def populated (ms : List (Option Nat)) (s : State) : State :=
  match populationOf ms with
  | some d => s.setTier { s.tier with depGib := d }
  | none => mgmtEvent (s.setTier { s.tier with depGib := 0 }) 0x0B (ms.filterMap id).length

theorem told_populated (ms : List (Option Nat)) (s : State) :
    Told (s.setTier { s.tier with depGib := (populationOf ms).getD 0 }) (populated ms s) := by
  unfold populated
  cases populationOf ms with
  | some d => exact .refl _
  | none => exact told_mgmtEvent _ _ _

theorem populated_rel (ms : List (Option Nat)) (s : State) : (populated ms s).rel = s.rel := by
  unfold populated
  split
  · rfl
  · exact (quiet_mgmtEvent _ _ _).rel

theorem populated_shown {ms : List (Option Nat)} (s : State) (h : populationOf ms = none) :
    (getFn (populated ms s) 0).mgmt = true := by
  rw [populated, h]
  exact mgmtEvent_shown _ _ _

/-- Step 5 follows step 4 when training and the tests have both ended, outside safe mode. -/
theorem trainedAll_eq (s : State) : trainedAll s = s.setRst { s.rst with
    step := if s.rst.trained = true ∧ s.rst.qAclk = true ∧ s.rst.safe = false ∧ s.rst.step = 4 then 5 else s.rst.step } := by
  unfold trainedAll
  split
  · next h => rw [if_pos (by simpa [and_assoc] using h)]; rfl
  · next h => rw [if_neg (by simpa [and_assoc] using h)]; rfl

/-- Training marks the tiers trained, writes every record held until then, and may complete step 4. -/
theorem memoryTrainingDone_frame {s : State} {lv : Nat} (ms : List (Option Nat)) (hb : bringing s = some lv) (hlv : lv ≠ 2)
    (hq : s.rst.qMem = true) (ht : s.rst.trained = false) : ∃ w e, memoryTrainingDone ms s =
      ((((populated ms s).setWr w).setEcc e).setRel
        { s.rel with early := [], logHead := s.rel.logHead + BitVec.ofNat 32 s.rel.early.length }).setRst
          { s.rst with
            trained := true
            step := if s.rst.qAclk = true ∧ s.rst.safe = false ∧ s.rst.step = 4 then 5 else s.rst.step } := by
  have hrst : (populated ms s).rst = s.rst := (told_populated ms s).rst
  have hdone : memoryTrainingDone ms s =
      trainedAll (forEach (populated ms s).rel.early
        (((populated ms s).setRst { (populated ms s).rst with trained := true }).setRel { (populated ms s).rel with early := [] })
          logWrite) := by
    simp only [memoryTrainingDone, hb, hq, ht, hlv, if_false, Bool.not_true, Bool.or_self, Bool.false_eq_true]
    rfl
  rw [hrst, populated_rel] at hdone
  obtain ⟨w, e, hlog⟩ := forEach_logWrite s.rel.early
    (((populated ms s).setRst { s.rst with trained := true }).setRel { s.rel with early := [] })
  refine ⟨w, e, ?_⟩
  rw [hdone, hlog, trainedAll_eq]
  simp [State.setRst, State.setRel, State.setWr, State.setEcc]

/-! ### Moves that an L2 episode has left (rule R231) -/

/-- A COPYING entry goes back to its source. -/
def revertMove (s : State) (x : Nat × Folio) : State :=
  let u := modFolio s x.1 fun f => { f with state := 0, dest := 0 }
  let v := u.setTier { u.tier with cur := { u.tier.cur with moves := u.tier.cur.moves.filter fun m => m.folio != x.1 } }
  logPush v (logSrc 7 0) 0x0002 [x.1, 1, b2n (!x.2.tier)]

theorem revertMoves_eq (s : State) :
    revertMoves s = forEach (s.tier.folios.filter fun x => x.2.valid && x.2.state == 1) s revertMove := rfl

/-- Of s, t differs in the tiers and the log alone, and no folio that was settled has left its state. -/
structure Reverted (s t : State) : Prop where
  frame : ∃ x r, t = (s.setTier x).setRel r ∧ r.firstReady = s.rel.firstReady
  settled : ∀ g, (getFolio s g).state = 0 → (getFolio t g).state = 0

theorem Reverted.trans {s t u : State} (h : Reverted s t) (k : Reverted t u) : Reverted s u where
  frame := by
    obtain ⟨x, r, rfl, hr⟩ := h.frame
    obtain ⟨y, q, rfl, hq⟩ := k.frame
    exact ⟨y, q, rfl, hq.trans hr⟩
  settled g hg := k.settled g (h.settled g hg)

theorem revertMove_frame (s : State) (x : Nat × Folio) :
    ∃ cur r, revertMove s x =
      (s.setTier { (modFolio s x.1 fun f => { f with state := 0, dest := 0 }).tier with cur := cur }).setRel r ∧
        r.firstReady = s.rel.firstReady := by
  simp only [revertMove]
  generalize hv : State.setTier _ _ = v
  obtain ⟨seq, q, early, drops, h⟩ := logPush_frame v (logSrc 7 0) 0x0002 [x.1, 1, b2n (!x.2.tier)]
  rw [h, ← hv]
  exact ⟨_, _, rfl, rfl⟩

theorem revertMove_self (s : State) (x : Nat × Folio) : (getFolio (revertMove s x) x.1).state = 0 := by
  obtain ⟨cur, r, h, -⟩ := revertMove_frame s x
  rw [h]
  exact congrArg Folio.state (getFolio_setFolio s x.1 _)

theorem revertMove_reverted (s : State) (x : Nat × Folio) : Reverted s (revertMove s x) where
  frame := by
    obtain ⟨cur, r, h, hr⟩ := revertMove_frame s x
    exact ⟨_, r, h, hr⟩
  settled g hg := by
    by_cases hx : x.1 = g
    · rw [← hx]
      exact revertMove_self s x
    · obtain ⟨cur, r, h, -⟩ := revertMove_frame s x
      rw [h]
      exact (congrArg Folio.state (getFolio_setFolio_ne s _ hx)).trans hg

theorem forEach_revertMove (l : List (Nat × Folio)) (s : State) :
    Reverted s (forEach l s revertMove) ∧ ∀ x ∈ l, (getFolio (forEach l s revertMove) x.1).state = 0 := by
  unfold forEach
  induction l generalizing s with
  | nil => exact ⟨⟨⟨s.tier, s.rel, rfl, rfl⟩, fun _ hg => hg⟩, List.forall_mem_nil _⟩
  | cons x l ih =>
    obtain ⟨hrest, hl⟩ := ih (revertMove s x)
    exact ⟨(revertMove_reverted s x).trans hrest,
      List.forall_mem_cons.2 ⟨hrest.settled _ (revertMove_self s x), hl⟩⟩

theorem revertMoves_reverted (s : State) : Reverted s (revertMoves s) := (forEach_revertMove _ s).1

/-- Every valid entry that was COPYING stands at its source again. -/
theorem revertMoves_settles {s : State} {x : Nat × Folio} (hx : x ∈ s.tier.folios) (hv : x.2.valid = true) (hs : x.2.state = 1) :
    (getFolio (revertMoves s) x.1).state = 0 := by
  rw [revertMoves_eq]
  exact (forEach_revertMove _ s).2 x (List.mem_filter.2 ⟨hx, by simp [hv, hs]⟩)

/-! ### READY -/

theorem aloneNode_frame (s : State) : ∃ f, aloneNode s = s.setFab f := by
  unfold aloneNode
  split
  · exact ⟨s.fab, rfl⟩
  · exact ⟨_, rfl⟩

theorem told_tripOwed (s : State) : Told s (tripOwed s) := by
  unfold tripOwed
  split
  · have hlogged := told_logPush s (logSrc 0 0) 0x0007 [s.pwr.tripSensor.toNat, s.pwr.tripTemp.toNat]
    refine hlogged.trans (.trans ?_ (told_mgmtEvent _ _ _))
    constructor <;> rfl
  · exact .refl s

/-- The state at READY, before what a trip owes. -/
def atReady (s : State) : State :=
  let now := s.clk.now.toNat
  let began := ((List.range 33).map fun e => (e, now)).filter fun x => x.2 != 0
  let firstReady := s.rel.firstReady.orElse fun _ => some s.clk.now
  let u := s.setDesk { s.desk with ready := true }
  let u := u.setInv { u.inv with enabled := true, cursor := [], swept := [], began := began }
  let u := u.setRel { u.rel with scrubbed := (0, 0), scrubFrom := (now, now), firstReady := firstReady }
  let u := u.setPwr { u.pwr with state := .active }
  u.setRst { u.rst with bringup := none, step := 6, armed := true, clkOnly := 0, fwCopy := some u.sec.fwDigest }

@[simp] theorem atReady_wr (s : State) : (atReady s).wr = s.wr := rfl
@[simp] theorem atReady_run (s : State) : (atReady s).run = s.run := rfl
@[simp] theorem atReady_tier (s : State) : (atReady s).tier = s.tier := rfl
@[simp] theorem atReady_queues (s : State) : (atReady s).desk.queues = s.desk.queues := rfl

theorem bringupReady_eq {s : State} (h : atStep s 5 = true) (hs : s.rst.safe = false) :
    bringupReady s = tripOwed (atReady (aloneNode (revertMoves s))) := by
  unfold bringupReady
  rw [if_neg (by simp [h, hs])]
  generalize aloneNode (revertMoves s) = v
  rfl

end Sys2Proof.Machine
end

section
/-! Memory training, READY, and a bring-up that is slow (rules R216, R344, R345, R379). -/

namespace Sys2Proof.Machine

theorem memoryTrainingDone_yields {s : State} {lv : Nat} (ms : List (Option Nat)) (hb : bringing s = some lv) (hlv : lv ≠ 2)
    (hq : s.rst.qMem = true) (ht : s.rst.trained = false) : Yields (.memoryTrainingDone ms) s fun t =>
      t.rst.trained = true ∧ t.tier = { s.tier with depGib := (populationOf ms).getD 0 } ∧ t.rel.early = [] ∧
        t.rel.logHead = s.rel.logHead + BitVec.ofNat 32 s.rel.early.length ∧
        (populationOf ms = none → (getFn t 0).mgmt = true) ∧
        t.rst.step = (if s.rst.qAclk = true ∧ s.rst.safe = false ∧ s.rst.step = 4 then 5 else s.rst.step) ∧
        t.desk.queues = s.desk.queues := by
  refine ⟨_, rfl, ?_⟩
  have htold := told_populated ms s
  obtain ⟨w, e, hdone⟩ := memoryTrainingDone_frame ms hb hlv hq ht
  rw [hdone]
  exact ⟨rfl, htold.tier, rfl, rfl, fun hnone => populated_shown s hnone, rfl, htold.queues⟩

theorem bringupReady_yields {s : State} (hs : Tidy s) (h5 : atStep s 5 = true) (hsafe : s.rst.safe = false) :
    Yields .bringupReady s fun t =>
      t.desk.ready = true ∧ t.rst.bringup = none ∧ t.rst.step = 6 ∧ t.rst.armed = true ∧ t.inv.enabled = true ∧
        t.pwr.state = .active ∧ t.rst.fwCopy = some s.sec.fwDigest ∧ t.rel.scrubFrom = (s.clk.now.toNat, s.clk.now.toNat) ∧
        t.rel.firstReady = (s.rel.firstReady.orElse fun _ => some s.clk.now) ∧ t.mem = s.mem ∧
        t.desk.queues = s.desk.queues ∧ t.run = s.run ∧
        ∀ x ∈ s.tier.folios, x.2.valid = true → x.2.state = 1 → (getFolio t x.1).state = 0 := by
  refine ⟨_, rfl, ?_⟩
  rw [bringupReady_eq h5 hsafe]
  have hsettled := fun x => revertMoves_settles (s := s) (x := x)
  obtain ⟨x, r, hrevert, hfirst⟩ := (revertMoves_reverted s).frame
  obtain ⟨f, halone⟩ := aloneNode_frame (revertMoves s)
  rw [hrevert] at hsettled halone
  rw [hrevert, halone]
  have htold := told_tripOwed (atReady (((s.setTier x).setRel r).setFab f))
  generalize tripOwed (atReady (((s.setTier x).setRel r).setFab f)) = t at htold
  obtain ⟨hwr, -, htier, hrun, hrst, hqueues, -, -, hready, hpower, hwalking, hscrub, hfirstReady⟩ := htold
  rw [atReady_wr] at hwr
  rw [atReady_run] at hrun
  rw [atReady_tier] at htier
  rw [atReady_queues] at hqueues
  simp only [finish_rst, hrst]
  refine ⟨hready, rfl, rfl, rfl, hwalking, hpower, rfl, hscrub, ?_, mem_finish_of_wr_nil s t (hwr.trans hs.2), hqueues, hrun,
    fun y hy hv hcopy => ?_⟩
  · rw [← hfirst]
    exact hfirstReady
  · rw [← hsettled y hy hv hcopy]
    exact congrArg (fun t : Tiers => (tabGet Folio.reset t.folios y.1).state) htier

theorem bringupSlow_yields {s : State} (hs : Tidy s)
    (hb : (bringing s).isSome = true ∨ (s.rst.episode = none ∧ isOff s = false ∧ s.rst.l3Wings ≠ [])) (hslow : s.rst.slow = false) :
    Yields .bringupSlow s fun t =>
      t.rst = { s.rst with slow := true } ∧ (getFn t 0).mgmt = true ∧ t.mem = s.mem ∧ t.tier = s.tier ∧ t.run = s.run ∧
        t.desk.queues = s.desk.queues := by
  have hmarked : bringupSlow s = mgmtEvent (s.setRst { s.rst with slow := true }) 0x01 (causeWord s.rst.cause) := by
    unfold bringupSlow
    rcases hb with hb | ⟨he, ho, hl⟩
    · simp [hslow, Option.isNone_eq_false_iff.2 hb]
    · simp [hslow, he, ho, hl]
  refine ⟨_, rfl, ?_⟩
  rw [hmarked]
  have htold := told_mgmtEvent (s.setRst { s.rst with slow := true }) 0x01 (causeWord s.rst.cause)
  exact ⟨htold.rst, mgmtEvent_shown _ _ _, mem_finish_of_wr_nil _ _ (htold.wr.trans hs.2), htold.tier, htold.run, htold.queues⟩

/-- Settles O40: training sets the Depository and writes the records held until then (forEach_logWrite), READY first reverts what
was COPYING (revertMoves_settles), and a slow bring-up is one management event (mgmtEvent_shown). -/
theorem bringupCompletes : Obligations.BringupCompletes := by
  intro s hs
  exact ⟨fun ms lv hb hlv hq ht => memoryTrainingDone_yields ms hb hlv hq ht, fun h5 hsafe => bringupReady_yields hs h5 hsafe,
    fun hb hslow => bringupSlow_yields hs hb hslow⟩

end Sys2Proof.Machine
end

section
/-! SUPPORT. What an answer writes in its mailbox (rule R264, Tables 11.2, 11.16), and what answers to several commands leave. -/

namespace Sys2Proof.Machine

/-- An answer is that of the mailbox as it finds it. -/
theorem answered_respond (s : State) (f k : Nat) {st : Nat} {p : List Nat} (hst : st < 65536) (hp : p.length < 2 ^ 20) :
    Answered s (respond s f k st p) f k st p :=
  (respond_replies (s.setWr []) (s.setWr []) f k st p hst hp rfl rfl (fun _ _ _ => rfl) (s.setWr []) rfl rfl).1

/-- The answer to a request that the Desk has taken up, in a state u that has kept the mailbox. -/
theorem answered_taken {s u : State} {f k st : Nat} {p : List Nat} (hu : getMb u f k = getMb (takenMb s f k) f k) (hst : st < 65536)
    (hp : p.length < 2 ^ 20) : Answered s (respond u f k st p) f k st p := by
  have h := answered_respond u f k hst hp
  rw [takenMb, getMb_setMb] at hu
  rw [Answered, hu] at h
  exact h

theorem Answered.finish {r s t : State} {f k st : Nat} {p : List Nat} (h : Answered s t f k st p) :
    Answered s (finish r t) f k st p := h

theorem getFolio_congr {s t : State} (h : t.tier = s.tier) (g : Nat) : getFolio t g = getFolio s g := by rw [getFolio, h]; rfl

theorem mbOp_congr {m n : Mbox} (h : m.req = n.req) : mbOp m = mbOp n := by
  simp only [mbOp, rqWord, h]

theorem forEach_respond_frame (l : List Cmd) (s : State) (st : Nat) :
    ∃ mb cs, forEach l s (fun s c => respond s c.f c.k st []) = s.setDesk { s.desk with mbox := mb, cmds := cs } := by
  unfold forEach
  induction l generalizing s with
  | nil => exact ⟨s.desk.mbox, s.desk.cmds, rfl⟩
  | cons c l ih =>
    obtain ⟨mb, cs, h⟩ := ih (respond s c.f c.k st [])
    exact ⟨mb, cs, h⟩

/-- No answer changes a request. -/
theorem respond_req (s : State) (f k st : Nat) (p : List Nat) (f' k' : Nat) :
    (getMb (respond s f k st p) f' k').req = (getMb s f' k').req := by
  by_cases h : 8 * f' + k' = 8 * f + k
  · have hbox (t : State) : getMb t f' k' = getMb t f k := by rw [getMb, h]; rfl
    rw [hbox, hbox, getMb_respond]
  · rw [getMb_respond_ne _ _ _ _ _ _ _ h]

end Sys2Proof.Machine
end

section
/-! SUPPORT. Free folio IDs and free extents (rules R218, R220; notes/assumptions/9). -/

namespace Sys2Proof.Machine

theorem firstPos_some {ok : Nat → Bool} {n i j : Nat} (h : firstPos ok n i = some j) : i ≤ j ∧ j < i + n ∧ ok j = true := by
  induction n generalizing i with
  | zero => exact absurd h (by simp [firstPos])
  | succ n ih =>
    unfold firstPos at h
    split at h
    · next hi =>
      obtain rfl := Option.some.inj h
      exact ⟨Nat.le_refl _, by omega, hi⟩
    · obtain ⟨hlo, hhi, hj⟩ := ih h
      exact ⟨by omega, by omega, hj⟩

/-- A position that passes the test is enough for one to be found. -/
theorem firstPos_found {ok : Nat → Bool} {n i j : Nat} (hlo : i ≤ j) (hhi : j < i + n) (hj : ok j = true) :
    ∃ v, firstPos ok n i = some v := by
  induction n generalizing i with
  | zero => omega
  | succ n ih =>
    unfold firstPos
    split
    · exact ⟨i, rfl⟩
    · next hi =>
      have : i ≠ j := fun e => hi (e ▸ hj)
      exact ih (by omega) (by omega)

/-- A folio ID that an entry may take: it is in range and no entry has it. -/
def FreeId (s : State) (i : Nat) : Prop := 1 ≤ i ∧ i < 1048576 ∧ ∀ x ∈ s.tier.folios, x.1 ≠ i

/-- Firmware picks a free ID when there is one. -/
theorem pickFolio_free {s : State} (h : ∃ i, FreeId s i) :
    ∃ fid c, FreeId s fid ∧ pickFolio s = (some fid, s.setFreeCtr c) := by
  obtain ⟨i, hlo, hhi, hfree⟩ := h
  have hunused (j : Nat) : (!(s.tier.folios.any fun x => x.1 == j)) = true ↔ ∀ x ∈ s.tier.folios, x.1 ≠ j := by simp
  by_cases hv : (!(s.tier.folios.any fun x => x.1 == 1 + Config.free s.freeCtr % 1048575)) = true
  · refine ⟨_, s.freeCtr + 1, ⟨Nat.le_add_right 1 _, by omega, (hunused _).1 hv⟩, ?_⟩
    exact congrArg (·, s.setFreeCtr (s.freeCtr + 1)) (if_pos hv)
  · let unused := fun (j : Nat) => !(s.tier.folios.any fun x => x.1 == j)
    obtain ⟨j, hj⟩ := firstPos_found (ok := unused) (n := 1048575) hlo (by omega) ((hunused i).2 hfree)
    obtain ⟨hjlo, hjhi, hjfree⟩ := firstPos_some hj
    refine ⟨j, s.freeCtr + 1, ⟨hjlo, by omega, (hunused j).1 hjfree⟩, ?_⟩
    exact congrArg (·, s.setFreeCtr (s.freeCtr + 1)) ((if_neg hv).trans hj)

/-- Unit u begins an aligned extent of n units of a tier that holds nothing. -/
def FreeExtent (s : State) (depos : Bool) (n u : Nat) : Prop :=
  (∃ i, i < (tierUnits s depos).2 / n ∧ u = (tierUnits s depos).1 + i * n) ∧ extentFree (extents s) u n = true

/-- Firmware picks a free extent when there is one. -/
theorem pickExtent_free {s : State} {depos : Bool} {n : Nat} (h : hasExtent s depos (extents s) n = true) :
    ∃ u c, FreeExtent s depos n u ∧ pickExtent s depos n = (some u, s.setFreeCtr c) := by
  obtain ⟨j, hj⟩ : ∃ j, firstPos (fun i => extentFree (extents s) ((tierUnits s depos).1 + i * n) n) ((tierUnits s depos).2 / n) 0 =
    some j := Option.isSome_iff_exists.1 h
  by_cases hv : (tierUnits s depos).2 / n ≠ 0 ∧ extentFree (extents s)
      ((tierUnits s depos).1 + Config.free s.freeCtr % ((tierUnits s depos).2 / n) * n) n = true
  · refine ⟨_, s.freeCtr + 1, ⟨⟨_, Nat.mod_lt _ (Nat.pos_of_ne_zero hv.1), rfl⟩, hv.2⟩, if_pos hv⟩
  · obtain ⟨-, hlt, hfree⟩ := firstPos_some hj
    refine ⟨_, s.freeCtr + 1, ⟨⟨j, by omega, rfl⟩, hfree⟩, (if_neg hv).trans ?_⟩
    exact congrArg (fun o : Option Nat => (o.map fun i => (tierUnits s depos).1 + i * n, s.setFreeCtr (s.freeCtr + 1))) hj

end Sys2Proof.Machine
end

section
/-! FOLIO_ALLOC (rules R218, R220). -/

namespace Sys2Proof.Machine

/-- The new entry of a folio. -/
def newFolio (tenant size hint : Nat) (depos : Bool) (u : Nat) : Folio :=
  { Folio.reset with valid := true, size := BitVec.ofNat 2 size, hint := BitVec.ofNat 2 hint, tenant := BitVec.ofNat 5 tenant,
                     tier := depos, base := BitVec.ofNat 28 u }

/-- The folio's entry is x, its bytes are zeros, and the mailbox answers with its ID. -/
def placed (s : State) (f k fid : Nat) (x : Folio) : State :=
  respond (zeroFill (setFolio s fid x) (folioBase x) (folioBase x + folioSize x)) f k stOk [fid]

theorem placeFolio_placed {s : State} (f k tenant size hint : Nat) {depos : Bool} (hid : ∃ i, FreeId s i)
    (hx : hasExtent s depos (extents s) (classUnits size) = true) :
    ∃ fid u c, FreeId s fid ∧ FreeExtent s depos (classUnits size) u ∧
      placeFolio s f k tenant size hint depos = placed (s.setFreeCtr c) f k fid (newFolio tenant size hint depos u) := by
  obtain ⟨fid, c, hfid, hpick⟩ := pickFolio_free hid
  obtain ⟨u, c', hu, hextent⟩ := pickExtent_free (s := s.setFreeCtr c) hx
  refine ⟨fid, u, c', hfid, hu, ?_⟩
  simp only [placeFolio, hpick, hextent]
  rfl

theorem placed_keeps (s : State) (f k fid : Nat) (x : Folio) :
    let t := placed s f k fid x
    t.desk.queues = s.desk.queues ∧ t.run = s.run ∧ t.rel = s.rel ∧ t.rst = s.rst ∧ t.sec = s.sec ∧ t.fab = s.fab :=
  ⟨rfl, rfl, rfl, rfl, rfl, rfl⟩

theorem getFolio_placed (s : State) (f k fid : Nat) (x : Folio) (g : Nat) :
    getFolio (placed s f k fid x) g = if fid = g then x else getFolio s g := by
  have hset : getFolio (placed s f k fid x) g = getFolio (setFolio s fid x) g := rfl
  rw [hset]
  split
  · next h => rw [← h, getFolio_setFolio]
  · next h => exact getFolio_setFolio_ne s x h

/-- The folio's range reads as zeros when the command ends, and every other byte as before. -/
theorem readByte_placed {s u : State} (hs : Tidy s) (hu : u.wr = []) (f k fid : Nat) (x : Folio) (a : Nat) :
    readByte (finish s (placed u f k fid x)) a =
      if folioBase x ≤ a ∧ a < folioBase x + folioSize x then 0 else readByte s a := by
  have hwr : (placed u f k fid x).wr = [.clear (folioBase x) (folioBase x + folioSize x)] := congrArg (List.cons _) hu
  rw [readByte_finish _ _ _ hs.1, readByte_tidy s a hs, hwr]
  exact cellAt_memClear 0 s.mem _ _ a

section
variable (s : State) (f k : Nat)

/-- The tenant, the size class and the tiers that FOLIO_ALLOC asks for (Table 11.4), and of these the tiers that have a free extent.
-/
def allocTenant : Nat := if f = 0 then reqWord s f k 1 else f
def allocSize : Nat := bits 1 0 (reqWord s f k 0)
def allocTiers : List Bool :=
  if bits 5 4 (reqWord s f k 0) = 0 then [false] else if bits 5 4 (reqWord s f k 0) = 1 then [true] else [false, true]
def allocSpace : List Bool := (allocTiers s f k).filter fun d => hasExtent s d (extents s) (classUnits (allocSize s f k))

/-- The tier in which the folio is placed: the first that has a free extent and that the tenant's limit allows. -/
def allocTier : Option Bool :=
  (allocSpace s f k).find? fun d => withinLimit s (allocTenant s f k) d (classUnits (allocSize s f k))

theorem folioAllocCmd_taken : folioAllocCmd f k (getMb s f k) (takenMb s f k) =
    match allocTier s f k with
    | some d => placeFolio (takenMb s f k) f k (allocTenant s f k) (allocSize s f k) (bits 3 2 (reqWord s f k 0)) d
    | none => respond (takenMb s f k) f k (if (allocSpace s f k).isEmpty then stNoSpace else stOverLimit) [] := rfl

end

/-- Settles O6: an ID and an extent are found where there are some (pickFolio_free, pickExtent_free), and the placed folio's range
is zero-filled. -/
theorem folioAllocation : Obligations.FolioAllocation := by
  intro f k s hs hg size hint n tenant tiers space
  have hcmd := (takeUpCmd_plain s f k 0x30 (folioAllocCmd f k) hg rfl).trans (folioAllocCmd_taken s f k)
  constructor
  · intro d hd hid
    have htier : allocTier s f k = some d := hd
    have hroom : hasExtent s d (extents s) n = true := (List.mem_filter.1 (List.mem_of_find?_eq_some hd)).2
    obtain ⟨fid, u, c, ⟨hlo, hhi, hfree⟩, ⟨hplace, hextent⟩, hplaced⟩ :=
      placeFolio_placed (s := takenMb s f k) f k tenant size hint hid hroom
    rw [htier] at hcmd
    refine ⟨_, rfl, ?_⟩
    rw [hcmd.trans hplaced]
    have hself := getFolio_placed ((takenMb s f k).setFreeCtr c) f k fid (newFolio tenant size hint d u)
    have hans : Answered s (placed ((takenMb s f k).setFreeCtr c) f k fid (newFolio tenant size hint d u)) f k 0 [fid] :=
      answered_taken rfl (by decide) (by simp)
    have hbytes := readByte_placed (u := (takenMb s f k).setFreeCtr c) hs hs.2 f k fid (newFolio tenant size hint d u)
    obtain ⟨hq, hrun, hrel, hrst, hsec, hfab⟩ :=
      placed_keeps ((takenMb s f k).setFreeCtr c) f k fid (newFolio tenant size hint d u)
    generalize placed ((takenMb s f k).setFreeCtr c) f k fid (newFolio tenant size hint d u) = t at *
    have hnew : getFolio (finish s t) fid = newFolio tenant size hint d u := (hself fid).trans (if_pos rfl)
    refine ⟨fid, u, hlo, hhi, hfree, hplace, hextent, hnew, fun g hg => ?_, hans.finish, hnew.symm ▸ hbytes, hq, hrun, hrel, hrst,
      hsec, hfab⟩
    exact (hself g).trans (if_neg (Ne.symm hg))
  · intro hnone
    have htier : allocTier s f k = none := hnone
    rw [htier] at hcmd
    refine ⟨_, rfl, ?_⟩
    rw [hcmd]
    have hstatus : (if space = [] then 0x16 else 0x17) = if (allocSpace s f k).isEmpty then stNoSpace else stOverLimit := by
      simp only [List.isEmpty_iff]; rfl
    rw [hstatus]
    exact replies_of_update s (takenMb s f k) s f k _ [] (by split <;> decide) (by decide) rfl hs.2 rfl

end Sys2Proof.Machine
end

section
/-! SUPPORT. Moves that start and end (rules R227, R228, R230). -/

namespace Sys2Proof.Machine

/-- The move of folio fid has ended, or there was none: of s, t has changed the folio's entry, which is now y, the list of moves and
the log. -/
structure MoveEnded (s t : State) (fid : Nat) (y : Folio) : Prop where
  frame : ∃ x r, t = { s with tier := x, rel := r }
  self : getFolio t fid = y
  others : ∀ g, g ≠ fid → getFolio t g = getFolio s g
  moved : moveOf t fid = none

theorem find?_move_removed (l : List Move) (fid : Nat) :
    (l.filter fun m => m.folio != fid).find? (fun m => m.folio == fid) = none := by
  simp [List.find?_eq_none]

/-- The end of a move takes it from the list. -/
theorem endMove_ended (s : State) (fid how : Nat) : MoveEnded s (endMove s fid how) fid (getFolio s fid) := by
  cases hm : moveOf s fid with
  | none =>
    rw [endMove, hm]
    exact ⟨⟨s.tier, s.rel, rfl⟩, rfl, fun _ _ => rfl, hm⟩
  | some m =>
    have hgone := find?_move_removed s.tier.cur.moves fid
    simp only [endMove, hm]
    generalize hv : State.setTier s _ = v
    obtain ⟨seq, q, early, drops, hlog⟩ := logPush_frame v (logSrc 7 0) 0x0002 [fid, how, b2n m.toTier]
    rw [hlog, ← hv]
    exact ⟨⟨_, _, rfl⟩, rfl, fun _ _ => rfl, hgone⟩

/-- The end of a move after its folio's entry has been rewritten. -/
theorem endMove_setFolio (s : State) (fid how : Nat) (y : Folio) : MoveEnded s (endMove (setFolio s fid y) fid how) fid y := by
  obtain ⟨⟨x, r, hframe⟩, hself, hothers, hmoved⟩ := endMove_ended (setFolio s fid y) fid how
  exact ⟨⟨x, r, hframe⟩, hself.trans (getFolio_setFolio s fid y),
    fun g hg => (hothers g hg).trans (getFolio_setFolio_ne s y (Ne.symm hg)), hmoved⟩

/-- An abandoned move leaves its folio at the source, STUCK after an uncorrectable error. -/
theorem abandonMove_some {s : State} {fid : Nat} {m : Move} (stuck : Bool) (h : moveOf s fid = some m) :
    MoveEnded s (abandonMove s fid stuck) fid { getFolio s fid with state := if stuck then 2 else 0, dest := 0 } := by
  rw [abandonMove, h]
  exact endMove_setFolio s fid _ _

theorem abandonMove_ended (s : State) (fid : Nat) (stuck : Bool) :
    ∃ y, y.base = (getFolio s fid).base ∧ MoveEnded s (abandonMove s fid stuck) fid y := by
  cases h : moveOf s fid with
  | none =>
    rw [abandonMove, h]
    exact ⟨_, rfl, ⟨s.tier, s.rel, rfl⟩, rfl, fun _ _ => rfl, h⟩
  | some m =>
    refine ⟨_, ?_, abandonMove_some stuck h⟩
    rfl

/-- A folio's entry is COPYING to unit u, and its move is in the list. -/
def started (s : State) (fid u : Nat) (depos pin : Bool) : State :=
  let v := setFolio s fid { getFolio s fid with state := 1, dest := BitVec.ofNat 28 u }
  v.setTier { v.tier with cur := { v.tier.cur with
    moves := v.tier.cur.moves ++ [{ folio := fid, toTier := depos, next := 0, pin := pin }] } }

/-- The move of folio fid to a tier has started; no chunk is copied yet. -/
structure MoveStarted (s t : State) (fid : Nat) (depos pin : Bool) : Prop where
  frame : ∃ c x, t = { s with freeCtr := c, tier := x }
  state : (getFolio t fid).state = 1
  base : (getFolio t fid).base = (getFolio s fid).base
  others : ∀ g, g ≠ fid → getFolio t g = getFolio s g
  move : moveOf t fid = some { folio := fid, toTier := depos, next := 0, pin := pin }

theorem startMove_started {s : State} {fid : Nat} {depos : Bool} (pin : Bool) (hm : moveOf s fid = none)
    (hx : hasExtent s depos (extents s) (folioUnits (getFolio s fid)) = true) :
    ∃ t, startMove s fid depos pin = (true, t) ∧ MoveStarted s t fid depos pin := by
  obtain ⟨u, c, -, hpick⟩ := pickExtent_free hx
  have hnone : s.tier.cur.moves.find? (fun m => m.folio == fid) = none := hm
  refine ⟨started (s.setFreeCtr c) fid u depos pin, by rw [startMove, hpick]; rfl, ⟨_, _, rfl⟩, ?_, ?_, fun g hg => ?_, ?_⟩
  · exact congrArg Folio.state (getFolio_setFolio (s.setFreeCtr c) fid _)
  · exact (congrArg Folio.base (getFolio_setFolio (s.setFreeCtr c) fid _)).trans rfl
  · exact getFolio_setFolio_ne (s.setFreeCtr c) _ (Ne.symm hg)
  · show (s.tier.cur.moves ++ [_]).find? _ = _
    simp [List.find?_append, hnone]

end Sys2Proof.Machine
end

section
/-! SUPPORT. Folio free commands that complete (rule R221). -/

namespace Sys2Proof.Machine

/-- The end of a folio free command whose last tile has finished; another command stays. -/
def endFree (s : State) (c : Cmd) : State :=
  match c.why with
  | .folioFree fid =>
    if s.run.tiles.any fun x => tileNames s x fid then s else respond (setFolio s fid Folio.reset) c.f c.k stOk []
  | _ => s

theorem settleFrees_eq (s : State) : settleFrees s = forEach s.desk.cmds s endFree := rfl

/-- Whether an unfinished tile names a folio rests on tiles and queues alone. -/
theorem tileNames_congr {s t : State} (hq : t.desk.queues = s.desk.queues) (x : Tile) (fid : Nat) :
    tileNames t x fid = tileNames s x fid := by
  have hattrs : tileAttrs t x = tileAttrs s x := by
    unfold tileAttrs findRound getQ
    rw [hq]
  rw [tileNames, hattrs]; rfl

/-- No unfinished tile names a folio. -/
def Unnamed (s : State) (fid : Nat) : Prop := ∀ x ∈ s.run.tiles, tileNames s x fid = false

theorem unnamed_congr {s t : State} (hr : t.run = s.run) (hq : t.desk.queues = s.desk.queues) (fid : Nat) :
    Unnamed t fid ↔ Unnamed s fid := by
  simp only [Unnamed, hr, tileNames_congr hq]

theorem endFree_unnamed {s : State} {fid : Nat} (f k : Nat) (h : Unnamed s fid) :
    endFree s { f := f, k := k, why := .folioFree fid } = respond (setFolio s fid Folio.reset) f k stOk [] := by
  have hany : (s.run.tiles.any fun x => tileNames s x fid) = false := by simpa [Unnamed] using h
  exact if_neg (by rw [hany]; exact Bool.false_ne_true)

/-- Of s, t has ended some folio free commands: the entries of folios that no unfinished tile names may be free, and no request has
changed. -/
structure Freeing (s t : State) : Prop where
  frame : ∃ x mb cs, t = { s with tier := x, desk := { s.desk with mbox := mb, cmds := cs } }
  folio : ∀ g, getFolio t g = getFolio s g ∨ getFolio t g = Folio.reset ∧ Unnamed s g
  req : ∀ f k, (getMb t f k).req = (getMb s f k).req

theorem Freeing.refl (s : State) : Freeing s s := ⟨⟨s.tier, s.desk.mbox, s.desk.cmds, rfl⟩, fun _ => .inl rfl, fun _ _ => rfl⟩

theorem Freeing.unnamed {s t : State} (h : Freeing s t) (fid : Nat) : Unnamed t fid ↔ Unnamed s fid := by
  obtain ⟨x, mb, cs, h⟩ := h.frame
  exact unnamed_congr (by rw [h]) (by rw [h]) fid

theorem Freeing.trans {s t u : State} (h : Freeing s t) (k : Freeing t u) : Freeing s u where
  frame := by
    obtain ⟨x, mb, cs, rfl⟩ := h.frame
    obtain ⟨y, mb', cs', rfl⟩ := k.frame
    exact ⟨y, mb', cs', rfl⟩
  folio g := by
    rcases k.folio g with hg | ⟨hg, hu⟩
    · rw [hg]
      exact h.folio g
    · exact .inr ⟨hg, (h.unnamed g).1 hu⟩
  req f c := (k.req f c).trans (h.req f c)

theorem freeing_endFree (s : State) (c : Cmd) : Freeing s (endFree s c) := by
  unfold endFree
  split
  · next fid _ =>
    split
    · exact .refl s
    · next hfree =>
      have hunnamed : Unnamed s fid := by simpa [Unnamed] using hfree
      refine ⟨⟨_, _, _, rfl⟩, fun g => ?_, fun f k => respond_req (setFolio s fid Folio.reset) _ _ _ _ f k⟩
      have hset : getFolio (respond (setFolio s fid Folio.reset) c.f c.k stOk []) g = getFolio (setFolio s fid Folio.reset) g := rfl
      rw [hset]
      by_cases hg : fid = g
      · subst hg
        exact .inr ⟨getFolio_setFolio _ _ _, hunnamed⟩
      · exact .inl (getFolio_setFolio_ne s _ hg)
  · exact .refl s

theorem freeing_forEach (l : List Cmd) (s : State) : Freeing s (forEach l s endFree) := by
  unfold forEach
  induction l generalizing s with
  | nil => exact .refl s
  | cons c l ih => exact (freeing_endFree s c).trans (ih _)

/-- A command that waits for the tiles of a folio ends after those that waited before it. -/
theorem settleFrees_waitCmd (s : State) (f k fid : Nat) :
    ∃ v, Freeing (waitCmd s f k (.folioFree fid)) v ∧
      settleFrees (waitCmd s f k (.folioFree fid)) = endFree v { f := f, k := k, why := .folioFree fid } := by
  refine ⟨_, freeing_forEach s.desk.cmds _, ?_⟩
  rw [settleFrees_eq]
  exact List.foldl_append ..

end Sys2Proof.Machine
end

section
/-! FOLIO_FREE, FOLIO_PIN and FOLIO_UNPIN (rules R221, R230). -/

namespace Sys2Proof.Machine

/-- FOLIO_FREE before its tiles are looked at: a move of the folio is abandoned, its entry is invalid, and the entry's damage is
gone. -/
def unmapped (s : State) (fid : Nat) : State :=
  let u := modFolio (abandonMove s fid false) fid fun x => { x with valid := false }
  u.setEcc { ue := u.ecc.ue.filter fun x => !meets (entryAddr fid) 16 x,
             ce := u.ecc.ce.filter fun x => !meets (entryAddr fid) 16 x }

theorem folioFreeCmd_eq (f k : Nat) (m : Mbox) (s : State) :
    folioFreeCmd f k m s = settleFrees (waitCmd (unmapped s (rqP m 0)) f k (.folioFree (rqP m 0))) := rfl

theorem unmapped_frame (s : State) (fid : Nat) : ∃ x r e, unmapped s fid = { s with tier := x, rel := r, ecc := e } := by
  obtain ⟨y, -, ⟨x, r, h⟩, -⟩ := abandonMove_ended s fid false
  simp only [unmapped]
  rw [h]
  exact ⟨_, _, _, rfl⟩

theorem getFolio_unmapped (s : State) (fid : Nat) :
    (getFolio (unmapped s fid) fid).valid = false ∧ (getFolio (unmapped s fid) fid).base = (getFolio s fid).base := by
  obtain ⟨y, hbase, -, hself, -⟩ := abandonMove_ended s fid false
  have h : getFolio (unmapped s fid) fid = { y with valid := false } := by
    rw [← hself]
    exact getFolio_setFolio _ _ _
  rw [h]
  exact ⟨rfl, hbase⟩

/-- What a FOLIO_FREE leaves, whether it completes or waits; v: the state when the commands before it have been looked at. -/
theorem folioFree_taken {s : State} {f k : Nat} (hg : Granted s f k 0x31) :
    ∃ v, takeUpCmd f k 0x31 (folioFreeCmd f k) s = endFree v { f := f, k := k, why := .folioFree (reqWord s f k 0) } ∧
      Freeing (waitCmd (unmapped (takenMb s f k) (reqWord s f k 0)) f k (.folioFree (reqWord s f k 0))) v := by
  obtain ⟨v, hv, hend⟩ := settleFrees_waitCmd (unmapped (takenMb s f k) (reqWord s f k 0)) f k (reqWord s f k 0)
  refine ⟨v, ?_, hv⟩
  rw [takeUpCmd_plain s f k 0x31 (folioFreeCmd f k) hg rfl, folioFreeCmd_eq]
  exact hend

theorem folioFree_frame {s v : State} {f k fid : Nat}
    (hv : Freeing (waitCmd (unmapped (takenMb s f k) fid) f k (.folioFree fid)) v) :
    ∃ x r e mb cs, v = { s with tier := x, rel := r, ecc := e, desk := { s.desk with mbox := mb, cmds := cs } } := by
  obtain ⟨x, mb, cs, rfl⟩ := hv.frame
  obtain ⟨y, r, e, h⟩ := unmapped_frame (takenMb s f k) fid
  rw [h]
  exact ⟨x, r, e, mb, cs, rfl⟩

/-- FOLIO_FREE leaves memory, tiles, queues, the fabric and the state of resets as they are. -/
theorem folioFree_keeps {s v : State} {f k fid : Nat} (hs : Tidy s)
    (hv : Freeing (waitCmd (unmapped (takenMb s f k) fid) f k (.folioFree fid)) v) (c : Cmd) :
    let t := finish s (endFree v c)
    t.mem = s.mem ∧ t.run = s.run ∧ t.desk.queues = s.desk.queues ∧ t.fab = s.fab ∧ t.rst = s.rst := by
  obtain ⟨x, r, e, mb, cs, rfl⟩ := folioFree_frame hv
  obtain ⟨y, mb', cs', h⟩ := (freeing_endFree _ c).frame
  rw [h]
  exact ⟨mem_finish_of_wr_nil _ _ hs.2, rfl, rfl, rfl, rfl⟩

/-- No unfinished tile names the folio: it is free, and the command is answered. -/
theorem folioFree_unnamed {s : State} {f : Fin 32} {k : Fin 8} (hs : Tidy s) (hg : Granted s f k 0x31)
    (hn : Unnamed s (reqWord s f k 0)) : Yields (.folioFree f k) s fun t =>
      getFolio t (reqWord s f k 0) = Folio.reset ∧ (getMb t f k).state = 2 ∧ respWord t f k 0 = 65536 * 0x31 ∧
        respWord t f k 2 = 0 ∧ t.mem = s.mem ∧ t.run = s.run ∧ t.desk.queues = s.desk.queues ∧ t.fab = s.fab ∧ t.rst = s.rst := by
  obtain ⟨v, hcmd, hv⟩ := folioFree_taken hg
  have hkeeps := folioFree_keeps hs hv { f := f, k := k, why := .folioFree (reqWord s f k 0) }
  have hvn : Unnamed v (reqWord s f k 0) := by
    obtain ⟨x, r, e, mb, cs, rfl⟩ := folioFree_frame hv
    exact (unnamed_congr (s := s) rfl rfl _).2 hn
  rw [endFree_unnamed f k hvn] at hcmd hkeeps
  have hop : mbOp (getMb v f k) = 0x31 := by
    obtain ⟨y, r, e, h⟩ := unmapped_frame (takenMb s f k) (reqWord s f k 0)
    have hreq := hv.req f k
    rw [h] at hreq
    exact (mbOp_congr (hreq.trans (takenMb_req s f k))).trans hg.2.1
  obtain ⟨hstate, -, -, hword, -, hlen, -⟩ :=
    answered_respond (setFolio v (reqWord s f k 0) Folio.reset) f k (st := stOk) (p := []) (by decide) (by decide)
  refine ⟨_, rfl, ?_⟩
  rw [hcmd]
  refine ⟨getFolio_setFolio v _ _, hstate, hword.trans ?_, hlen, hkeeps⟩
  have hbox : getMb (setFolio v (reqWord s f k 0) Folio.reset) f k = getMb v f k := rfl
  rw [hbox, hop]; rfl

/-- An unfinished tile names the folio: its entry is invalid and keeps its extent. -/
theorem folioFree_named {s : State} {f : Fin 32} {k : Fin 8} (hs : Tidy s) (hg : Granted s f k 0x31)
    (hn : ¬ Unnamed s (reqWord s f k 0)) : Yields (.folioFree f k) s fun t =>
      (getFolio t (reqWord s f k 0)).valid = false ∧ (getFolio t (reqWord s f k 0)).base = (getFolio s (reqWord s f k 0)).base ∧
        t.mem = s.mem ∧ t.run = s.run ∧ t.desk.queues = s.desk.queues ∧ t.fab = s.fab ∧ t.rst = s.rst := by
  obtain ⟨v, hcmd, hv⟩ := folioFree_taken hg
  have hkeeps := folioFree_keeps hs hv { f := f, k := k, why := .folioFree (reqWord s f k 0) }
  have hall := hv.trans (freeing_endFree v { f := f, k := k, why := .folioFree (reqWord s f k 0) })
  obtain ⟨hvalid, hbase⟩ := getFolio_unmapped (takenMb s f k) (reqWord s f k 0)
  refine ⟨_, rfl, ?_⟩
  rw [hcmd]
  generalize endFree v _ = t at hkeeps hall
  have hentry : getFolio t (reqWord s f k 0) = getFolio (unmapped (takenMb s f k) (reqWord s f k 0)) (reqWord s f k 0) := by
    refine (hall.folio _).resolve_right fun ⟨_, hu⟩ => hn ?_
    obtain ⟨y, r, e, h⟩ := unmapped_frame (takenMb s f k) (reqWord s f k 0)
    rw [h] at hu
    exact (unnamed_congr (s := s) rfl rfl _).1 hu
  have hend : getFolio (finish s t) (reqWord s f k 0) = getFolio t (reqWord s f k 0) := rfl
  rw [hend, hentry]
  exact ⟨hvalid, hbase, hkeeps⟩

/-! ### Pins -/

/-- A change of one folio's entry, and an OK answer. -/
theorem modFolio_replies {s : State} {f k fid : Nat} (hs : Tidy s) (y : Folio) :
    Replies s { s with tier := { s.tier with folios := tabSet Folio.reset s.tier.folios fid y } } f k 0 []
      (finish s (respond (setFolio (takenMb s f k) fid y) f k stOk [])) :=
  replies_of_update s (setFolio (takenMb s f k) fid y) _ f k stOk [] (by decide) (by decide) rfl hs.2 rfl

section
variable {s : State} {f k : Nat}

theorem folioPinCmd_settled (hm : moveOf s (reqWord s f k 0) = none) :
    folioPinCmd f k (getMb s f k) (takenMb s f k) =
      let fid := reqWord s f k 0
      let depos := decide (reqWord s f k 1 = 1)
      let x := getFolio s fid
      if x.tier = depos then respond (pinned (takenMb s f k) fid depos) f k stOk []
      else if !withinLimit s x.tenant.toNat depos (folioUnits x) then respond (takenMb s f k) f k stOverLimit []
      else
        let r := startMove (takenMb s f k) fid depos true
        if r.1 then waitCmd (wakeIdle r.2 true) f k (.folioPin fid) else respond (takenMb s f k) f k stNoSpace [] := by
  have hm : moveOf (takenMb s f k) (rqP (getMb s f k) 0) = none := hm
  rw [folioPinCmd, hm]
  rfl

end

/-- FOLIO_PIN to the tier where the folio stands. -/
theorem folioPin_here {s : State} {f : Fin 32} {k : Fin 8} (hs : Tidy s) (hg : Granted s f k 0x32)
    (hm : moveOf s (reqWord s f k 0) = none) (ht : (getFolio s (reqWord s f k 0)).tier = decide (reqWord s f k 1 = 1)) :
    Yields (.folioPin f k) s
      (let x : Folio := { getFolio s (reqWord s f k 0) with pinned := true, pinTier := decide (reqWord s f k 1 = 1) }
       Replies s { s with tier := { s.tier with folios := tabSet Folio.reset s.tier.folios (reqWord s f k 0) x } } f k 0 []) := by
  refine ⟨_, rfl, ?_⟩
  rw [takeUpCmd_plain s f k 0x32 (folioPinCmd f k) hg rfl, folioPinCmd_settled hm]
  simp only [if_pos ht]
  exact modFolio_replies hs _

theorem Granted.busy {s : State} {f k op : Nat} (h : Granted s f k op) : (getMb s f k).state = 1 := by
  obtain ⟨hready, -⟩ := h
  simp only [mbReady, Bool.and_eq_true, beq_iff_eq] at hready
  obtain ⟨⟨⟨⟨⟨hbusy, -⟩, -⟩, -⟩, -⟩, -⟩ := hready
  exact hbusy

theorem wakeIdle_frame (s : State) (why : Bool) : ∃ p, wakeIdle s why = { s with pwr := p } := by
  unfold wakeIdle
  split
  · exact ⟨_, rfl⟩
  · exact ⟨s.pwr, rfl⟩

/-- FOLIO_PIN to the other tier, which has room: its move starts, and the command waits. -/
theorem folioPin_away {s : State} {f : Fin 32} {k : Fin 8} (hs : Tidy s) (hg : Granted s f k 0x32)
    (hm : moveOf s (reqWord s f k 0) = none) (ht : (getFolio s (reqWord s f k 0)).tier ≠ decide (reqWord s f k 1 = 1))
    (hl : withinLimit s (getFolio s (reqWord s f k 0)).tenant.toNat (decide (reqWord s f k 1 = 1))
      (folioUnits (getFolio s (reqWord s f k 0))) = true)
    (hx : hasExtent s (decide (reqWord s f k 1 = 1)) (extents s) (folioUnits (getFolio s (reqWord s f k 0))) = true) :
    Yields (.folioPin f k) s fun t =>
      (getFolio t (reqWord s f k 0)).state = 1 ∧ (getFolio t (reqWord s f k 0)).base = (getFolio s (reqWord s f k 0)).base ∧
        moveOf t (reqWord s f k 0) =
          some { folio := reqWord s f k 0, toTier := decide (reqWord s f k 1 = 1), next := 0, pin := true } ∧
        (getMb t f k).state = 1 ∧ { f := f, k := k, why := .folioPin (reqWord s f k 0) } ∈ t.desk.cmds ∧
        (∀ g, g ≠ reqWord s f k 0 → getFolio t g = getFolio s g) ∧ t.mem = s.mem ∧ t.run = s.run := by
  obtain ⟨v, hstart, hv⟩ := startMove_started (s := takenMb s f k) (depos := decide (reqWord s f k 1 = 1)) true hm hx
  obtain ⟨⟨c, x, hframe⟩, hstate, hbase, hothers, hmove⟩ := hv
  refine ⟨_, rfl, ?_⟩
  rw [takeUpCmd_plain s f k 0x32 (folioPinCmd f k) hg rfl, folioPinCmd_settled hm]
  simp only [if_neg ht, hl, hstart, Bool.not_true, Bool.false_eq_true, if_false, if_true]
  obtain ⟨p, hwake⟩ := wakeIdle_frame v true
  rw [hwake]
  have hfolio (g : Nat) : getFolio (finish s (waitCmd { v with pwr := p } f k (.folioPin (reqWord s f k 0)))) g = getFolio v g :=
    getFolio_congr rfl g
  simp only [hfolio]
  refine ⟨hstate, hbase, hmove, ?_, ?_, hothers, ?_, ?_⟩
  · rw [hframe]
    exact (congrArg Mbox.state (getMb_setMb s f k _)).trans hg.busy
  · exact List.mem_append_right _ (List.mem_singleton_self _)
  · rw [hframe]
    exact mem_finish_of_wr_nil _ _ hs.2
  · rw [hframe]; rfl

/-- Settles O7: an entry is made invalid before the commands that wait for its tiles are looked at (folioFree_taken), and a pin to
the other tier starts a move (startMove_started). -/
theorem folioChanges : Obligations.FolioChanges := by
  intro f k s hs
  refine ⟨fun hg hn => folioFree_unnamed hs hg hn, fun hg hn => folioFree_named hs hg fun hu => ?_,
    fun hg hm ht => folioPin_here hs hg hm ht, fun hg hm ht hl hx => folioPin_away hs hg hm ht hl hx, fun hg => ⟨_, rfl, ?_⟩⟩
  · obtain ⟨x, hx, hnamed⟩ := hn
    exact Bool.false_ne_true ((hu x hx).symm.trans hnamed)
  · rw [takeUpCmd_plain s f k 0x33 (folioUnpinCmd f k) hg rfl]
    exact modFolio_replies hs _

end Sys2Proof.Machine
end

section
/-! SUPPORT. The chunks of a move and its end (rules R227, R228). -/

namespace Sys2Proof.Machine

/-! ### A chunk -/

/-- The list of moves with one more chunk of a folio's move done. -/
def chunkDone (fid : Nat) (l : List Move) : List Move := l.map fun y => if y.folio = fid then { y with next := y.next + 1 } else y

theorem find?_chunkDone {fid : Nat} {l : List Move} {m : Move} (h : l.find? (fun y => y.folio == fid) = some m) :
    (chunkDone fid l).find? (fun y => y.folio == fid) = some { m with next := m.next + 1 } := by
  have hid : m.folio = fid := by simpa using List.find?_some h
  have hsame : ((fun y : Move => y.folio == fid) ∘ fun y => if y.folio = fid then { y with next := y.next + 1 } else y) =
      fun y => y.folio == fid := by
    funext y
    by_cases hy : y.folio = fid <;> simp [hy]
  rw [chunkDone, List.find?_map, hsame, h]
  simp [hid]

/-- The source and the destination of the next chunk of a folio's move. -/
def chunkFrom (s : State) (fid : Nat) (m : Move) : Nat := folioBase (getFolio s fid) + 4096 * m.next
def chunkTo (s : State) (fid : Nat) (m : Move) : Nat := 65536 * (getFolio s fid).dest.toNat + 4096 * m.next

section
variable {s : State} {fid : Nat} {m : Move}

/-- A chunk that is due; bad: whether its read met an uncorrectable word. -/
theorem moveChunkCopied_due {bad : Bool} {u : State} (hm : moveOf s fid = some m) (hup : memUp s = true)
    (hdue : 4096 * m.next < folioSize (getFolio s fid))
    (hread : readErrors s (chunkFrom s fid m) 4096 .engine none = (bad, u)) : moveChunkCopied fid [] s =
      if bad then
        forEach (pinWaits u fid) (abandonMove u fid true) fun s c => respond s c.f c.k stUncorrectable []
      else
        let v := (storeBytes u (chunkTo s fid m) (readMem u (chunkFrom s fid m) 4096)).2
        v.setTier { v.tier with cur := { v.tier.cur with moves := chunkDone fid v.tier.cur.moves } } := by
  have hgo : ¬ (decide (folioSize (getFolio s fid) ≤ 4096 * m.next) || !memUp s) = true := by simp [hup, hdue]
  have hread : readErrors (addHits s []) (folioBase (getFolio s fid) + 4096 * m.next) 4096 .engine none = (bad, u) := hread
  rw [moveChunkCopied, hm]
  simp only [if_neg hgo, hread]
  rfl

/-- A chunk that meets no damage is stored at the destination. -/
theorem moveChunkCopied_good (hm : moveOf s fid = some m) (hu : Undamaged s) (hup : memUp s = true)
    (hdue : 4096 * m.next < folioSize (getFolio s fid)) : moveChunkCopied fid [] s =
      { s with wr := .store (chunkTo s fid m) (readMem s (chunkFrom s fid m) 4096) :: s.wr,
               tier := { s.tier with cur := { s.tier.cur with moves := chunkDone fid s.tier.cur.moves } } } := by
  rw [moveChunkCopied_due hm hup hdue (readErrors_undamaged _ _ _ _ hu)]
  simp only [storeBytes_undamaged _ _ hu, Bool.false_eq_true, if_false]
  rfl

/-- An uncorrectable word at the source: the move is abandoned, and the pins that wait for it are answered. -/
theorem moveChunkCopied_bad (hm : moveOf s fid = some m) (hup : memUp s = true)
    (hdue : 4096 * m.next < folioSize (getFolio s fid)) (hce : s.ecc.ce = []) (hue : ueIn s (chunkFrom s fid m) 4096 ≠ []) :
    ∃ u, Told s u ∧ moveChunkCopied fid [] s =
      forEach (pinWaits s fid) (abandonMove u fid true) fun s c => respond s c.f c.k stUncorrectable [] := by
  obtain ⟨u, hread, hu⟩ := readErrors_bad .engine none hce hue
  have hwaits : pinWaits u fid = pinWaits s fid := congrArg (List.filter _) hu.cmds
  refine ⟨u, hu, ?_⟩
  rw [moveChunkCopied_due hm hup hdue hread, if_pos rfl, hwaits]

/-- The bytes of the chunk's destination become those of its source, and no other byte changes. -/
theorem readByte_copied {t : State} (hs : Tidy s) (dst src n a : Nat) (ht : t.wr = .store dst (readMem s src n) :: s.wr) :
    readByte (finish s t) a = if dst ≤ a ∧ a < dst + n then readByte s (src + (a - dst)) else readByte s a := by
  rw [readByte_finish _ _ _ hs.1, ht, hs.2]
  have hstore := cellAt_memPut 0 s.mem dst (readMem s src n) a
  rw [readMem_length] at hstore
  refine hstore.trans ?_
  split
  · next h =>
    rw [readMem_getD s src n (a - dst) hs.1 (by omega), readByte_tidy s _ hs, hs.2]
    rfl
  · exact (readByte_tidy s a hs).symm

/-! ### The end of a move -/

/-- A folio's entry at the destination of its move. -/
def movedFolio (x : Folio) (m : Move) : Folio := { x with base := x.dest, dest := 0, tier := m.toTier, state := 0 }

/-- The switch before the waiting pins are looked at: no Runner keeps the old entry, and the move is at its end. -/
def switched (s : State) (fid : Nat) (m : Move) : State :=
  endMove (setFolio (dropCaches s fid) fid (movedFolio (getFolio s fid) m)) fid 0

theorem switched_ended (s : State) (fid : Nat) (m : Move) :
    MoveEnded (dropCaches s fid) (switched s fid m) fid (movedFolio (getFolio s fid) m) := endMove_setFolio _ _ _ _

/-- The folio is pinned where it stands, under a condition. -/
def pinnedIf (c : Bool) (s : State) (fid : Nat) (depos : Bool) : State := if c then pinned s fid depos else s

theorem pinnedIf_frame (c : Bool) (s : State) (fid : Nat) (depos : Bool) :
    ∃ fs, pinnedIf c s fid depos = { s with tier := { s.tier with folios := fs } } := by
  cases c
  case false => exact ⟨s.tier.folios, rfl⟩
  case true => exact ⟨_, rfl⟩

theorem getFolio_pinnedIf (c : Bool) (s : State) (fid : Nat) (depos : Bool) :
    getFolio (pinnedIf c s fid depos) fid =
      if c then { getFolio s fid with pinned := true, pinTier := depos } else getFolio s fid := by
  cases c
  case false => rfl
  case true => exact getFolio_setFolio s fid _

theorem getFolio_pinnedIf_ne (c : Bool) (s : State) {fid g : Nat} (depos : Bool) (h : g ≠ fid) :
    getFolio (pinnedIf c s fid depos) g = getFolio s g := by
  cases c
  case false => rfl
  case true => exact getFolio_setFolio_ne s _ (Ne.symm h)

theorem moveSwitch_done (hm : moveOf s fid = some m) (hdone : folioSize (getFolio s fid) ≤ 4096 * m.next) : moveSwitch fid s =
    forEach (pinWaits s fid) (pinnedIf (m.pin || !(pinWaits s fid).isEmpty) (switched s fid m) fid m.toTier)
      fun s c => respond s c.f c.k stOk [] := by
  rw [moveSwitch, hm]
  simp only [if_neg (Nat.not_lt.2 hdone)]
  rfl

/-- What a key of a table holds is the default or stands in the table. -/
theorem tabGet_mem {α : Type} (d : α) (t : Tab α) (i : Nat) : tabGet d t i = d ∨ ∃ c ∈ t, tabGet d t i = c.2 := by
  induction t with
  | nil => exact .inl rfl
  | cons c t ih =>
    obtain ⟨k, v⟩ := c
    by_cases hk : k = i
    · exact .inr ⟨(k, v), List.mem_cons_self, by simp [tabGet, hk]⟩
    · simp only [tabGet, if_neg hk]
      exact ih.imp_right fun ⟨c, hc, h⟩ => ⟨c, List.mem_cons_of_mem _ hc, h⟩

/-- No Runner keeps the entry of a folio whose cached copies are dropped. -/
theorem cache_dropCaches (s : State) (fid w r : Nat) : fid ∉ (getRun (dropCaches s fid) w r).cache := by
  rcases tabGet_mem Runner.reset (dropCaches s fid).run.runners (4 * w + r) with h | ⟨c, hc, h⟩
  · rw [getRun, h]
    exact List.not_mem_nil
  · rw [getRun, h]
    obtain ⟨x, -, rfl⟩ := List.mem_map.1 (List.mem_filter.1 hc).1
    simp

end

end Sys2Proof.Machine
end

section
/-! Folio moves (rules R227, R228). -/

namespace Sys2Proof.Machine

/-- Of v, w has answered the commands of a list with a status: mailboxes and commands in progress have changed alone, and a command
that is the only one of the list finds its answer. -/
structure CmdsAnswered (l : List Cmd) (st : Nat) (v w : State) : Prop where
  wr : w.wr = v.wr
  tier : w.tier = v.tier
  run : w.run = v.run
  queues : w.desk.queues = v.desk.queues
  only : ∀ f k why, l = [{ f := f, k := k, why := why }] →
    (getMb w f k).state = 2 ∧ respWord w f k 0 = 65536 * mbOp (getMb v f k) + st

theorem cmdsAnswered_forEach (l : List Cmd) {st : Nat} (hst : st < 65536) (v : State) :
    CmdsAnswered l st v (forEach l v fun s c => respond s c.f c.k st []) := by
  obtain ⟨mb, cs, hframe⟩ := forEach_respond_frame l v st
  refine ⟨by rw [hframe]; rfl, by rw [hframe]; rfl, by rw [hframe]; rfl, by rw [hframe]; rfl, fun f k why hl => ?_⟩
  obtain ⟨hstate, -, -, hword, -⟩ := answered_respond v f k (p := []) hst (by decide)
  rw [hl]
  exact ⟨hstate, hword⟩

/-- An abandoned move (rule R228). -/
theorem moveChunkCopied_abandons {fid : BitVec 20} {s : State} {m : Move} (hs : Tidy s) (hm : moveOf s fid.toNat = some m)
    (hce : s.ecc.ce = []) (hup : memUp s = true) (hue : ueIn s (chunkFrom s fid.toNat m) 4096 ≠ [])
    (hdue : 4096 * m.next < folioSize (getFolio s fid.toNat)) : Yields (.moveChunkCopied fid []) s fun t =>
      getFolio t fid.toNat = { getFolio s fid.toNat with state := 2, dest := 0 } ∧ moveOf t fid.toNat = none ∧ t.mem = s.mem ∧
        (∀ f, f ≠ fid.toNat → getFolio t f = getFolio s f) ∧ t.run = s.run ∧ t.desk.queues = s.desk.queues ∧
        ∀ f k, pinWaits s fid.toNat = [{ f := f, k := k, why := .folioPin fid.toNat }] →
          (getMb t f k).state = 2 ∧ respWord t f k 0 = 65536 * mbOp (getMb s f k) + 0x19 := by
  obtain ⟨u, htold, hcmd⟩ := moveChunkCopied_bad hm hup hdue hce hue
  have hmu : moveOf u fid.toNat = some m := by rw [moveOf, htold.tier]; exact hm
  obtain ⟨⟨x, r, hframe⟩, hself, hothers, hmoved⟩ := abandonMove_some true hmu
  have hans := cmdsAnswered_forEach (pinWaits s fid.toNat) (st := stUncorrectable) (by decide) (abandonMove u fid.toNat true)
  refine ⟨_, rfl, ?_⟩
  rw [hcmd]
  generalize forEach (pinWaits s fid.toNat) _ _ = w at hans
  generalize abandonMove u fid.toNat true = v at *
  obtain ⟨hwr, htier, hrun, hqueues, honly⟩ := hans
  have hfolio (g : Nat) : getFolio (finish s w) g = getFolio v g := getFolio_congr htier g
  have hfolioU (g : Nat) : getFolio u g = getFolio s g := getFolio_congr htold.tier g
  refine ⟨?_, ?_, ?_, fun g hg => ?_, ?_, ?_, fun f k hone => ?_⟩
  · rw [hfolio, hself, hfolioU]; rfl
  · rw [← hmoved, moveOf, finish_tier, htier]; rfl
  · refine mem_finish_of_wr_nil s w ?_
    rw [hwr, hframe]
    exact htold.wr.trans hs.2
  · rw [hfolio, hothers g hg, hfolioU]
  · rw [finish_run, hrun, hframe]
    exact htold.run
  · rw [finish_desk, hqueues, hframe]
    exact htold.queues
  · have hbox : getMb v f k = getMb s f k := by
      rw [hframe]
      exact congrArg (tabGet Mbox.reset · (8 * f + k)) htold.mbox
    rw [← hbox]
    exact honly f k _ hone

/-- The end of a move (rule R227 step 4). -/
theorem moveSwitch_switches {fid : BitVec 20} {s : State} {m : Move} (hs : Tidy s) (hm : moveOf s fid.toNat = some m)
    (hdone : folioSize (getFolio s fid.toNat) ≤ 4096 * m.next) : Yields (.moveSwitch fid) s fun t =>
      let y := movedFolio (getFolio s fid.toNat) m
      getFolio t fid.toNat =
          (if m.pin = true ∨ pinWaits s fid.toNat ≠ [] then { y with pinned := true, pinTier := m.toTier } else y) ∧
        moveOf t fid.toNat = none ∧ (∀ f, f ≠ fid.toNat → getFolio t f = getFolio s f) ∧
        (∀ w r, fid.toNat ∉ (getRun t w r).cache) ∧ t.mem = s.mem ∧ t.run.tiles = s.run.tiles ∧
        t.desk.queues = s.desk.queues ∧
        ∀ f k, pinWaits s fid.toNat = [{ f := f, k := k, why := .folioPin fid.toNat }] →
          (getMb t f k).state = 2 ∧ respWord t f k 0 = 65536 * mbOp (getMb s f k) := by
  have hpin : (m.pin || !(pinWaits s fid.toNat).isEmpty) = true ↔ m.pin = true ∨ pinWaits s fid.toNat ≠ [] := by simp
  have hcmd := moveSwitch_done hm hdone
  have hcache := cache_dropCaches s fid.toNat
  obtain ⟨⟨x, r, hframe⟩, hself, hothers, hmoved⟩ := switched_ended s fid.toNat m
  generalize switched s fid.toNat m = u at hcmd hframe hself hothers hmoved
  obtain ⟨fs, hpinned⟩ := pinnedIf_frame (m.pin || !(pinWaits s fid.toNat).isEmpty) u fid.toNat m.toTier
  have hentry := getFolio_pinnedIf (m.pin || !(pinWaits s fid.toNat).isEmpty) u fid.toNat m.toTier
  have hrest (g : Nat) (hg : g ≠ fid.toNat) :=
    getFolio_pinnedIf_ne (m.pin || !(pinWaits s fid.toNat).isEmpty) u m.toTier hg
  simp only [hpin] at hentry
  generalize pinnedIf (m.pin || !(pinWaits s fid.toNat).isEmpty) u fid.toNat m.toTier = v at hcmd hpinned hentry hrest
  have hans := cmdsAnswered_forEach (pinWaits s fid.toNat) (st := stOk) (by decide) v
  refine ⟨_, rfl, ?_⟩
  rw [hcmd]
  generalize forEach (pinWaits s fid.toNat) v _ = w at hans
  obtain ⟨hwr, htier, hrun, hqueues, honly⟩ := hans
  have hfolio (g : Nat) : getFolio (finish s w) g = getFolio v g := getFolio_congr htier g
  have hruns : w.run = (dropCaches s fid.toNat).run := by rw [hrun, hpinned, hframe]
  refine ⟨?_, ?_, fun g hg => ?_, fun i j => ?_, ?_, ?_, ?_, fun f k hone => ?_⟩
  · rw [hfolio, hentry, hself]
  · rw [← hmoved, moveOf, finish_tier, htier, hpinned]; rfl
  · rw [hfolio, hrest g hg, hothers g hg]; rfl
  · rw [getRun, finish_run, hruns]
    exact hcache i j
  · refine mem_finish_of_wr_nil s w ?_
    rw [hwr, hpinned, hframe]
    exact hs.2
  · rw [finish_run, hruns]; rfl
  · rw [finish_desk, hqueues, hpinned, hframe]; rfl
  · have hbox : getMb v f k = getMb s f k := by
      rw [hpinned, hframe]; rfl
    rw [← hbox]
    exact honly f k _ hone

/-- Settles O26: a chunk without damage is one store (moveChunkCopied_good), a damaged one abandons the move, and the switch
rewrites the entry before it ends the move. -/
theorem folioMoves : Obligations.FolioMoves := by
  intro fid s m hs hm x src dst
  refine ⟨fun hu hup hdue => ?_, fun hce hup hue hdue => moveChunkCopied_abandons hs hm hce hup hue hdue,
    fun hdone => moveSwitch_switches hs hm hdone⟩
  refine ⟨_, rfl, ?_⟩
  rw [moveChunkCopied_good hm hu hup hdue]
  exact ⟨fun a => readByte_copied hs dst src 4096 a rfl, find?_chunkDone hm, rfl, by rw [finish, hs.2]⟩

end Sys2Proof.Machine
end

section
/-! SUPPORT. A port's side of the link (rules R295 to R297): what sending, accepting, discarding and replaying flits leave of the
port. -/

namespace Sys2Proof.Machine

/-- A command that changes one port and what is put out ends in that. -/
theorem yields_of_sentOn {c : Instr} {s t : State} {p : Nat} {P : State → Prop} (hc : exec c s = .next (finish s t))
    (ht : SentOn p s t) (hs : s.wr = []) (hP : P t) : Yields c s P :=
  ⟨_, hc, (finish_of_clean (s := s) (t := t) (by rw [ht.frame]) (by rw [ht.frame]) (by rw [ht.frame]; exact hs)).symm ▸ hP⟩

/-! ### Sending -/

/-- Of a port x, y has changed only what sending on it changes: its next SEQ, the flits kept for replay, credits and the slips that
wait for them. -/
def OnlySent (x y : Port) : Prop :=
  y = { x with txSeq := y.txSeq, sent := y.sent, owed := y.owed, txq := y.txq, usedPriv := y.usedPriv, usedShared := y.usedShared,
               c0Sent := y.c0Sent }

theorem OnlySent.refl (x : Port) : OnlySent x x := rfl

theorem OnlySent.trans {x y z : Port} (h : OnlySent x y) (k : OnlySent y z) : OnlySent x z := by
  rw [OnlySent, k, h]

theorem onlySent_useCredits (s : State) (x : Port) (e : TxSlip) (l : List TxSlip) :
    OnlySent x { useCredits s x e with txq := l } := by
  simp only [useCredits]
  split
  · rfl
  · split <;> rfl

/-- What a port is after it has sent a flit. -/
def sentPort (s : State) (p : Nat) (data : List Byte) : Port :=
  let x := getPort s p
  let c := owedNext x fun vc => !starved s p vc
  let kept := x.sent ++ [(x.txSeq, flitBytes x.txSeq.toNat x.rxSeq.toNat c.1 c.2 data)]
  { x with txSeq := x.txSeq + 1, sent := kept.drop (kept.length - 512), owed := x.owed.set c.1 (x.owed.getD c.1 0 - c.2) }

theorem sendFlit_eq (s : State) (p : Nat) (data : List Byte) :
    sendFlit s p data = emit (setPort s p (sentPort s p data)) (ctlFlit s p data) := rfl

theorem getPort_sendFlit (s : State) (p : Nat) (data : List Byte) : getPort (sendFlit s p data) p = sentPort s p data :=
  getPort_setPort s p _

theorem onlySent_sentPort (s : State) (p : Nat) (data : List Byte) : OnlySent (getPort s p) (sentPort s p data) := by
  have h (x : Port) (n : BitVec 12) (kept : List (BitVec 12 × List Byte)) (owed : List Nat) :
      OnlySent x { x with txSeq := n, sent := kept, owed := owed } := rfl
  exact h _ _ _ _

theorem onlySent_sendFlits (s : State) (p : Nat) (fs : List (List Byte)) :
    OnlySent (getPort s p) (getPort (forEach fs s fun s f => sendFlit s p f) p) := by
  unfold forEach
  induction fs generalizing s with
  | nil => exact .refl _
  | cons f fs ih =>
    refine .trans ?_ (ih (sendFlit s p f))
    rw [getPort_sendFlit]
    exact onlySent_sentPort s p f

theorem onlySent_pumpSlips (s : State) (p n : Nat) : OnlySent (getPort s p) (getPort (pumpSlips s p n) p) := by
  induction n generalizing s with
  | zero => exact .refl _
  | succ n ih =>
    simp only [pumpSlips]
    split
    · exact .refl _
    · split
      · exact .refl _
      · next e _ =>
        refine .trans ?_ (.trans (onlySent_sendFlits _ p e.flits) (ih _))
        rw [getPort_setPort]
        exact onlySent_useCredits s (getPort s p) e _

theorem onlySent_pumpPort (s : State) (p : Nat) : OnlySent (getPort s p) (getPort (pumpPort s p) p) := onlySent_pumpSlips s p _

theorem sentOn_pumpPort (s : State) (p : Nat) : SentOn p s (pumpPort s p) := sentOn_pumpSlips s p _

/-- A port with no slip that waits sends nothing. -/
theorem pumpPort_idle {s : State} {p : Nat} (h : (getPort s p).txq = []) : pumpPort s p = s := by
  rw [pumpPort, h]; rfl

/-- A port's next flit rests on its SEQs, on what it owes, on the perturbation and on the time. -/
theorem ctlFlit_congr {s t : State} {p : Nat} (data : List Byte) (htx : (getPort t p).txSeq = (getPort s p).txSeq)
    (hrx : (getPort t p).rxSeq = (getPort s p).rxSeq) (howed : (getPort t p).owed = (getPort s p).owed) (hrel : t.rel = s.rel)
    (hclk : t.clk = s.clk) : ctlFlit t p data = ctlFlit s p data := by
  have hstarved : starved t p = starved s p := by
    funext vc
    rw [starved, hrel, hclk]; rfl
  have hnext (may : Nat → Bool) : owedNext (getPort t p) may = owedNext (getPort s p) may := by
    rw [owedNext, howed]; rfl
  simp only [ctlFlit, hnext, hstarved, htx, hrx]

/-! ### Training again and replay -/

/-- A port that trains again. -/
def retrained (x : Port) : Port := { x with state := 1, discarding := false, naks := 0, nakGot := 0 }

theorem getPort_retrain (s : State) (p : Nat) : getPort (retrain s p) p = retrained (getPort s p) := getPort_setPort s p _

theorem sentOn_retrain (s : State) (p : Nat) : SentOn p s (retrain s p) := sentOn_setPort rfl

theorem replayFrom_eq (s : State) (p : Nat) (seq : BitVec 12) : replayFrom s p seq =
    s.setOut (s.out ++ ((getPort s p).sent.dropWhile fun f => f.1 != seq).map fun f => .flit p f.2) :=
  forEach_emit _ (fun f : BitVec 12 × List Byte => Out.flit p f.2) s

theorem sentOn_replayFrom (s : State) (p : Nat) (seq : BitVec 12) : SentOn p s (replayFrom s p seq) :=
  .forEach _ s _ fun s _ => sentOn_emit p s _

/-! ### NAKs -/

/-- A port with one more NAK for the SEQ that it expects. -/
def nakPort (x : Port) : Port :=
  { x with discarding := true, naks := if x.nakSeq = x.rxSeq then x.naks + 1 else 1, nakSeq := x.rxSeq }

/-- A NAK has gone out, as a message and as a flit of its own. -/
def nakSent (s : State) (p : Nat) : State :=
  sendCtl (emit (setPort s p (nakPort (getPort s p))) (.nak p (getPort s p).rxSeq.toNat)) p ctlNak
    (bytesOf 2 (getPort s p).rxSeq.toNat)

theorem sendNak_eq (s : State) (p : Nat) : sendNak s p =
    if (nakPort (getPort s p)).naks = 8 then retrain (nakSent s p) p else nakSent s p := rfl

theorem nakSent_out (s : State) (p : Nat) : (nakSent s p).out =
    s.out ++ [.nak p (getPort s p).rxSeq.toNat, ctlFlit s p (ctlData ctlNak (bytesOf 2 (getPort s p).rxSeq.toNat))] := by
  have hself : getPort (emit (setPort s p (nakPort (getPort s p))) (.nak p (getPort s p).rxSeq.toNat)) p = nakPort (getPort s p) :=
    getPort_setPort s p _
  have hflit := ctlFlit_congr (s := s) (t := emit (setPort s p (nakPort (getPort s p))) (.nak p (getPort s p).rxSeq.toNat)) (p := p)
    (ctlData ctlNak (bytesOf 2 (getPort s p).rxSeq.toNat)) (by rw [hself]; rfl) (by rw [hself]; rfl) (by rw [hself]; rfl) rfl rfl
  rw [nakSent, sendCtl, sendFlit_eq, hflit]
  exact List.append_assoc s.out [_] [_]

theorem getPort_nakSent (s : State) (p : Nat) : ∃ sent owed, getPort (nakSent s p) p =
    { nakPort (getPort s p) with txSeq := (getPort s p).txSeq + 1, sent := sent, owed := owed } := by
  have hself : getPort (emit (setPort s p (nakPort (getPort s p))) (.nak p (getPort s p).rxSeq.toNat)) p = nakPort (getPort s p) :=
    getPort_setPort s p _
  rw [nakSent, sendCtl, getPort_sendFlit, sentPort, hself]
  exact ⟨_, _, rfl⟩

theorem sentOn_nakSent (s : State) (p : Nat) : SentOn p s (nakSent s p) := by
  refine .trans (.trans (sentOn_setPort (x := nakPort (getPort s p)) ?_) (sentOn_emit p _ _)) (sentOn_sendFlit _ p _)
  rfl

theorem sentOn_sendNak (s : State) (p : Nat) : SentOn p s (sendNak s p) := by
  rw [sendNak_eq]
  split
  · exact (sentOn_nakSent s p).trans (sentOn_retrain _ p)
  · exact sentOn_nakSent s p

theorem sendNak_out (s : State) (p : Nat) : (sendNak s p).out =
    s.out ++ [.nak p (getPort s p).rxSeq.toNat, ctlFlit s p (ctlData ctlNak (bytesOf 2 (getPort s p).rxSeq.toNat))] := by
  rw [sendNak_eq, ← nakSent_out]
  split <;> rfl

/-- A NAK leaves its port UP and discarding, but the eighth for one SEQ, which has it train again. -/
theorem getPort_sendNak (s : State) (p : Nat) : ∃ sent owed, getPort (sendNak s p) p =
    let y := { nakPort (getPort s p) with txSeq := (getPort s p).txSeq + 1, sent := sent, owed := owed }
    if (nakPort (getPort s p)).naks = 8 then retrained y else y := by
  obtain ⟨sent, owed, h⟩ := getPort_nakSent s p
  refine ⟨sent, owed, ?_⟩
  rw [sendNak_eq, ← h]
  by_cases h8 : (nakPort (getPort s p)).naks = 8
  · rw [if_pos h8, getPort_retrain, h]
    exact (if_pos h8).symm
  · rw [if_neg h8, h]
    exact (if_neg h8).symm

end Sys2Proof.Machine
end

section
/-! SUPPORT. A flit that a port receives (rules R295, R296): accepted, or discarded and answered with a NAK. -/

namespace Sys2Proof.Machine

/-! ### Flits that are accepted -/

/-- The port has counted the symbols that FEC corrected in a flit. -/
def fecCounted (s : State) (p fec : Nat) : State :=
  setPort s p { getPort s p with fec := satAdd (getPort s p).fec fec }

/-- A port that has accepted a flit whose first word is w, before its data is looked at. -/
def acceptedPort (w : Nat) (x : Port) : Port :=
  creditBack { x with rxSeq := x.rxSeq + 1, discarding := false, naks := 0,
                      sent := x.sent.filter fun f => unacked x.txSeq (BitVec.ofNat 12 (bits 19 8 w)) f.1 }
    (bits 7 5 w) (bits 4 0 w)

def accepted (s : State) (p fec w : Nat) : State := modPort (fecCounted s p fec) p (acceptedPort w)

theorem getPort_fecCounted (s : State) (p fec : Nat) :
    getPort (fecCounted s p fec) p = { getPort s p with fec := satAdd (getPort s p).fec fec } := getPort_setPort s p _

theorem sentOn_fecCounted (s : State) (p fec : Nat) : SentOn p s (fecCounted s p fec) := by
  refine sentOn_setPort ?_
  rfl

theorem getPort_accepted (s : State) (p fec w : Nat) :
    getPort (accepted s p fec w) p = acceptedPort w { getPort s p with fec := satAdd (getPort s p).fec fec } := by
  rw [accepted, modPort, getPort_setPort, getPort_fecCounted]

theorem sentOn_accepted (s : State) (p fec w : Nat) : SentOn p s (accepted s p fec w) := by
  refine (sentOn_fecCounted s p fec).trans (sentOn_setPort ?_)
  rfl

/-! ### The data of an accepted flit -/

section
variable {s : State} {p : Nat} {data : List Byte}

theorem takeData_control {c : Nat × List Byte} (hrx : (getPort s p).rx = []) (hc : ctlOf data = some c) :
    takeData s p data = emit s (.control p c.1 c.2) := by
  simp [takeData, hrx, hc]

theorem takeData_slip (h : (getPort s p).rx ≠ [] ∨ ctlOf data = none) : takeData s p data = takeSlipData s p data := by
  have hnone : (if (getPort s p).rx.isEmpty then ctlOf data else none) = none := by
    rcases h with h | h
    · rw [if_neg (by simpa using h)]
    · rw [h, ite_self]
  rw [takeData, hnone]

/-- What a port has of a slip with the data of one more flit. -/
def gathered (s : State) (p : Nat) (data : List Byte) : List (List Byte) := (getPort s p).rx ++ [data]

/-- A slip that is not whole yet is kept. -/
theorem takeSlipData_part (h : (gathered s p data).length < slipFlits (slipOfBytes (gathered s p data).flatten).len.toNat) :
    takeSlipData s p data = setPort s p { getPort s p with rx := gathered s p data } := if_pos h

/-- A slip that is whole is handed on. -/
theorem takeSlipData_whole (h : slipFlits (slipOfBytes (gathered s p data).flatten).len.toNat ≤ (gathered s p data).length) :
    ∃ owed, takeSlipData s p data =
      emit (setPort s p { getPort s p with rx := [], owed := owed }) (.received p (slipOfBytes (gathered s p data).flatten)) :=
  ⟨_, if_neg (Nat.not_lt.2 h)⟩

/-- The data of an accepted flit changes of the port only what it has received of a slip and what it owes. -/
theorem takeData_port (s : State) (p : Nat) (data : List Byte) :
    SentOn p s (takeData s p data) ∧ ∃ rx owed, getPort (takeData s p data) p = { getPort s p with rx := rx, owed := owed } := by
  unfold takeData
  split
  · exact ⟨sentOn_emit p s _, (getPort s p).rx, (getPort s p).owed, rfl⟩
  · by_cases h : (gathered s p data).length < slipFlits (slipOfBytes (gathered s p data).flatten).len.toNat
    · rw [takeSlipData_part h]
      refine ⟨sentOn_setPort ?_, gathered s p data, (getPort s p).owed, getPort_setPort s p _⟩
      rfl
    · obtain ⟨owed, hwhole⟩ := takeSlipData_whole (Nat.not_lt.1 h)
      rw [hwhole]
      refine ⟨.trans (sentOn_setPort ?_) (sentOn_emit p _ _), [], owed, getPort_setPort s p _⟩
      rfl

end

/-! ### Flits that are discarded -/

/-- The port has counted a discarded flit. -/
def crcCounted (s : State) (p : Nat) : State := setPort s p { getPort s p with crc := satAdd (getPort s p).crc 1 }

theorem getPort_crcCounted (s : State) (p : Nat) :
    getPort (crcCounted s p) p = { getPort s p with crc := satAdd (getPort s p).crc 1 } := getPort_setPort s p _

theorem sentOn_crcCounted (s : State) (p : Nat) : SentOn p s (crcCounted s p) := by
  refine sentOn_setPort ?_
  rfl

theorem dropFlit_eq (s : State) (p : Nat) (bad : Bool) : dropFlit s p bad =
    if bad || !(getPort s p).discarding then sendNak (crcCounted s p) p else crcCounted s p := rfl

/-! ### FLIT_RECEIVE -/

section
variable {s : State} {p : Nat} {flit : List Byte}

/-- A flit at an UP port: its CRC is looked at first, then its SEQ. -/
theorem flitReceive_up (fec : Nat) (hup : (getPort s p).state = 2) (hlen : flit.length = 256) : flitReceive p flit fec s =
    if natOf (flit.drop 252) ≠ (crc32 (flit.take 252)).toNat then dropFlit (fecCounted s p fec) p true
    else if bits 31 20 (natOf (flit.take 4)) ≠ (getPort s p).rxSeq.toNat then dropFlit (fecCounted s p fec) p false
    else pumpPort (takeData (accepted s p fec (natOf (flit.take 4))) p ((flit.drop 4).take 248)) p := by
  have hgood : (!(flit.length == 256 && natOf (flit.drop 252) == (crc32 (flit.take 252)).toNat)) = true ↔
      natOf (flit.drop 252) ≠ (crc32 (flit.take 252)).toNat := by simp [hlen]
  refine (if_neg (not_not_intro hup)).trans ?_
  simp only [hgood]
  rfl

theorem flitReceive_good (fec : Nat) (hup : (getPort s p).state = 2) (hlen : flit.length = 256)
    (hcrc : natOf (flit.drop 252) = (crc32 (flit.take 252)).toNat)
    (hseq : bits 31 20 (natOf (flit.take 4)) = (getPort s p).rxSeq.toNat) : flitReceive p flit fec s =
      pumpPort (takeData (accepted s p fec (natOf (flit.take 4))) p ((flit.drop 4).take 248)) p := by
  rw [flitReceive_up fec hup hlen, if_neg (not_not_intro hcrc), if_neg (not_not_intro hseq)]

/-- Flits out of sequence after the first are counted alone. -/
theorem flitReceive_discarding (fec : Nat) (hup : (getPort s p).state = 2) (hlen : flit.length = 256)
    (hcrc : natOf (flit.drop 252) = (crc32 (flit.take 252)).toNat)
    (hseq : bits 31 20 (natOf (flit.take 4)) ≠ (getPort s p).rxSeq.toNat) (hd : (getPort s p).discarding = true) :
    flitReceive p flit fec s = crcCounted (fecCounted s p fec) p := by
  rw [flitReceive_up fec hup hlen, if_neg (not_not_intro hcrc), if_pos hseq, dropFlit_eq, getPort_fecCounted, if_neg (by simp [hd])]

/-- A flit with a wrong CRC, and the first out of sequence, are answered with a NAK. -/
theorem flitReceive_naks (fec : Nat) (hup : (getPort s p).state = 2) (hlen : flit.length = 256)
    (h : natOf (flit.drop 252) ≠ (crc32 (flit.take 252)).toNat ∨
      bits 31 20 (natOf (flit.take 4)) ≠ (getPort s p).rxSeq.toNat ∧ (getPort s p).discarding = false) :
    flitReceive p flit fec s = sendNak (crcCounted (fecCounted s p fec) p) p := by
  rw [flitReceive_up fec hup hlen]
  by_cases hcrc : natOf (flit.drop 252) = (crc32 (flit.take 252)).toNat
  · obtain ⟨hseq, hd⟩ := h.resolve_left (not_not_intro hcrc)
    rw [if_neg (not_not_intro hcrc), if_pos hseq, dropFlit_eq, getPort_fecCounted, if_pos (by simp [hd])]
  · rw [if_pos hcrc, dropFlit_eq, if_pos (Bool.true_or _)]

end

end Sys2Proof.Machine
end

section
/-! Flits and NAKs (rules R295 to R297). -/

namespace Sys2Proof.Machine

section
variable {s : State} {p : Fin 9}

/-- A flit that is accepted. -/
theorem flitReceive_accepts (hs : Tidy s) (hup : (getPort s p).state = 2) {flit : List Byte} (fec : Nat) (hlen : flit.length = 256)
    (hcrc : natOf (flit.drop 252) = (crc32 (flit.take 252)).toNat)
    (hseq : bits 31 20 (natOf (flit.take 4)) = (getPort s p).rxSeq.toNat) : Yields (.flitReceive p flit fec) s fun t =>
      let x := getPort s p
      let data := x.rx ++ [(flit.drop 4).take 248]
      let sl := slipOfBytes data.flatten
      (t = { s with fab := { s.fab with ports := t.fab.ports }, out := t.out } ∧ ∀ o, o ≠ p.val → getPort t o = getPort s o) ∧
        (getPort t p).rxSeq = x.rxSeq + 1 ∧ (getPort t p).naks = 0 ∧ (getPort t p).fec = satAdd x.fec fec ∧
        (getPort t p).crc = x.crc ∧ (getPort t p).discarding = false ∧
        (x.rx = [] → ∀ c, ctlOf ((flit.drop 4).take 248) = some c →
          (getPort t p).rx = [] ∧ ∃ l, t.out = s.out ++ .control p c.1 c.2 :: l) ∧
        (x.rx ≠ [] ∨ ctlOf ((flit.drop 4).take 248) = none →
          (data.length < slipFlits sl.len.toNat → (getPort t p).rx = data) ∧
          (slipFlits sl.len.toNat ≤ data.length → (getPort t p).rx = [] ∧ ∃ l, t.out = s.out ++ .received p sl :: l)) ∧
        (x.txq = [] →
          let back := creditBack x (bits 7 5 (natOf (flit.take 4))) (bits 4 0 (natOf (flit.take 4)))
          (getPort t p).usedPriv = back.usedPriv ∧ (getPort t p).usedShared = back.usedShared ∧ (getPort t p).txSeq = x.txSeq ∧
            (getPort t p).sent =
              x.sent.filter fun f => unacked x.txSeq (BitVec.ofNat 12 (bits 19 8 (natOf (flit.take 4)))) f.1) := by
  have hx := getPort_accepted s p fec (natOf (flit.take 4))
  have hacc := sentOn_accepted s p fec (natOf (flit.take 4))
  have hout : (accepted s p fec (natOf (flit.take 4))).out = s.out := rfl
  have hrecv := flitReceive_good fec hup hlen hcrc hseq
  generalize accepted s p fec (natOf (flit.take 4)) = u at *
  generalize hd : (flit.drop 4).take 248 = d at *
  have hrx : (getPort u p).rx = (getPort s p).rx := by rw [hx]; rfl
  obtain ⟨htake, rx, owed, hy⟩ := takeData_port u p d
  have hpump := onlySent_pumpPort (takeData u p d) p
  have hsent := sentOn_pumpPort (takeData u p d) p
  obtain ⟨l, hl⟩ := hsent.out
  have hrxT : (getPort (pumpPort (takeData u p d) p) p).rx = (getPort (takeData u p d) p).rx := by rw [hpump]
  have hall : SentOn p s (pumpPort (takeData u p d) p) := (hacc.trans htake).trans hsent
  refine yields_of_sentOn (p := p) (congrArg (fun t => Host.Outcome.next (finish s t)) hrecv) hall hs.2 ?_
  refine ⟨⟨hall.frame, hall.others⟩, ?_, ?_, ?_, ?_, ?_, fun hnil c hc => ?_, fun hslip => ⟨fun hpart => ?_, fun hwhole => ?_⟩,
    fun hidle => ?_⟩
  · rw [hpump, hy, hx]; rfl
  · rw [hpump, hy, hx]; rfl
  · rw [hpump, hy, hx]; rfl
  · rw [hpump, hy, hx]; rfl
  · rw [hpump, hy, hx]; rfl
  · have hcontrol := takeData_control (p := p) (hrx.trans hnil) hc
    rw [hcontrol] at hrxT hl ⊢
    refine ⟨hrxT.trans (hrx.trans hnil), l, ?_⟩
    rw [hl, emit, State.setOut_out, hout, List.append_assoc]
    rfl
  · rw [← hrx] at hslip hpart ⊢
    rw [hrxT, takeData_slip hslip, takeSlipData_part hpart, getPort_setPort]
    rfl
  · rw [← hrx] at hslip hwhole ⊢
    obtain ⟨owed', hdone⟩ := takeSlipData_whole hwhole
    rw [takeData_slip hslip, hdone] at hrxT hl ⊢
    refine ⟨hrxT.trans (congrArg Port.rx (getPort_setPort u p _)), l, ?_⟩
    rw [hl, emit, State.setOut_out, List.append_assoc]
    exact congrArg (· ++ _) hout
  · have htxq : (getPort (takeData u p d) p).txq = [] := by rw [hy, hx]; exact hidle
    rw [pumpPort_idle htxq, hy, hx]
    exact ⟨rfl, rfl, rfl, rfl⟩

/-- A flit that is answered with a NAK. -/
theorem flitReceive_answersNak (hs : Tidy s) (hup : (getPort s p).state = 2) {flit : List Byte} (fec : Nat)
    (hlen : flit.length = 256)
    (h : natOf (flit.drop 252) ≠ (crc32 (flit.take 252)).toNat ∨
      bits 31 20 (natOf (flit.take 4)) ≠ (getPort s p).rxSeq.toNat ∧ (getPort s p).discarding = false) :
    Yields (.flitReceive p flit fec) s fun t =>
      let x := getPort s p
      let n := if x.nakSeq = x.rxSeq then x.naks + 1 else 1
      (t = { s with fab := { s.fab with ports := t.fab.ports }, out := t.out } ∧ ∀ o, o ≠ p.val → getPort t o = getPort s o) ∧
        (getPort t p).crc = satAdd x.crc 1 ∧ (getPort t p).rxSeq = x.rxSeq ∧ (getPort t p).fec = satAdd x.fec fec ∧
        t.out = s.out ++ [.nak p x.rxSeq.toNat, ctlFlit s p (ctlData ctlNak (bytesOf 2 x.rxSeq.toNat))] ∧
        (getPort t p).txSeq = x.txSeq + 1 ∧ (getPort t p).rx = x.rx ∧ (getPort t p).state = (if n = 8 then 1 else 2) ∧
        (n ≠ 8 → (getPort t p).naks = n ∧ (getPort t p).discarding = true) := by
  have hy : getPort (crcCounted (fecCounted s p fec) p) p =
      { getPort s p with fec := satAdd (getPort s p).fec fec, crc := satAdd (getPort s p).crc 1 } := by
    rw [getPort_crcCounted, getPort_fecCounted]
  have hcounted := (sentOn_fecCounted s p fec).trans (sentOn_crcCounted _ p)
  have hrecv := flitReceive_naks fec hup hlen h
  have hflit := ctlFlit_congr (s := s) (t := crcCounted (fecCounted s p fec) p) (p := p)
    (ctlData ctlNak (bytesOf 2 (getPort s p).rxSeq.toNat)) (by rw [hy]) (by rw [hy]) (by rw [hy]) rfl rfl
  have hout : (crcCounted (fecCounted s p fec) p).out = s.out := rfl
  generalize crcCounted (fecCounted s p fec) p = u at *
  have hall := hcounted.trans (sentOn_sendNak u p)
  obtain ⟨sent, owed, hport⟩ := getPort_sendNak u p
  refine yields_of_sentOn (p := p) (congrArg (fun t => Host.Outcome.next (finish s t)) hrecv) hall hs.2 ?_
  have hnaks : (if (getPort s p).nakSeq = (getPort s p).rxSeq then (getPort s p).naks + 1 else 1) = (nakPort (getPort u p)).naks := by
    rw [hy]; rfl
  have hsent := sendNak_out u p
  have hrxSeq : (getPort u p).rxSeq = (getPort s p).rxSeq := by rw [hy]
  rw [hrxSeq, hflit, hout] at hsent
  simp only [hnaks]
  refine ⟨⟨hall.frame, hall.others⟩, ?_⟩
  rw [hport, hsent]
  by_cases h8 : (nakPort (getPort u p)).naks = 8
  · rw [if_pos h8, if_pos h8, hy]
    exact ⟨rfl, rfl, rfl, rfl, rfl, rfl, rfl, fun hne => absurd h8 (hy.symm ▸ hne)⟩
  · rw [if_neg h8, if_neg h8, hy]
    exact ⟨rfl, rfl, rfl, rfl, rfl, rfl, hup, fun _ => ⟨rfl, rfl⟩⟩

/-! ### NAKs of the peer -/

/-- A port that has a NAK for a SEQ from its peer. -/
def nakHeard (x : Port) (seq : BitVec 12) : Port :=
  let n := if x.nakGotSeq = seq then x.nakGot + 1 else 1
  { x with nakGot := n, nakGotSeq := seq, replay := satAdd x.replay (b2n (n != 8)),
           sent := x.sent.filter fun f => unacked x.txSeq seq f.1 }

theorem nakReceive_up (seq : BitVec 12) (hup : (getPort s p).state = 2) : nakReceive p seq s =
    let u := setPort s p (nakHeard (getPort s p) seq)
    if (nakHeard (getPort s p) seq).nakGot = 8 then retrain u p else replayFrom u p seq := if_neg (not_not_intro hup)

theorem nak_yields (hs : Tidy s) (hup : (getPort s p).state = 2) (seq : BitVec 12) : Yields (.nak p seq) s fun t =>
    let x := getPort s p
    let n := if x.nakGotSeq = seq then x.nakGot + 1 else 1
    let kept := x.sent.filter fun f => unacked x.txSeq seq f.1
    (t = { s with fab := { s.fab with ports := t.fab.ports }, out := t.out } ∧ ∀ o, o ≠ p.val → getPort t o = getPort s o) ∧
      (getPort t p).replay = satAdd x.replay (if n = 8 then 0 else 1) ∧ (getPort t p).sent = kept ∧
      (getPort t p).state = (if n = 8 then 1 else 2) ∧
      t.out = if n = 8 then s.out else s.out ++ (kept.dropWhile fun f => f.1 != seq).map fun f => .flit p f.2 := by
  have hrecv := nakReceive_up seq hup
  have hheard : SentOn p s (setPort s p (nakHeard (getPort s p) seq)) := by
    refine sentOn_setPort ?_
    rfl
  have hself : getPort (setPort s p (nakHeard (getPort s p) seq)) p = nakHeard (getPort s p) seq := getPort_setPort s p _
  by_cases h8 : (nakHeard (getPort s p) seq).nakGot = 8
  · have hn : (if (getPort s p).nakGotSeq = seq then (getPort s p).nakGot + 1 else 1) = 8 := h8
    simp only [if_pos h8] at hrecv
    refine yields_of_sentOn (p := p) (congrArg (fun t => Host.Outcome.next (finish s t)) hrecv)
      (hheard.trans (sentOn_retrain _ p)) hs.2 ?_
    refine ⟨⟨(hheard.trans (sentOn_retrain _ p)).frame, (hheard.trans (sentOn_retrain _ p)).others⟩, ?_⟩
    simp only [getPort_retrain, hself, hn, if_true]
    refine ⟨?_, rfl, rfl, rfl⟩
    simp only [retrained, nakHeard, hn]
    rfl
  · have hn : (if (getPort s p).nakGotSeq = seq then (getPort s p).nakGot + 1 else 1) ≠ 8 := h8
    simp only [if_neg h8, replayFrom_eq] at hrecv
    have hall := hheard.trans (sentOn_replayFrom _ p seq)
    rw [replayFrom_eq] at hall
    refine yields_of_sentOn (p := p) (congrArg (fun t => Host.Outcome.next (finish s t)) hrecv) hall hs.2 ?_
    refine ⟨⟨hall.frame, hall.others⟩, ?_⟩
    rw [hself]
    have hport (o : List Out) : getPort ((setPort s p (nakHeard (getPort s p) seq)).setOut o) p = nakHeard (getPort s p) seq := hself
    simp only [hport, if_neg hn]
    refine ⟨?_, rfl, hup, rfl⟩
    simp only [nakHeard, bne_iff_ne.2 hn]
    rfl

end

/-- Settles O47: an UP port looks at the CRC of a flit, then at its SEQ (flitReceive_up); what an accepted flit and a NAK leave of the
port is takeData_port, onlySent_pumpPort and getPort_sendNak. -/
theorem flitsAndNaks : Obligations.FlitsAndNaks := by
  intro p s hs hup
  refine ⟨fun flit fec hlen hcrc hseq => flitReceive_accepts hs hup fec hlen hcrc hseq, fun flit fec hlen hcrc hseq hd => ?_,
    fun flit fec hlen h => flitReceive_answersNak hs hup fec hlen h, fun seq => nak_yields hs hup seq⟩
  have hcounted := (sentOn_fecCounted s p fec).trans (sentOn_crcCounted _ p)
  refine yields_of_sentOn (p := p) (congrArg (fun t => Host.Outcome.next (finish s t)) (flitReceive_discarding fec hup hlen hcrc hseq hd))
    hcounted hs.2 ?_
  refine ⟨⟨hcounted.frame, hcounted.others⟩, rfl, ?_⟩
  rw [getPort_crcCounted, getPort_fecCounted]

end Sys2Proof.Machine
end

section
/-! SUPPORT. What records and events leave of the fabric, and how a port comes up, becomes congested and goes down (rules R18, R294,
R296, R297, R304, R307). -/

namespace Sys2Proof.Machine

/-! ### Records and events -/

theorem logPush_fab (s : State) (src event : Nat) (data : List Nat) : (logPush s src event data).fab = s.fab := by
  obtain ⟨seq, q, early, drops, h⟩ := logPush_frame s src event data
  rw [h]; rfl

theorem logPush_desk (s : State) (src event : Nat) (data : List Nat) : (logPush s src event data).desk = s.desk := by
  obtain ⟨seq, q, early, drops, h⟩ := logPush_frame s src event data
  rw [h]; rfl

theorem mgmtEvent_fab (s : State) (code data : Nat) : (mgmtEvent s code data).fab = s.fab := by
  have hset (m : Mgt) : (raiseFn (s.setMgt m) 0 .mgmt).fab = s.fab := by
    obtain ⟨p, o, h⟩ := raiseFn_frame (s.setMgt m) 0 .mgmt
    rw [h]; rfl
  simp only [mgmtEvent]
  split <;> exact hset _

theorem getPort_congr {s t : State} (h : t.fab = s.fab) (p : Nat) : getPort t p = getPort s p := by rw [getPort, h]; rfl

/-- A port's change between UP and DOWN is told in the log and by a management event, and changes no port. -/
theorem portRecord_fab (s : State) (p state width : Nat) : (portRecord s p state width).fab = s.fab :=
  (mgmtEvent_fab _ _ _).trans (logPush_fab _ _ _ _)

theorem told_portRecord (s : State) (p state width : Nat) : Told s (portRecord s p state width) :=
  (told_logPush _ _ _ _).trans (told_mgmtEvent _ _ _)

theorem portRecord_shown (s : State) (p state width : Nat) : (getFn (portRecord s p state width) 0).mgmt = true :=
  mgmtEvent_shown _ _ _

theorem told_setPort (s : State) (p : Nat) (x : Port) : Told s (setPort s p x) := by constructor <;> rfl

/-! ### Congestion -/

/-- A port whose CONGESTED turns. -/
def congestionTurned (x : Port) : Port := { x with congested := !x.congested, cong := satAdd x.cong 1 }

/-- Of s, t has changed port p to y, the log alone beside it. -/
structure PortTurned (s t : State) (p : Nat) (y : Port) : Prop where
  self : getPort t p = y
  others : ∀ o, o ≠ p → getPort t o = getPort s o
  told : Told s t
  desk : t.desk = s.desk

theorem flipCongested_turned (s : State) (p : Nat) : PortTurned s (flipCongested s p) p (congestionTurned (getPort s p)) where
  self := (getPort_congr (logPush_fab _ _ _ _) p).trans (getPort_setPort s p _)
  others o ho := (getPort_congr (logPush_fab _ _ _ _) o).trans (getPort_setPort_ne s _ (Ne.symm ho))
  told := (told_setPort s p _).trans (told_logPush _ _ _ _)
  desk := logPush_desk _ _ _ _

/-- A port that is congested turns before it goes DOWN. -/
def uncongested (s : State) (p : Nat) : State := if (getPort s p).congested then flipCongested s p else s

theorem uncongested_turned (s : State) (p : Nat) : PortTurned s (uncongested s p) p
    (if (getPort s p).congested then congestionTurned (getPort s p) else getPort s p) := by
  unfold uncongested
  split
  · exact flipCongested_turned s p
  · exact ⟨rfl, fun _ _ => rfl, .refl s, rfl⟩

/-! ### A port that goes DOWN -/

/-- A port that is DOWN: its counters stay. -/
def downPort (x : Port) : Port :=
  { Port.reset with fec := x.fec, crc := x.crc, replay := x.replay, cong := x.cong, choices := x.choices }

/-- The port is DOWN and that is told; a node that runs has still to see whether it is alone. -/
def wentDown (s : State) (p : Nat) : State :=
  portRecord (setPort (uncongested s p) p (downPort (getPort (uncongested s p) p))) p 0 0

theorem told_wentDown (s : State) (p : Nat) : Told s (wentDown s p) :=
  ((uncongested_turned s p).told.trans (told_setPort _ p _)).trans (told_portRecord _ p 0 0)

theorem wentDown_shown (s : State) (p : Nat) : (getFn (wentDown s p) 0).mgmt = true := portRecord_shown _ _ _ _

theorem portDown_eq {s : State} {p : Nat} (h : (getPort s p).state ≠ 0) :
    portDown s p = if s.desk.ready then aloneNode (wentDown s p) else wentDown s p := by
  have hready : (wentDown s p).desk.ready = s.desk.ready := (told_wentDown s p).ready
  rw [← hready]
  exact if_neg h

theorem getPort_wentDown (s : State) (p : Nat) : getPort (wentDown s p) p =
    downPort (if (getPort s p).congested then congestionTurned (getPort s p) else getPort s p) := by
  rw [wentDown, getPort_congr (portRecord_fab _ _ _ _), getPort_setPort, (uncongested_turned s p).self]

theorem getPort_wentDown_ne (s : State) {o p : Nat} (h : o ≠ p) : getPort (wentDown s p) o = getPort s o := by
  rw [wentDown, getPort_congr (portRecord_fab _ _ _ _), getPort_setPort_ne _ _ (Ne.symm h), (uncongested_turned s p).others o h]

/-- Running alone changes no port. -/
theorem getPort_aloneNode (s : State) (o : Nat) : getPort (aloneNode s) o = getPort s o := by
  unfold aloneNode
  split <;> rfl

theorem getFn_aloneNode (s : State) (f : Nat) : getFn (aloneNode s) f = getFn s f := by
  unfold aloneNode
  split <;> rfl

theorem told_aloneNode (s : State) : Told s (aloneNode s) := by
  obtain ⟨f, h⟩ := aloneNode_frame s
  rw [h]
  constructor <;> rfl

theorem portUp_aloneNode (s : State) (o : Nat) : portUp (aloneNode s) o = portUp s o := by rw [portUp, getPort_aloneNode]; rfl

/-- A node without an UP port runs alone. -/
theorem aloneNode_alone {s : State} (h : ∀ o, o < 9 → portUp (aloneNode s) o = false) : aloneNode s = runAlone s := by
  refine if_neg ?_
  simp only [Bool.not_eq_true, List.any_eq_false, List.mem_range]
  intro o ho
  rw [← portUp_aloneNode]
  exact h o ho

/-! ### Training -/

/-- A port that training has brought up with its working lanes. -/
def trainedPort (x : Port) (lanes : BitVec 4) : Port :=
  { x with state := 2, width := BitVec.ofNat 2 (widthOf lanes), lanes := lanes, failedTrains := 0 }

/-- The port is UP after a retraining, and the flits that it kept have gone out again. -/
def replayed (s : State) (p : Nat) : State :=
  match (getPort s p).sent with
  | [] => s
  | f :: _ => replayFrom (modPort s p fun y => { y with replay := satAdd y.replay 1 }) p f.1

section
variable {s : State} {p : Nat}

theorem portTrainingDone_comesUp {lanes : BitVec 4} (hm : mayTrain s = true) (h0 : (getPort s p).state = 0) (hw : widthOf lanes ≠ 0) :
    portTrainingDone p true lanes s = portRecord (setPort s p (trainedPort (getPort s p) lanes)) p 2 (widthOf lanes) := by
  refine (if_neg (by simp [hm, h0])).trans ((if_pos (by simp [hw])).trans ?_)
  exact if_pos h0

theorem portTrainingDone_comesBack {lanes : BitVec 4} (hm : mayTrain s = true) (h1 : (getPort s p).state = 1) (hw : widthOf lanes ≠ 0) :
    portTrainingDone p true lanes s = pumpPort (replayed (setPort s p (trainedPort (getPort s p) lanes)) p) p := by
  refine (if_neg (by simp [hm, h1])).trans ((if_pos (by simp [hw])).trans ((if_neg (by simp [h1])).trans ?_))
  have hsent : (getPort (setPort s p (trainedPort (getPort s p) lanes)) p).sent = (getPort s p).sent := by
    rw [getPort_setPort]; rfl
  rw [replayed, hsent]
  show (match (getPort s p).sent with
    | [] => pumpPort (setPort s p (trainedPort (getPort s p) lanes)) p
    | f :: _ => pumpPort (replayFrom (modPort (setPort s p (trainedPort (getPort s p) lanes)) p fun y =>
        { y with replay := satAdd y.replay 1 }) p f.1) p) = _
  generalize setPort s p (trainedPort (getPort s p) lanes) = u
  cases (getPort s p).sent <;> rfl

theorem portTrainingDone_fails (lanes : BitVec 4) (hm : mayTrain s = true) (h1 : (getPort s p).state = 1) :
    portTrainingDone p false lanes s =
      if (getPort s p).failedTrains + 1 < 3 then setPort s p { getPort s p with failedTrains := (getPort s p).failedTrains + 1 }
      else portDown s p := by
  refine (if_neg (by simp [hm, h1])).trans ((if_neg (by simp)).trans ?_)
  exact if_neg (by simp [h1])

theorem satAdd_zero {n : Nat} (c : BitVec n) : satAdd c 0 = c := by simp [satAdd, c.isLt]

/-- A replay puts out every kept flit, and counts when there is one. -/
theorem replayed_replays (s : State) (p : Nat) : SentOn p s (replayed s p) ∧
    (replayed s p).out = s.out ++ (getPort s p).sent.map (fun f => .flit p f.2) ∧
    getPort (replayed s p) p =
      { getPort s p with replay := satAdd (getPort s p).replay (if (getPort s p).sent = [] then 0 else 1) } := by
  unfold replayed
  split
  · next h =>
    rw [h]
    refine ⟨.refl p s, (List.append_nil _).symm, ?_⟩
    rw [if_pos rfl, satAdd_zero]
  · next f fs h =>
    have hself := getPort_setPort s p { getPort s p with replay := satAdd (getPort s p).replay 1 }
    have hcounted : SentOn p s (modPort s p fun y => { y with replay := satAdd y.replay 1 }) := by
      refine sentOn_setPort ?_
      rfl
    refine ⟨hcounted.trans (sentOn_replayFrom _ p f.1), ?_, ?_⟩
    · rw [replayFrom_eq, modPort, hself]
      simp [h, setPort]
    · rw [replayFrom_eq, if_neg (by simp [h])]
      exact hself

end

end Sys2Proof.Machine
end

section
/-! Ports that train, and that become congested (rules R18, R294, R296, R297, R307). -/

namespace Sys2Proof.Machine

section
variable {s : State} {p : Fin 9}

/-- A port that is UP trains again on a command that has it do so after a change of the port alone, or of nothing. -/
theorem retrain_yields {c : Instr} {u : State} {y : Port} (hs : Tidy s) (hc : exec c s = .next (finish s (retrain u p)))
    (hu : SentOn p s u) (hout : u.out = s.out) (hy : getPort u p = y) : Yields c s fun t =>
      getPort t p = retrained y ∧ (∀ o, o ≠ p.val → getPort t o = getPort s o) ∧
        t = { s with fab := { s.fab with ports := t.fab.ports } } := by
  have hall := hu.trans (sentOn_retrain u p)
  refine yields_of_sentOn hc hall hs.2 ⟨(getPort_retrain u p).trans (congrArg retrained hy), hall.others, ?_⟩
  have hkept : (retrain u p).out = s.out := hout
  have hframe := hall.frame
  rw [hkept] at hframe
  exact hframe

theorem portUp_of_up (h : (getPort s p).state = 2) : portUp s p = true := by
  simp [portUp, h, Nat.le_of_lt_succ p.isLt]

/-- A port that has lost a lane. -/
def laneLost (x : Port) (lane : Fin 4) : Port := { x with lanes := x.lanes &&& ~~~BitVec.ofNat 4 (2 ^ lane.val) }

/-- Training that succeeds from DOWN. -/
theorem trainingDone_comesUp (hs : Tidy s) {lanes : BitVec 4} (hm : mayTrain s = true) (h0 : (getPort s p).state = 0)
    (hw : widthOf lanes ≠ 0) : Yields (.portTrainingDone p true lanes) s fun t =>
      getPort t p = trainedPort (getPort s p) lanes ∧ (getFn t 0).mgmt = true ∧ (∀ o, o ≠ p.val → getPort t o = getPort s o) ∧
        t.mem = s.mem ∧ t.run = s.run := by
  have htold := (told_setPort s p (trainedPort (getPort s p) lanes)).trans (told_portRecord _ p 2 (widthOf lanes))
  have hfab := portRecord_fab (setPort s p (trainedPort (getPort s p) lanes)) p 2 (widthOf lanes)
  refine ⟨_, rfl, ?_⟩
  rw [portTrainingDone_comesUp hm h0 hw]
  refine ⟨?_, portRecord_shown _ _ _ _, fun o ho => ?_, mem_finish_of_wr_nil _ _ (htold.wr.trans hs.2), htold.run⟩
  · rw [getPort_congr ((finish_fab s _).trans hfab), getPort_setPort]
  · rw [getPort_congr ((finish_fab s _).trans hfab), getPort_setPort_ne _ _ (Ne.symm ho)]

/-- Training that succeeds after a retraining. -/
theorem trainingDone_comesBack (hs : Tidy s) {lanes : BitVec 4} (hm : mayTrain s = true) (h1 : (getPort s p).state = 1)
    (hw : widthOf lanes ≠ 0) : Yields (.portTrainingDone p true lanes) s fun t =>
      let x := getPort s p
      (getPort t p).state = 2 ∧ (getPort t p).width = BitVec.ofNat 2 (widthOf lanes) ∧ (getPort t p).lanes = lanes ∧
        (getPort t p).failedTrains = 0 ∧ (getPort t p).replay = satAdd x.replay (if x.sent = [] then 0 else 1) ∧
        (∃ l, t.out = s.out ++ (x.sent.map fun f => .flit p f.2) ++ l) ∧ (∀ o, o ≠ p.val → getPort t o = getPort s o) ∧
        t = { s with fab := { s.fab with ports := t.fab.ports }, out := t.out } := by
  have htrained : SentOn p s (setPort s p (trainedPort (getPort s p) lanes)) := by
    refine sentOn_setPort ?_
    rfl
  have hself := getPort_setPort s p (trainedPort (getPort s p) lanes)
  have hdone := portTrainingDone_comesBack (p := p) hm h1 hw
  have hout : (setPort s p (trainedPort (getPort s p) lanes)).out = s.out := rfl
  generalize setPort s p (trainedPort (getPort s p) lanes) = u at *
  obtain ⟨hreplayed, hflits, hport⟩ := replayed_replays u p
  have hpump := onlySent_pumpPort (replayed u p) p
  have hsent := sentOn_pumpPort (replayed u p) p
  obtain ⟨l, hl⟩ := hsent.out
  have hall := (htrained.trans hreplayed).trans hsent
  rw [hself] at hport hflits
  refine yields_of_sentOn (congrArg (fun t => Host.Outcome.next (finish s t)) hdone) hall hs.2 ?_
  refine ⟨?_, ?_, ?_, ?_, ?_, ⟨l, ?_⟩, hall.others, hall.frame⟩
  · rw [hpump, hport]; rfl
  · rw [hpump, hport]; rfl
  · rw [hpump, hport]; rfl
  · rw [hpump, hport]; rfl
  · rw [hpump, hport]; rfl
  · rw [hl, hflits, hout]; rfl

/-- Training that fails: the third time in a row the port goes DOWN. -/
theorem trainingDone_fails (hs : Tidy s) (lanes : BitVec 4) (hm : mayTrain s = true) (h1 : (getPort s p).state = 1) :
    Yields (.portTrainingDone p false lanes) s fun t =>
      let x := getPort s p
      (x.failedTrains + 1 < 3 → getPort t p = { x with failedTrains := x.failedTrains + 1 }) ∧
        (3 ≤ x.failedTrains + 1 →
          getPort t p = downPort (if x.congested then congestionTurned x else x) ∧ (getFn t 0).mgmt = true ∧
            (s.desk.ready = true → (∀ o, o < 9 → portUp t o = false) → t.fab.alone = true ∧ t.fab.assigned = true ∧
              t.fab.routed = true ∧ t.fab.nodeId = 0)) ∧
        (∀ o, o ≠ p.val → getPort t o = getPort s o) ∧ t.mem = s.mem ∧ t.run = s.run := by
  refine ⟨_, rfl, ?_⟩
  rw [portTrainingDone_fails lanes hm h1]
  by_cases h3 : (getPort s p).failedTrains + 1 < 3
  · rw [if_pos h3]
    exact ⟨fun _ => getPort_setPort s p _, fun h => absurd h3 (Nat.not_lt.2 h), fun o ho => getPort_setPort_ne s _ (Ne.symm ho),
      mem_finish_of_wr_nil _ _ hs.2, rfl⟩
  · have htold := told_wentDown s p
    have hself := getPort_wentDown s p
    have hothers (o) (ho : o ≠ p.val) := getPort_wentDown_ne s ho
    have hshown := wentDown_shown s p
    rw [if_neg h3, portDown_eq (by rw [h1]; decide)]
    generalize wentDown s p = w at *
    have hmem := mem_finish_of_wr_nil s w (htold.wr.trans hs.2)
    cases s.desk.ready with
    | false =>
      exact ⟨fun h => absurd h h3, fun _ => ⟨hself, hshown, fun h => absurd h Bool.false_ne_true⟩, hothers, hmem, htold.run⟩
    | true =>
      have halone := told_aloneNode w
      refine ⟨fun h => absurd h h3, fun _ => ⟨(getPort_aloneNode w p).trans hself,
        (congrArg FnReg.mgmt (getFn_aloneNode w 0)).trans hshown, fun _ hnone => ?_⟩,
        fun o ho => (getPort_aloneNode w o).trans (hothers o ho),
        mem_finish_of_wr_nil _ _ ((halone.wr.trans htold.wr).trans hs.2), halone.run.trans htold.run⟩
      have hrun : aloneNode w = runAlone w := aloneNode_alone hnone
      simp only [if_true, hrun]
      exact ⟨rfl, rfl, rfl, rfl⟩

/-- CONGESTED turns at its thresholds. -/
theorem portCongested_turns (h2 : (getPort s p).state = 2)
    (hfree : if (getPort s p).congested = true then 256 < sharedFree (reservedAny s) (getPort s p)
      else sharedFree (reservedAny s) (getPort s p) < 64) : portCongested p s = flipCongested s p := by
  refine if_pos ?_
  cases hc : (getPort s p).congested with
  | false => simpa [h2, hc] using hfree
  | true => simpa [h2, hc] using hfree

end

/-- Settles O48: a port trains again by retrain, comes UP or goes DOWN by portTrainingDone, whose branches the lemmas
portTrainingDone_comesUp, portTrainingDone_comesBack and portTrainingDone_fails name, and turns congested by flipCongested. -/
theorem portsTrain : Obligations.PortsTrain := by
  intro p s hs
  refine ⟨fun h2 => ?_, fun lane h2 => ?_, fun lanes hm h0 hw => trainingDone_comesUp hs hm h0 hw,
    fun lanes hm h1 hw => trainingDone_comesBack hs hm h1 hw, fun lanes hm h1 => ?_, fun h2 hfree => ?_⟩
  · exact retrain_yields (c := .helloTimeout p) (u := s) hs
      (congrArg (fun t => Host.Outcome.next (finish s t)) (if_pos (portUp_of_up h2))) (.refl p s) rfl rfl
  · have hon : SentOn p s (setPort s p (laneLost (getPort s p) lane)) := by
      refine sentOn_setPort ?_
      rfl
    exact retrain_yields (c := .laneLockLoss p lane) hs
      (congrArg (fun t => Host.Outcome.next (finish s t)) (if_pos (portUp_of_up h2))) hon rfl
      (getPort_setPort s p _)
  · obtain ⟨t, ht, hfew, hdown, hrest⟩ := trainingDone_fails (p := p) hs lanes hm h1
    refine ⟨t, ht, hfew, fun h3 => ?_, hrest⟩
    obtain ⟨hport, hshown, halone⟩ := hdown h3
    refine ⟨hport.trans ?_, hshown, halone⟩
    cases (getPort s p).congested <;> rfl
  · have hturned := flipCongested_turned s p
    refine ⟨_, rfl, ?_⟩
    rw [portCongested_turns h2 hfree]
    exact ⟨hturned.self, hturned.others, mem_finish_of_wr_nil _ _ (hturned.told.wr.trans hs.2), hturned.told.run, hturned.desk⟩

end Sys2Proof.Machine
end

section
/-! SUPPORT. Request slips that this node applies (rules R310, R311, R313, R316): the answer that is kept, the checks, and stores
where no word is damaged. -/

namespace Sys2Proof.Machine

/-! ### Answers -/

theorem getRx_setRx (s : State) (node cls : Nat) (x : RxFlow) : getRx (setRx s node cls x) node cls = x := by
  simp [getRx, setRx]

/-- The flow of a slip when the slip has been applied and answered with r. -/
def answeredFlow (s : State) (sl r : Slip) : RxFlow :=
  { seq := (getRx s sl.src.toNat (slipClass sl)).seq + 1,
    answers := ((sl.seq, r) :: (getRx s sl.src.toNat (slipClass sl)).answers).take 32768 }

theorem receiveRequest_eq {s v : State} {sl r : Slip} {act : State → State × Slip}
    (hseq : sl.seq = (getRx s sl.src.toNat (slipClass sl)).seq) (hact : act s = (v, r)) :
    receiveRequest s sl act = sendResponse (setRx v sl.src.toNat (slipClass sl) (answeredFlow s sl r)) r := by
  refine (if_pos hseq).trans ?_
  rw [hact]; rfl

/-- A response that goes out changes ports, the count of slips without a route, and outputs. -/
theorem sendResponse_frame (s : State) (r : Slip) : ∃ ports noRoute out,
    sendResponse s r = { s with fab := { s.fab with ports := ports, noRoute := noRoute }, out := out } :=
  routeOut_frame s _ _ _ _

/-- A request slip has been applied in state v and answered with r; it has changed nothing else but flows, ports and outputs. -/
structure Applied (s v u : State) (sl r : Slip) : Prop where
  frame : u = { v with fab := u.fab, out := u.out }
  flow : getRx u sl.src.toNat (slipClass sl) = answeredFlow s sl r
  sigLost : u.fab.sigLost = v.fab.sigLost

theorem receiveRequest_applied {s v : State} {sl r : Slip} {act : State → State × Slip}
    (hseq : sl.seq = (getRx s sl.src.toNat (slipClass sl)).seq) (hact : act s = (v, r)) :
    Applied s v (receiveRequest s sl act) sl r := by
  rw [receiveRequest_eq hseq hact]
  have hflow := getRx_setRx v sl.src.toNat (slipClass sl) (answeredFlow s sl r)
  obtain ⟨ports, noRoute, out, h⟩ := sendResponse_frame (setRx v sl.src.toNat (slipClass sl) (answeredFlow s sl r)) r
  rw [h]
  exact ⟨rfl, hflow, rfl⟩

/-- The sender of a slip has an answer of a kind, with a status and bytes, which this node keeps; the flow expects the next SEQ. -/
def SlipAnswered (sl : Slip) (u : State) (kind status : Nat) (data : List Byte) : Prop :=
  (getRx u sl.src.toNat (slipClass sl)).seq = sl.seq + 1 ∧
    ∃ a, (getRx u sl.src.toNat (slipClass sl)).answers.head? = some (sl.seq, a) ∧ a.dest = sl.src ∧ a.kind.toNat = kind ∧
      a.status.toNat = status ∧ a.payload = data ∧ a.seq = sl.seq ∧ a.tag = sl.tag

/-- An answer that differs from answerTo in its payload and length alone. -/
theorem Applied.answered {s v w u : State} {sl : Slip} {kind status : Nat} {len : BitVec 13} {data : List Byte}
    (h : Applied s v u sl { answerTo w sl kind status with len := len, payload := data })
    (hseq : sl.seq = (getRx s sl.src.toNat (slipClass sl)).seq) (hk : kind < 16) (hst : status < 256) :
    SlipAnswered sl u kind status data := by
  rw [SlipAnswered, h.flow]
  refine ⟨congrArg (· + 1) hseq.symm, _, rfl, ?_, ?_, ?_, rfl, rfl, rfl⟩
  · simp [answerTo, newSlip]
  · exact Nat.mod_eq_of_lt hk
  · exact Nat.mod_eq_of_lt hst

/-- What no request slip changes beside memory and the fabric. -/
theorem Applied.keeps {s v u : State} {sl r : Slip} (h : Applied s v u sl r) :
    u.desk = v.desk ∧ u.run = v.run ∧ u.tier = v.tier ∧ u.arrs = v.arrs ∧ u.rst = v.rst := by
  rw [h.frame]
  exact ⟨rfl, rfl, rfl, rfl, rfl⟩

theorem Applied.memory {s v u : State} {sl r : Slip} (h : Applied s v u sl r) : u.mem = v.mem ∧ u.wr = v.wr := by
  rw [h.frame]
  exact ⟨rfl, rfl⟩

/-! ### Checks, reads and stores where no word is damaged -/

section
variable {s : State}

theorem slipCheck_undamaged (sl : Slip) (n : Nat) (h : Undamaged s) : slipCheck s sl n = ((slipCheck s sl n).1, s) := by
  refine Prod.ext rfl ?_
  simp only [slipCheck]
  split
  · rfl
  · rw [readErrors_undamaged _ _ _ _ h]

theorem storeErrors_undamaged (a n : Nat) (rd : Reader) (t : Option TileId) (h : Undamaged s) : storeErrors s a n rd t = s := by
  obtain ⟨hue, hce⟩ := h
  simp [storeErrors, partBad, ceIn, ueIn, hue, hce, inOrder, forEach]

theorem readFolioErrors_undamaged (fid : Nat) (r : Nat × Nat) (rd : Reader) (t : Option TileId) (h : Undamaged s) :
    readFolioErrors s fid [r] rd t = (false, s) := by
  simp only [readFolioErrors, List.foldl_cons, List.foldl_nil, readErrors_undamaged _ _ _ _ h, Bool.or_self]

/-- A store in a folio that does not move is one store at its place. -/
theorem storeFolio_undamaged {fid : Nat} (off : Nat) (bs : List Byte) (h : Undamaged s) (hm : moveOf s fid = none) :
    storeFolio s fid off bs = (true, writeMem s (folioBase (getFolio s fid) + off) bs) := by
  simp only [storeFolio, moveCopy, hm, storeBytes_undamaged _ _ h]

theorem storeFolioAs_undamaged (rd : Reader) (t : Option TileId) {fid : Nat} (off : Nat) (bs : List Byte) (h : Undamaged s)
    (hm : moveOf s fid = none) :
    storeFolioAs s rd t fid off bs = (true, writeMem s (folioBase (getFolio s fid) + off) bs) := by
  simp only [storeFolioAs, storeErrors_undamaged _ _ _ _ h, moveCopy, hm]
  exact storeFolio_undamaged off bs h hm

/-- What an address reads when the command has stored some bytes alone. -/
theorem readByte_stored {u : State} {base : Nat} {bs : List Byte} (hs : Tidy s) (hm : u.mem = s.mem)
    (hw : u.wr = .store base bs :: s.wr) (a : Nat) :
    readByte u a = if base ≤ a ∧ a < base + bs.length then bs.getD (a - base) 0 else readByte s a := by
  rw [readByte_eq u a (hm ▸ hs.1), hm, hw, hs.2, readByte_tidy s a hs]
  exact cellAt_memPut 0 s.mem base bs a

theorem readMem_stored {u : State} {base : Nat} {bs : List Byte} (hs : Tidy s) (hm : u.mem = s.mem)
    (hw : u.wr = .store base bs :: s.wr) : readMem u base bs.length = bs := by
  refine List.ext_getElem (readMem_length u base _) fun i hi hbs => ?_
  have hread := readMem_getD u base bs.length i (hm ▸ hs.1) hbs
  rw [hm, hw, hs.2] at hread
  have hcell := cellAt_memPut 0 s.mem base bs (base + i)
  rw [if_pos ⟨by omega, by omega⟩, Nat.add_sub_cancel_left] at hcell
  have hbyte := hread.trans hcell
  simpa [List.getD_eq_getElem?_getD, hi, hbs] using hbyte

end

theorem bytesOf_length (n v : Nat) : (bytesOf n v).length = n := by
  induction n generalizing v with
  | zero => rfl
  | succ n ih => simp [bytesOf, ih]

end Sys2Proof.Machine
end

section
/-! Request slips WRITE, READ and ADD (rules R310, R313, R316). -/

namespace Sys2Proof.Machine

/-- The parts of the state beside memory and the fabric that a request slip leaves. -/
def SlipKeeps (s u : State) : Prop := u.desk = s.desk ∧ u.run = s.run ∧ u.tier = s.tier ∧ u.arrs = s.arrs ∧ u.rst = s.rst

section
variable {s : State} {sl : Slip}

theorem forUs_eq_true {kind : Nat} (hd : sl.dest = s.fab.nodeId) (hk : sl.kind.toNat = kind) : forUs s sl kind = true := by
  simp [forUs, hd, hk]

/-- A slip of a kind for this node passes the first test of its command. -/
theorem mayApply {kind : Nat} (hd : sl.dest = s.fab.nodeId) (hl : fabricLive s = true) (hk : sl.kind.toNat = kind) :
    ¬ (!forUs s sl kind || !fabricLive s) = true := by
  simp [forUs_eq_true hd hk, hl]

/-- A request slip that changed nothing but flows, ports and outputs. -/
theorem Applied.silent {u : State} {r : Slip} (h : Applied s s u sl r) (hs : Tidy s) :
    SlipKeeps s u ∧ u.mem = s.mem ∧ u.wr = [] :=
  ⟨h.keeps, h.memory.1, h.memory.2.trans hs.2⟩

/-! ### WRITE -/

theorem writeSlip_eq (hd : sl.dest = s.fab.nodeId) (hl : fabricLive s = true) (hk : sl.kind.toNat = kWrite) (hf : sl.folio ≠ 0) :
    writeSlip sl [] s = receiveRequest s sl fun s =>
      let (code, s) := slipCheck s sl sl.payload.length
      if code ≠ 0 then (s, answerTo s sl kAck code)
      else
        let (ok, t) := storeFolioAs s .remote none sl.folio.toNat sl.offset.toNat sl.payload
        (t, answerTo t sl kAck (if ok then 0 else 0x0B)) := by
  refine (if_neg (mayApply hd hl hk)).trans ?_
  have hnear : isFar sl = false := by rw [isFar, beq_false_of_ne hf, Bool.false_and]
  have hnamed : (sl.folio = 0 && sl.countLen != 0) = false := by rw [decide_eq_false hf, Bool.false_and]
  simp only [hnear, hnamed]
  rfl

theorem writeSlip_stores (hu : Undamaged s) (hd : sl.dest = s.fab.nodeId) (hl : fabricLive s = true)
    (hseq : sl.seq = (getRx s sl.src.toNat (slipClass sl)).seq) (hf : sl.folio ≠ 0) (hm : moveOf s sl.folio.toNat = none)
    (hk : sl.kind.toNat = kWrite) (hcheck : (slipCheck s sl sl.payload.length).1 = 0) :
    let v := writeMem s (folioBase (getFolio s sl.folio.toNat) + sl.offset.toNat) sl.payload
    Applied s v (writeSlip sl [] s) sl (answerTo v sl kAck 0) := by
  rw [writeSlip_eq hd hl hk hf]
  refine receiveRequest_applied hseq ?_
  rw [slipCheck_undamaged sl _ hu]
  simp only [hcheck, storeFolioAs_undamaged _ _ _ _ hu hm]
  rfl

theorem writeSlip_rejected (hu : Undamaged s) (hd : sl.dest = s.fab.nodeId) (hl : fabricLive s = true)
    (hseq : sl.seq = (getRx s sl.src.toNat (slipClass sl)).seq) (hf : sl.folio ≠ 0) (hk : sl.kind.toNat = kWrite)
    (hcheck : (slipCheck s sl sl.payload.length).1 = 3) : Applied s s (writeSlip sl [] s) sl (answerTo s sl kAck 3) := by
  rw [writeSlip_eq hd hl hk hf]
  refine receiveRequest_applied hseq ?_
  rw [slipCheck_undamaged sl _ hu]
  simp only [hcheck]
  rfl

/-! ### READ -/

/-- The answer to a READ slip with the bytes that it asks for. -/
def readAnswer (s : State) (sl : Slip) : Slip :=
  { answerTo s sl kReadData 0 with
    len := BitVec.ofNat 13 sl.countLen.toNat
    payload := folioData s sl.folio.toNat sl.offset.toNat sl.countLen.toNat }

theorem readSlip_eq (hd : sl.dest = s.fab.nodeId) (hl : fabricLive s = true) (hk : sl.kind.toNat = kRead) :
    readSlip sl [] s = receiveRequest s sl fun s =>
      let (code, s) := slipCheck s sl sl.countLen.toNat
      if code ≠ 0 then (s, answerTo s sl kReadData code)
      else
        let (bad, t) := readFolioErrors s sl.folio.toNat [(sl.offset.toNat, sl.countLen.toNat)] .remote none
        if bad then (t, answerTo t sl kReadData 0x0B)
        else
          (t, { answerTo t sl kReadData 0 with
                len := BitVec.ofNat 13 sl.countLen.toNat
                payload := folioData s sl.folio.toNat sl.offset.toNat sl.countLen.toNat }) :=
  if_neg (mayApply hd hl hk)

theorem readSlip_reads (hu : Undamaged s) (hd : sl.dest = s.fab.nodeId) (hl : fabricLive s = true)
    (hseq : sl.seq = (getRx s sl.src.toNat (slipClass sl)).seq) (hk : sl.kind.toNat = kRead)
    (hcheck : (slipCheck s sl sl.countLen.toNat).1 = 0) : Applied s s (readSlip sl [] s) sl (readAnswer s sl) := by
  rw [readSlip_eq hd hl hk]
  refine receiveRequest_applied hseq ?_
  rw [slipCheck_undamaged sl _ hu]
  simp only [hcheck, readFolioErrors_undamaged _ _ _ _ hu]
  rfl

theorem readSlip_rejected (hu : Undamaged s) (hd : sl.dest = s.fab.nodeId) (hl : fabricLive s = true)
    (hseq : sl.seq = (getRx s sl.src.toNat (slipClass sl)).seq) (hk : sl.kind.toNat = kRead)
    (hcheck : (slipCheck s sl sl.countLen.toNat).1 = 3) : Applied s s (readSlip sl [] s) sl (answerTo s sl kReadData 3) := by
  rw [readSlip_eq hd hl hk]
  refine receiveRequest_applied hseq ?_
  rw [slipCheck_undamaged sl _ hu]
  simp only [hcheck]
  rfl

/-! ### ADD -/

/-- The sum that an ADD slip stores in its folio. -/
def addedSum (s : State) (sl : Slip) : List Byte :=
  bytesOf 8 ((natOf (folioData s sl.folio.toNat sl.offset.toNat 8) + natOf (sl.payload.take 8)) % 2 ^ 64)

/-- A peer signal that is lost is counted. -/
def signalLost (s : State) (sl : Slip) : State :=
  if sl.countLen = 1 then s.setFab { s.fab with sigLost := satAdd s.fab.sigLost 1 } else s

theorem applyAdd_eq (hd : sl.dest = s.fab.nodeId) (hl : fabricLive s = true) (hk : sl.kind.toNat = kAdd) :
    applyAdd sl [] s = receiveRequest s sl fun s =>
      let (code, s) := slipCheck s sl 8
      if code ≠ 0 then (signalLost s sl, answerTo (signalLost s sl) sl kAck code)
      else
        let (bad, t) := readFolioErrors s sl.folio.toNat [(sl.offset.toNat, 8)] .remote none
        if bad then (signalLost t sl, answerTo (signalLost t sl) sl kAck 0x0B)
        else
          let v := (storeFolio t sl.folio.toNat sl.offset.toNat (addedSum s sl)).2
          (v, answerTo v sl kAck 0) :=
  if_neg (mayApply hd hl hk)

theorem applyAdd_adds (hu : Undamaged s) (hd : sl.dest = s.fab.nodeId) (hl : fabricLive s = true)
    (hseq : sl.seq = (getRx s sl.src.toNat (slipClass sl)).seq) (hm : moveOf s sl.folio.toNat = none) (hk : sl.kind.toNat = kAdd)
    (hcheck : (slipCheck s sl 8).1 = 0) :
    let v := writeMem s (folioBase (getFolio s sl.folio.toNat) + sl.offset.toNat) (addedSum s sl)
    Applied s v (applyAdd sl [] s) sl (answerTo v sl kAck 0) := by
  rw [applyAdd_eq hd hl hk]
  refine receiveRequest_applied hseq ?_
  rw [slipCheck_undamaged sl _ hu]
  simp only [hcheck, readFolioErrors_undamaged _ _ _ _ hu, storeFolio_undamaged _ _ hu hm]
  rfl

theorem applyAdd_rejected (hu : Undamaged s) (hd : sl.dest = s.fab.nodeId) (hl : fabricLive s = true)
    (hseq : sl.seq = (getRx s sl.src.toNat (slipClass sl)).seq) (hk : sl.kind.toNat = kAdd)
    (hcheck : (slipCheck s sl 8).1 = 3) :
    Applied s (signalLost s sl) (applyAdd sl [] s) sl (answerTo (signalLost s sl) sl kAck 3) := by
  rw [applyAdd_eq hd hl hk]
  refine receiveRequest_applied hseq ?_
  rw [slipCheck_undamaged sl _ hu]
  simp only [hcheck]
  rfl

theorem signalLost_frame (s : State) (sl : Slip) : signalLost s sl =
    s.setFab { s.fab with sigLost := if sl.countLen = 1 then satAdd s.fab.sigLost 1 else s.fab.sigLost } := by
  unfold signalLost
  split <;> rfl

end

/-- Settles O51: where no word is damaged a request slip is one store or none, and receiveRequest keeps its answer
(receiveRequest_applied). -/
theorem slipsApplied : Obligations.SlipsApplied := by
  intro sl s hs hu hd hl hseq hf hm
  have hstored (u : State) (bs : List Byte) (hmem : u.mem = s.mem)
      (hwr : u.wr = .store (folioBase (getFolio s sl.folio.toNat) + sl.offset.toNat) bs :: s.wr) :=
    readByte_stored hs hmem hwr
  refine ⟨fun hk => ⟨fun hcheck => ?_, fun hcheck => ?_⟩, fun hk => ⟨fun hcheck => ?_, fun hcheck => ?_⟩,
    fun hk => ⟨fun hcheck => ?_, fun hcheck => ?_⟩⟩
  · have happ := writeSlip_stores hu hd hl hseq hf hm hk hcheck
    obtain ⟨hmem, hwr⟩ := happ.memory
    exact ⟨_, rfl, _, rfl, hmem, happ.answered hseq (by decide) (by decide), happ.keeps, hstored _ _ hmem hwr⟩
  · have happ := writeSlip_rejected hu hd hl hseq hf hk hcheck
    obtain ⟨hkeeps, hmem, hwr⟩ := happ.silent hs
    exact ⟨_, rfl, _, rfl, hmem, happ.answered hseq (by decide) (by decide), hkeeps, hmem, hwr⟩
  · have happ := readSlip_reads hu hd hl hseq hk hcheck
    obtain ⟨hkeeps, hmem, hwr⟩ := happ.silent hs
    exact ⟨_, rfl, _, rfl, hmem, happ.answered hseq (by decide) (by decide), hkeeps, hmem, hwr⟩
  · have happ := readSlip_rejected hu hd hl hseq hk hcheck
    obtain ⟨hkeeps, hmem, hwr⟩ := happ.silent hs
    exact ⟨_, rfl, _, rfl, hmem, happ.answered hseq (by decide) (by decide), hkeeps, hmem, hwr⟩
  · have happ := applyAdd_adds hu hd hl hseq hm hk hcheck
    obtain ⟨hmem, hwr⟩ := happ.memory
    have hlen : (addedSum s sl).length = 8 := bytesOf_length 8 _
    have hread := readMem_stored hs hmem hwr
    have hbyte := hstored _ _ hmem hwr
    rw [hlen] at hread
    simp only [hlen] at hbyte
    exact ⟨_, rfl, _, rfl, hmem, happ.answered hseq (by decide) (by decide), happ.keeps, hread,
      fun a ha => (hbyte a).trans (if_neg ha)⟩
  · have happ := applyAdd_rejected hu hd hl hseq hk hcheck
    obtain ⟨hmem, hwr⟩ := happ.memory
    have hlost := happ.sigLost
    have hkeeps := happ.keeps
    have hans := happ.answered hseq (by decide) (by decide)
    rw [signalLost_frame] at hmem hwr hlost hkeeps
    exact ⟨_, rfl, _, rfl, hmem, hans, hkeeps, hmem, hwr.trans hs.2, hlost⟩

end Sys2Proof.Machine
end

section
/-! SUPPORT. What follows at the stations while every round runs and no command is in progress (rules R108, R221, R280, R290, R318):
queues stay as they are, unless a waiting RTS meets a RECV, whose answer is then kept. -/

namespace Sys2Proof.Machine

/-- No command is in progress, no queue is being destroyed, and every round runs and goes on. -/
def Steady (s : State) : Prop :=
  s.desk.cmds = [] ∧ ∀ q, (getQ s q).state ≠ 4 ∧ ∀ r ∈ (getQ s q).rounds, r.state = .running ∧ r.stopping = false

/-- Queues, commands in progress and the flows to this node are in t as in s. -/
structure Unmoved (s t : State) : Prop where
  cmds : t.desk.cmds = s.desk.cmds
  rx : t.fab.rx = s.fab.rx
  queue : ∀ q, getQ t q = getQ s q

theorem Unmoved.refl (s : State) : Unmoved s s := ⟨rfl, rfl, fun _ => rfl⟩

theorem Unmoved.trans {s t u : State} (h : Unmoved s t) (k : Unmoved t u) : Unmoved s u :=
  ⟨k.cmds.trans h.cmds, k.rx.trans h.rx, fun q => (k.queue q).trans (h.queue q)⟩

theorem Unmoved.forEach {α : Type} (l : List α) (s : State) (f : State → α → State) (h : ∀ s x, Unmoved s (f s x)) :
    Unmoved s (Machine.forEach l s f) := by
  unfold Machine.forEach
  induction l generalizing s with
  | nil => exact .refl s
  | cons a l ih => exact (h s a).trans (ih _)

theorem Steady.of_unmoved {s t : State} (hs : Steady s) (h : Unmoved s t) : Steady t :=
  ⟨h.cmds.trans hs.1, fun q => h.queue q ▸ hs.2 q⟩

theorem Steady.of_desk {s t : State} (hs : Steady s) (h : t.desk = s.desk) : Steady t :=
  ⟨(congrArg Desk.cmds h).trans hs.1, fun q => getQ_congr h q ▸ hs.2 q⟩

/-! ### The end of a tile -/

/-- A round of a list that a loss has spread over stands where one of the list stood. -/
theorem spreadLoss_stands {lost : Bool} {rs : List Round} {r : Round} (h : r ∈ spreadLoss lost rs) :
    ∃ r' ∈ rs, r.state = r'.state ∧ r.stopping = r'.stopping := by
  induction rs generalizing lost with
  | nil => simp [spreadLoss] at h
  | cons a rs ih =>
    rcases List.mem_cons.1 h with rfl | h
    · refine ⟨a, List.mem_cons_self, ?_⟩
      split <;> exact ⟨rfl, rfl⟩
    · obtain ⟨r', hr', hstands⟩ := ih h
      exact ⟨r', List.mem_cons_of_mem _ hr', hstands⟩

theorem Steady.loseRound {s : State} (hs : Steady s) (q : Nat) (n : W32) : Steady (loseRound s q n) := by
  refine ⟨hs.1, fun p => ?_⟩
  by_cases hp : p = q
  · subst hp
    rw [Machine.loseRound, settleLoss, getQ_modQ, modRound, getQ_modQ]
    refine ⟨(hs.2 p).1, fun r hr => ?_⟩
    obtain ⟨r', hr', hstate, hstopping⟩ := spreadLoss_stands hr
    obtain ⟨r0, hr0, rfl⟩ := List.mem_map.1 hr'
    rw [hstate, hstopping]
    split <;> exact (hs.2 p).2 r0 hr0
  · rw [loseRound_others s n hp]
    exact hs.2 p

theorem Steady.failTile {s : State} (hs : Steady s) (i : TileId) (status : Nat) : Steady (failTile s i status) := by
  cases hx : findTile s i with
  | none => rw [Machine.failTile, hx]; exact hs
  | some x =>
    obtain ⟨v, hv, -, hdesk, -⟩ := failTile_loses status hx
    rw [hv]
    exact (hs.of_desk hdesk).loseRound _ _

theorem failTile_rx (s : State) (i : TileId) (status : Nat) : (failTile s i status).fab.rx = s.fab.rx := by
  cases hx : findTile s i with
  | none => rw [failTile, hx]
  | some x =>
    obtain ⟨v, hv, -, -, hfab, -⟩ := failTile_loses status hx
    rw [hv, loseRound_fab, hfab]; rfl

/-! ### An RTS that meets a RECV -/

/-- The status with which a RECV answers an RTS. -/
def rtsStatus (s : State) (x : Tile) (r : Slip) : Nat :=
  if r.countLen.toNat ≠ loanBytes x.d then 1 else if r.rank != 0 && r.rank != rankHint s (dFolio x.d 2) then 3 else 0

/-- The flow of an RTS with its answer kept. -/
def rtsFlow (s : State) (x : Tile) (r : Slip) : RxFlow :=
  let fl := getRx s r.src.toNat (slipClass r)
  { fl with answers := ((r.seq, answerTo s r kCts (rtsStatus s x r)) :: fl.answers).take 32768 }

/-- The answer has been kept and sent; the RECV has not learned of it yet. -/
def rtsAnswered (s : State) (x : Tile) (r : Slip) : State :=
  liveAgain (sendResponse (setRx s r.src.toNat (slipClass r) (rtsFlow s x r)) (answerTo s r kCts (rtsStatus s x r))) false
    (x.id.q / 32) (dSeed x.d) fun e => e.src == r.src && e.cls == slipClass r && e.rts == r.seq

theorem grantRecv_eq (s : State) (x : Tile) (r : Slip) : grantRecv s x r =
    if rtsStatus s x r ≠ 0 then failTile (rtsAnswered s x r) x.id (rtsStatus s x r)
    else setTile (rtsAnswered s x r)
      { x with loan := { x.loan with granted := true, rts := r.seq }, waitFrom := some (rtsAnswered s x r).clk.now } := rfl

theorem rtsAnswered_desk (s : State) (x : Tile) (r : Slip) : (rtsAnswered s x r).desk = s.desk := by
  obtain ⟨ports, noRoute, out, hsent⟩ := sendResponse_frame (setRx s r.src.toNat (slipClass r) (rtsFlow s x r))
    (answerTo s r kCts (rtsStatus s x r))
  rw [rtsAnswered, hsent]; rfl

theorem rtsAnswered_rx (s : State) (x : Tile) (r : Slip) : (rtsAnswered s x r).fab.rx ≠ [] := by
  obtain ⟨ports, noRoute, out, hsent⟩ := sendResponse_frame (setRx s r.src.toNat (slipClass r) (rtsFlow s x r))
    (answerTo s r kCts (rtsStatus s x r))
  have hkept : getRx (rtsAnswered s x r) r.src.toNat (slipClass r) = rtsFlow s x r := by
    rw [rtsAnswered, hsent]
    exact getRx_setRx s r.src.toNat (slipClass r) (rtsFlow s x r)
  intro hnil
  rw [getRx, hnil] at hkept
  exact List.cons_ne_nil _ _ (congrArg RxFlow.answers hkept).symm

theorem grantRecv_rx (s : State) (x : Tile) (r : Slip) : (grantRecv s x r).fab.rx ≠ [] := by
  rw [grantRecv_eq]
  split
  · rw [failTile_rx]; exact rtsAnswered_rx s x r
  · exact rtsAnswered_rx s x r

theorem Steady.grantRecv {s : State} (hs : Steady s) (x : Tile) (r : Slip) : Steady (grantRecv s x r) := by
  have hanswered := hs.of_desk (rtsAnswered_desk s x r)
  rw [grantRecv_eq]
  split
  · exact hanswered.failTile _ _
  · exact hanswered.of_desk rfl

/-- What waiting RTS do to a steady state: nothing, or an answer is kept. -/
def Met (s t : State) : Prop := Steady t ∧ (t = s ∨ t.fab.rx ≠ [])

theorem Met.trans {s t u : State} (h : Met s t) (k : Met t u) : Met s u :=
  ⟨k.1, k.2.elim (fun hu => hu ▸ h.2) .inr⟩

theorem met_forEach {α : Type} (l : List α) (f : State → α → State) (hf : ∀ s x, Steady s → Met s (f s x)) {s : State}
    (hs : Steady s) : Met s (forEach l s f) := by
  unfold forEach
  induction l generalizing s with
  | nil => exact ⟨hs, .inl rfl⟩
  | cons a l ih => exact (hf s a hs).trans (ih (hf s a hs).1)

theorem met_matchRts {s : State} (hs : Steady s) : Met s (matchRts s) := by
  refine met_forEach _ _ (fun s r hs => ?_) hs
  cases recvFor s r with
  | none => exact ⟨hs, .inl rfl⟩
  | some x =>
    have hmet := Steady.grantRecv (hs.of_desk (t := s.setFab { s.fab with rtsWait := s.fab.rtsWait.erase r }) rfl) x r
    exact ⟨hmet, .inr (grantRecv_rx _ x r)⟩

/-! ### What a steady state lets happen -/

theorem forEach_same {α : Type} (l : List α) (s : State) (f : State → α → State) (h : ∀ x ∈ l, f s x = s) : forEach l s f = s := by
  unfold forEach
  induction l with
  | nil => rfl
  | cons a l ih =>
    rw [List.foldl_cons, h a List.mem_cons_self]
    exact ih fun x hx => h x (List.mem_cons_of_mem _ hx)

theorem Steady.settleReturns_eq {s : State} (hs : Steady s) (q : Nat) : settleReturns s q = s := by
  refine forEach_same _ _ _ fun r hr => if_neg ?_
  simp [((hs.2 q).2 r hr).2]

theorem Steady.settleFaults_eq {s : State} (hs : Steady s) (q : Nat) : settleFaults s q = s := by
  refine forEach_same _ _ _ fun r hr => if_neg ?_
  simp [((hs.2 q).2 r hr).2]

theorem Steady.settleDestroy_eq {s : State} (hs : Steady s) (q : Nat) : settleDestroy s q = s := if_neg (hs.2 q).1

theorem Steady.settleCharge_unmoved {s : State} (hs : Steady s) (q : Nat) : Unmoved s (settleCharge s q) := by
  refine ⟨rfl, rfl, fun p => ?_⟩
  by_cases hp : p = q
  · subst hp
    have hrounds : (getQ s p).rounds.map (fun r =>
        if r.state = .suspended && r.since.isSome && !roundHeld s p r.num then stopCharge s r else r) = (getQ s p).rounds := by
      refine (List.map_congr_left fun r hr => ?_).trans (List.map_id _)
      rw [((hs.2 p).2 r hr).1]; rfl
    rw [settleCharge, getQ_modQ, hrounds]
  · exact getQ_modQ_ne _ _ hp

theorem Steady.settleFrees_eq {s : State} (hs : Steady s) : settleFrees s = s := by rw [settleFrees, hs.1]; rfl

theorem unmoved_putRun (s : State) (w r : Nat) (x : Runner) : Unmoved s (putRun s w r x) := ⟨rfl, rfl, fun _ => rfl⟩

theorem unmoved_stallRunner (s : State) (w r : Nat) : Unmoved s (stallRunner s w r) := by
  unfold stallRunner
  extract_lets y stuck z z'
  split
  · exact .refl s
  · exact unmoved_putRun s w r z'

theorem unmoved_settleStalls (s : State) : Unmoved s (settleStalls s) := .forEach _ _ _ fun s _ => unmoved_stallRunner s _ _

/-- In a steady state nothing follows but the meetings of RTS and RECVs, and the stalls of the Runners. -/
theorem Steady.settle_unmoved {s : State} (hs : Steady s) : Unmoved (matchRts s) (settle s) := by
  have hloop (qs : List Nat) {t : State} (ht : Steady t) :
      Unmoved t (forEach qs t fun s q => settleCharge (settleDestroy (settleFaults (settleReturns s q) q) q) q) := by
    unfold forEach
    induction qs generalizing t with
    | nil => exact .refl t
    | cons q qs ih =>
      rw [List.foldl_cons, ht.settleReturns_eq, ht.settleFaults_eq, ht.settleDestroy_eq]
      exact (ht.settleCharge_unmoved q).trans (ih (ht.of_unmoved (ht.settleCharge_unmoved q)))
  have hmet := (met_matchRts hs).1
  have hqueues := hloop ((matchRts s).desk.queues.map fun x => x.1) hmet
  have hfrees := (hmet.of_unmoved hqueues).settleFrees_eq
  unfold settle
  simp only
  rw [hfrees]
  exact hqueues.trans (unmoved_settleStalls _)

/-- What follows from a steady state leaves the queues alone, or an answer to an RTS has been kept. -/
theorem Steady.settle_cases {s : State} (hs : Steady s) : Unmoved s (settle s) ∨ (settle s).fab.rx ≠ [] := by
  have hall := hs.settle_unmoved
  rcases (met_matchRts hs).2 with hm | hm
  · rw [hm] at hall
    exact .inl hall
  · exact .inr (hall.rx ▸ hm)

/-- Without a waiting RTS, the queues, the commands in progress and the flows stay as they are. -/
theorem Steady.settle_alone {s : State} (hs : Steady s) (hw : s.fab.rtsWait = []) : Unmoved s (settle s) := by
  have hnone : matchRts s = s := by rw [matchRts, hw]; rfl
  have hall := hs.settle_unmoved
  rwa [hnone] at hall

end Sys2Proof.Machine
end

section
/-! SUPPORT. A GET whose second slab lies past the last byte that an offset names (rules R138, R319): the state that refutes O52. -/

namespace Sys2Proof.Machine

/-- The GET tile's identity: tile 0 of round 0 of queue 1. -/
def farEndId : TileId := { q := 1, rnd := 0, idx := 0 }

/-- A GET from node 1 of two rows of 2,048 FP32 elements, each a slab of 8,192 bytes; OFFSET of operand A is 2^25 − 8,192. -/
def farEndDesc : List W32 :=
  let slotA := 5 + 2 ^ 20 * ((2 ^ 25 - 8192) / 64)
  [0x2C000000, 0, 0, 0x00010000, 0, 2, 0, 0x08000000, 0, BitVec.ofNat 32 slotA, BitVec.ofNat 32 (slotA / 2 ^ 32), 0, 0, 5, 0, 0]

/-- The tile at its Loan station: it has asked for the first slab, and the last 64 bytes of that are still to come. -/
def farEndTile : Tile :=
  { id := farEndId, d := farEndDesc, w := 0, r := 0, a := 0, cls := 3, order := 0, phase := .held, hop := 0, wtGot := 0, actGot := 0,
    auxGot := false, fetched := [0, 0, 0], passDone := 0, tableReady := true, table := none, rows := [], status := 0, sat := false,
    replayed := false, nonfinite := false, maxabs := 0, clip := 0, startCyc := none, charged := 0, stamp := 0, waitFrom := none,
    rerun := false, fifo := false, readyFrom := none, loan := { LoanSt.reset with got := 8128, asked := 8192 } }

/-- The IN unit that the tile holds. -/
def farEndUnit : Buf :=
  { t := farEndId, part := .inp, idx := 0, blk := 0, off := 0, len := unitBytes, line := false, unit := true, tag := [] }

/-- The tile's round, which runs. -/
def farEndRound (lost : Bool) : Round :=
  { num := 0, cls := 3, rsignal := false, tag := 0, budget := 100, mask := 1, descFolio := 5, descBase := 0, descOffset := 0,
    descCount := 1, progFolio := 0, progOffset := 0, submitted := 0, fresh := true, late := false, returned := false,
    state := .running, order := 0, tick := 0, since := none, charge := 0, overrun := false, demoted := false, lostGuarantee := lost,
    attrs := Attrs.reset, taken := [0], done := 0, reexecuted := false, stopping := false, result := none, loanDone := [],
    sigDone := [] }

/-- The Desk with that round in queue 1. -/
def farEndDesk (lost : Bool) : Desk :=
  { Desk.reset with queues := [(1, { Queue.reset with state := 1, rounds := [farEndRound lost] })] }

/-- The READ slip of class 3 for the last 64 bytes of the slab, and the READ_DATA slip that answers it. -/
def farEndRead : Slip :=
  { dest := 1, src := 0, vc := 6, func := 0, kind := 1, len := 0, seq := 0, rank := 0, status := 0, tag := 0, folio := 5,
    offset := BitVec.ofNat 25 (2 ^ 25 - 64), countLen := 64, stamp := 0, payload := [] }
def farEndData : Slip :=
  { farEndRead with dest := 0, src := 1, vc := 7, kind := 2, len := 64, countLen := 0, payload := List.replicate 64 0 }
def farEndSent : SentSlip := { slip := farEndRead, tile := some farEndId, wing := 0, q := 1, ended := false, late := false }

/-- Node 0 as the answer arrives. -/
def farEnd : State :=
  { State.reset with
    desk := farEndDesk false
    run := { Work.reset with tiles := [farEndTile] }
    arrs := { Arrays.reset with arr := [(0, { Arr.reset with bufs := [farEndUnit] })] }
    fab := { Fab.reset with tx := [(flowKey 1 3, { seq := 1, open_ := [farEndSent], alt := 0 })] } }

/-! ### The state satisfies the hypotheses -/

theorem farEnd_tidy : Tidy farEnd := ⟨rfl, rfl⟩

theorem farEnd_undamaged : Undamaged farEnd := by
  unfold Undamaged; decide +kernel

theorem farEnd_asked :
    (getTx farEnd farEndData.src.toNat (slipClass farEndData)).open_.find? (fun x => x.slip.seq == farEndData.seq) =
      some farEndSent ∧ farEndSent.tile.bind (findTile farEnd) = some farEndTile ∧ isFar farEndSent.slip = false ∧
      unitHeld farEnd farEndTile = some farEndUnit := by
  decide +kernel

/-- The answer makes the first slab whole, and the folio of operand C does not move. -/
theorem farEnd_whole :
    farEndTile.loan.got + farEndData.payload.length = (slabNow farEndTile).1 + (slabNow farEndTile).2 ∧
      moveOf farEnd (dFolio farEndTile.d 2) = none := by
  decide +kernel

/-! ### What the model does -/

section
variable {s : State} {lost : Bool}

theorem getQ_farEndDesk (h : s.desk = farEndDesk lost) : (getQ s 1).rounds = [farEndRound lost] := by rw [getQ, h]; rfl

theorem steady_of_farEndDesk (h : s.desk = farEndDesk lost) : Steady s := by
  refine ⟨by rw [h]; rfl, fun q => ?_⟩
  rw [getQ, h]
  by_cases hq : 1 = q
  · rw [farEndDesk, tabGet, if_pos hq]
    exact ⟨show (1 : BitVec 3) ≠ 4 by decide, fun r hr => by rw [List.mem_singleton.1 hr]; exact ⟨rfl, rfl⟩⟩
  · rw [farEndDesk, tabGet, if_neg hq]
    exact ⟨show (0 : BitVec 3) ≠ 4 by decide, fun r hr => absurd hr List.not_mem_nil⟩

theorem exec_readData {sl : Slip} (hd : sl.dest = s.fab.nodeId) (hk : sl.kind.toNat = kReadData) :
    exec (.readData sl) s = .next (finish s (settle (takeResponse sl s))) :=
  congrArg (fun t => Host.Outcome.next (finish s (settle t))) (if_pos (forUs_eq_true hd hk))

end

/-- The tile asks for its second slab, which no offset reaches: it ends with status 3, and its round loses the guarantee. -/
theorem takeResponse_farEnd :
    (findTile (takeResponse farEndData farEnd) farEndId).map (fun x => (x.phase, x.status)) = some (.finished, 3) ∧
    (takeResponse farEndData farEnd).desk = farEndDesk true ∧ (takeResponse farEndData farEnd).fab.rx = [] ∧
    (takeResponse farEndData farEnd).fab.rtsWait = [] := by
  decide +kernel

/-- So in the next state the round has lost the guarantee, and no answer is kept. -/
theorem readData_farEnd {t : State} (h : exec (.readData farEndData) farEnd = .next t) :
    (getQ t 1).rounds = [farEndRound true] ∧ t.fab.rx = [] := by
  obtain ⟨-, hdesk, hrx, hwait⟩ := takeResponse_farEnd
  rw [exec_readData rfl rfl] at h
  generalize takeResponse farEndData farEnd = v at h hdesk hrx hwait
  have hsettled := (steady_of_farEndDesk hdesk).settle_alone hwait
  rw [← Host.Outcome.next.inj h]
  exact ⟨(congrArg Queue.rounds (hsettled.queue 1)).trans (getQ_farEndDesk hdesk), hsettled.rx.trans hrx⟩

/-- A state before the stations settle, with the Desk as it was, leads to no such state: what follows changes the queues only when
an RTS meets its RECV, and then an answer is kept. -/
theorem settles_farEndDesk {u t : State} (hu : u.desk = farEndDesk false) (ht : t = finish farEnd (settle u)) :
    (getQ t 1).rounds = [farEndRound false] ∨ t.fab.rx ≠ [] := by
  rw [ht]
  exact (steady_of_farEndDesk hu).settle_cases.imp
    (fun h => (congrArg Queue.rounds (h.queue 1)).trans (getQ_farEndDesk hu)) id

/-- Refutes O52: when a slab is whole, the GET asks for its next one, and where that lies past the last byte that an offset names,
the tile ends and its round loses the guarantee, so that the Desk changes. farEnd, with the last 64 bytes of such a first slab to
come, is a state in which READ_DATA does this; the statement has the Desk stay as it is. -/
theorem not_responsesAndRendezvous : ¬ Obligations.ResponsesAndRendezvous := by
  unfold Obligations.ResponsesAndRendezvous
  intro h
  obtain ⟨hopen, hfound, hfar, hunit⟩ := farEnd_asked
  obtain ⟨hwhole, hmove⟩ := farEnd_whole
  obtain ⟨-, -, hread⟩ := h.1 farEndData farEnd farEndSent farEndTile farEnd_tidy rfl rfl hopen hfound rfl rfl hfar
  obtain ⟨-, hslab⟩ := hread farEndUnit rfl farEnd_undamaged hunit
  obtain ⟨t, hexec, u, ht, -, hdesk, -⟩ := hslab hwhole hmove
  obtain ⟨hlost, hrx⟩ := readData_farEnd hexec
  rcases settles_farEndDesk hdesk ht with hkept | hanswered
  · exact absurd (hlost.symm.trans hkept) (by decide)
  · exact hanswered hrx

end Sys2Proof.Machine
end
